-- ==== Sys2Proof/Word.lean ====
section
/-! DEFINITION. Word types and their plainest arithmetic (R4, R5). Byte strings are lists, lowest address first. -/
namespace Sys2Proof

abbrev Byte := BitVec 8
abbrev Word16 := BitVec 16
abbrev Word32 := BitVec 32
abbrev Word48 := BitVec 48
abbrev Word64 := BitVec 64

/-- A byte string, byte 0 first (R5). -/
abbrev Bytes := List Byte

end Sys2Proof
end

