-- ==== Sys2Proof/Syntax.lean ====
section
/-! DEFINITION. The commands of the block: one constructor of Instr per row of spec/opcode_table.json, with its
operands. Operands that the spec encodes in bits are bit vectors of the encoded width; numbers of blocks (cores, ports,
rings, links, panels) are Nat and checked in WellFormed. -/
namespace Sys2Proof

/-- Bits [119:112] of an operation word (Table 4.2): dependency queue and slack. -/
structure OpHdr where
  dep : BitVec 4
  slack : BitVec 4
deriving DecidableEq, Repr

/-- Flat form F of R82. -/
structure FlatF where
  subop : BitVec 4
  fmt : BitVec 8
  n1 : BitVec 20
  dst : BitVec 24
  a : BitVec 24
  b : BitVec 24
deriving DecidableEq, Repr

/-- Row form W of R82. -/
structure RowF where
  subop : BitVec 4
  fmt : BitVec 8
  rows1 : BitVec 12
  len1 : BitVec 16
  dst : BitVec 24
  a : BitVec 24
  b : BitVec 24
deriving DecidableEq, Repr

/-- LOAD operands (Table 4.5). -/
structure LoadF where
  target : BitVec 3
  sfmt : BitVec 8
  tfmt : BitVec 8
  elem : BitVec 24
  stride : BitVec 16
  scale : BitVec 24
deriving DecidableEq, Repr

/-- PASS operands (Table 4.6). -/
structure PassF where
  target : BitVec 3
  swap : Bool
  column : Bool
  start : Bool
  last : Bool
  fuse : Bool
  sfmt : BitVec 8
  tfmt : BitVec 8
  rows1 : BitVec 10
  base : BitVec 9
  stride : BitVec 16
  src : BitVec 24
deriving DecidableEq, Repr

/-- DRAIN operands (Table 4.5). -/
structure DrainF where
  target : BitVec 3
  dest : BitVec 2
  rows1 : BitVec 10
  base : BitVec 9
  dst : BitVec 24
  stride : BitVec 16
  desc : BitVec 24
deriving DecidableEq, Repr

/-- NHOLD operands (Table 4.5). -/
structure NHoldF where
  rows1 : BitVec 3
  fmt : BitVec 8
  len1 : BitVec 12
  src : BitVec 24
  stride : BitVec 16
deriving DecidableEq, Repr

/-- The streamed source of a needle operation: bits [71:47] of NSTREAM, and its stride. -/
structure NSrcF where
  channel : Bool
  ca : BitVec 24
  stride : BitVec 16
deriving DecidableEq, Repr

structure NStreamF where
  array : BitVec 2
  start : Bool
  final : Bool
  fmt : BitVec 8
  red1 : BitVec 12
  cols1 : BitVec 7
  base : BitVec 9
  src : NSrcF
deriving DecidableEq, Repr

structure NGraft1F where
  fmt : BitVec 8
  red1 : BitVec 12
  rank1 : BitVec 6
  src : NSrcF
deriving DecidableEq, Repr

structure NGraft2F where
  array : BitVec 2
  fmt : BitVec 8
  rank1 : BitVec 6
  cols1 : BitVec 7
  base : BitVec 9
  src : NSrcF
deriving DecidableEq, Repr

/-- VSCAN operands (Table 4.5). -/
structure ScanF where
  fmt : BitVec 8
  width1 : BitVec 12
  steps1 : BitVec 16
  dst : BitVec 24
  src : BitVec 24
  state : BitVec 24
deriving DecidableEq, Repr

/-- Operands of KADD, KSET, KWAITGE and KWAITEQ: knot address, value field, and bits [31:23] of Table 9.3. -/
structure KnotF where
  knot : BitVec 32
  value : BitVec 48
  mode : BitVec 2
  reg : BitVec 6
  step : Bool
deriving DecidableEq, Repr

/-- KARRIVE operands. -/
structure ArriveF where
  knot : BitVec 32
  gen : BitVec 16
  mode : BitVec 2
  reg : BitVec 6
  step : Bool
deriving DecidableEq, Repr

/-- Who asks an object-dictionary request: the path (0 the management port, h + 1 the mailbox of Hh) and, on a mailbox,
header byte 2 (R385, R391). -/
structure OdReq where
  path : Nat
  panel : Nat
  txn : Word16
deriving DecidableEq, Repr

/-- The fields of a flit link header that the link acts on (Table 11.3), whether the flit passed its CRC-64, the FEC symbols corrected
in it and the FEC codewords that could not be. -/
structure FlitHdr where
  seq : BitVec 12
  ack : BitVec 12
  cvc : BitVec 2
  cpanel : BitVec 4
  ccount : BitVec 8
  vc : BitVec 2
  panel : BitVec 4
  sub : Bool
  crcOk : Bool
  fecFixed : Nat
  fecLost : Nat
deriving DecidableEq, Repr

/-- The transport header of Table 11.5; `resv` says that a bit which the table has at zero is set. -/
structure PktHdr where
  ver : BitVec 4
  cls : BitVec 2
  op : BitVec 8
  first : Bool
  last : Bool
  trail : Bool
  enc : Bool
  ece : Bool
  keySlot : BitVec 4
  panel : BitVec 4
  dstFab : BitVec 8
  srcFab : BitVec 8
  dstQp : BitVec 12
  srcQp : BitVec 12
  len : BitVec 16
  psn : BitVec 24
  msg : BitVec 32
  off : BitVec 32
  nonce : BitVec 64
  resv : Bool := false
deriving DecidableEq, Repr

/-- A packet as it reaches the transport: header, the ECN mark CE, payload (ciphertext under ENC) and GCM tag; for one that comes in,
the link that brought it, and whether its CRC-32 checks (native mode, R251). -/
structure Packet where
  hdr : PktHdr
  ce : Bool
  payload : Bytes
  tag : Bytes
  link : Nat := 0
  intact : Bool := true
deriving DecidableEq, Repr

/-- The fields of a received Ethernet frame that R258 and R259 test: its length in bytes, its tags with the VID of the first, and
whether its FCS and its UDP checksum check. -/
structure EthFrame where
  length : Nat
  dstMac : BitVec 48
  tags : Nat
  vid : BitVec 12
  ethertype : BitVec 16
  nextHeader : BitVec 8
  dstAddr : BitVec 128
  udpPort : BitVec 16
  fcsOk : Bool
  sumOk : Bool
deriving DecidableEq, Repr

/-- An IDENT message (R247). -/
structure IdentMsg where
  fabric : BitVec 8
  link : BitVec 8
  unassigned : Bool
  digest : Bytes
deriving DecidableEq, Repr

/-- A received LINKCTL flit with an IDENT message (R247). -/
structure IdentFlit where
  hdr : FlitHdr
  msg : IdentMsg
deriving DecidableEq, Repr

/-- A received LINKCTL flit with the target of a SPEED message (R247, R256). -/
structure SpeedFlit where
  hdr : FlitHdr
  target : BitVec 2
deriving DecidableEq, Repr

/-- A flit received on a link. -/
structure LinkFlit where
  link : Nat
  hdr : FlitHdr
deriving DecidableEq, Repr

/-- A retrain of a link: with the RETRAIN flit that the partner sent, or with none where this end begins it (R248). -/
structure LinkRetrain where
  link : Nat
  flit : Option FlitHdr
deriving DecidableEq, Repr

/-- How a packet came in: its tag, its link, and whether it is intact. -/
structure Arrival where
  tag : Bytes
  link : Nat
  intact : Bool
deriving DecidableEq, Repr

/-- A retrain of a Riloz port, with the TLPs that failed their check and those sent again (R308, R312). -/
structure PortRetrain where
  port : Nat
  failed : Nat
  replayed : Nat
deriving DecidableEq, Repr

/-- The node number of an ASSIGN and the transaction of its frame (R382). -/
structure NodeAssign where
  node : Byte
  txn : Word16
deriving DecidableEq, Repr

/-- The commands of the block, in the order of spec/opcode_table.json. A first argument `c` of a stage-program operation
is the logical core whose sequencer has reached it. -/
inductive Instr where
  | nop (c : Nat) (h : OpHdr)
  | endOp (c : Nat) (h : OpHdr)
  | loop (c : Nat) (h : OpHdr) (level : BitVec 2) (count1 : BitVec 24)
  | next (c : Nat) (h : OpHdr) (level : BitVec 2)
  | seta (c : Nat) (h : OpHdr) (reg : BitVec 4) (value : BitVec 20)
  | adda (c : Nat) (h : OpHdr) (reg : BitVec 4) (incr : BitVec 20)
  | waitq (c : Nat) (h : OpHdr) (mask : BitVec 16)
  | yield (c : Nat) (h : OpHdr)
  | commit (c : Nat) (h : OpHdr)
  | phase (c : Nat) (h : OpHdr) (phase : BitVec 4)
  | stepclose (c : Nat) (h : OpHdr) (layer : Word48)
  | load (c : Nat) (h : OpHdr) (f : LoadF)
  | pass (c : Nat) (h : OpHdr) (f : PassF) (mismatch : List Nat)
  | checkRerun (c : Nat) (array : Nat) (mismatch : List Nat)
  | drain (c : Nat) (h : OpHdr) (f : DrainF)
  | nhold (c : Nat) (h : OpHdr) (f : NHoldF)
  | nstream (c : Nat) (h : OpHdr) (f : NStreamF) (mismatches : Nat)
  | ngraft1 (c : Nat) (h : OpHdr) (f : NGraft1F) (mismatches : Nat)
  | ngraft2 (c : Nat) (h : OpHdr) (f : NGraft2F) (mismatches : Nat)
  | vbin (c : Nat) (h : OpHdr) (f : FlatF)
  | vfma (c : Nat) (h : OpHdr) (f : FlatF)
  | vun (c : Nat) (h : OpHdr) (f : FlatF)
  | vred (c : Nat) (h : OpHdr) (f : RowF)
  | vrow (c : Nat) (h : OpHdr) (f : RowF)
  | vcvt (c : Nat) (h : OpHdr) (f : RowF)
  | vsoft (c : Nat) (h : OpHdr) (f : RowF)
  | vmask (c : Nat) (h : OpHdr) (f : RowF)
  | vscan (c : Nat) (h : OpHdr) (f : ScanF)
  | vopt (c : Nat) (h : OpHdr) (alg : BitVec 4) (desc : BitVec 24)
  | fload (c : Nat) (h : OpHdr) (slot : BitVec 4) (image : BitVec 24)
  | feval (c : Nat) (h : OpHdr) (f : FlatF)
  | fderiv (c : Nat) (h : OpHdr) (f : FlatF)
  | operationRetire (c : Nat) (q : Nat)
  | moveCopy (c : Nat) (h : OpHdr) (desc : BitVec 24)
  | moveSwatchRead (c : Nat) (h : OpHdr) (desc : BitVec 24)
  | moveSwatchWrite (c : Nat) (h : OpHdr) (desc : BitVec 24)
  | moveTable (c : Nat) (h : OpHdr) (desc : BitVec 24)
  | moveZero (c : Nat) (h : OpHdr) (desc : BitVec 24)
  | moveSend (c : Nat) (h : OpHdr) (desc : BitVec 24)
  | stream (c : Nat) (h : OpHdr) (channel : BitVec 2) (desc : BitVec 24)
  | moverRequestIssue (c : Nat)
  | mergeWindowExpiry (c : Nat)
  | chunkComplete (c : Nat) (move : Nat)
  | moveRetire (c : Nat) (move : Nat)
  | hostWindowFault (c : Nat) (move : Nat)
  | faultResume (r : OdReq) (panel : Nat) (number : Word16)
  | faultAbort (r : OdReq) (panel : Nat) (number : Word16)
  | faultTimeout (panel : Nat) (number : Word16)
  | poolConfigWrite (r : OdReq) (panel : Nat) (entries : Bool) (value : Word64)
  | kadd (c : Nat) (h : OpHdr) (f : KnotF)
  | kset (c : Nat) (h : OpHdr) (f : KnotF)
  | kwaitge (c : Nat) (h : OpHdr) (f : KnotF)
  | kwaiteq (c : Nat) (h : OpHdr) (f : KnotF)
  | karrive (c : Nat) (h : OpHdr) (f : ArriveF)
  | spaceWait (c : Nat) (h : OpHdr) (spool : BitVec 6) (k : BitVec 48)
  | dataWait (c : Nat) (h : OpHdr) (spool : BitVec 6) (k : BitVec 48)
  | scommit (c : Nat) (h : OpHdr) (spool : BitVec 6) (k : BitVec 24)
  | srelease (c : Nat) (h : OpHdr) (spool : BitVec 6) (k : BitVec 24)
  | spoolOccupancySample (panel : Nat) (spool : Nat)
  | remoteWaitRetry (c : Nat)
  | watchdogExpiry (c : Nat) (q : Nat)
  | waitAbort (r : OdReq) (panel : Nat) (tag : Word32)
  | knotGrantsWrite (r : OdReq) (panel : Nat) (data : Bytes)
  | kernelStart (panel : Nat)
  | kernelEnd (kid : Nat)
  | preempt (panel : Nat)
  | kernelResume (panel : Nat)
  | schedAbort (r : OdReq) (panel : Nat) (tag : Word32)
  | schedDecide (r : OdReq) (panel : Nat) (step : Word32)
  | snapshotEntry (panel : Nat)
  | snapshotTimeout (panel : Nat)
  | readFailure (addr : Word48) (tagFailed : Bool)
  | reconstructionComplete (addr : Word48)
  | regenerationComplete (addr : Word48)
  | restoreDone (r : OdReq) (panel : Nat) (knot : Byte) (good : Bool)
  | rootPortDown (x : Nat)
  | rootRebuild (r : OdReq) (x : Byte)
  | rootModeWrite (r : OdReq) (parityPort : Bool) (value : Byte)
  | sanitizeComplete (x : Nat) (ok : Bool)
  | sanitizeTimeout (x : Nat)
  | directWaysWrite (r : OdReq) (panel : Nat) (n : Byte)
  | streamFillStart (panel : Nat)
  | streamFillComplete (panel : Nat) (n : Nat)
  | tableGather (tile : Nat)
  | tableScatterAdd (tile : Nat)
  | tableUpdate (tile : Nat)
  | tableBatchPeriod (slot : Nat)
  | tableBatchServe (slot : Nat) (srcFab : BitVec 8) (rows : List Nat)
  | panelOpen (r : OdReq) (panel : Nat)
  | panelRelease (r : OdReq) (panel : Nat)
  | panelScrubComplete (panel : Nat) (ms : Word32)
  | regionEntryValidate (port : Nat) (w : Nat) (entry : Nat)
  | regionEntryRevoke (port : Nat) (w : Nat) (entry : Nat)
  | seamArm (r : OdReq)
  | seamDisarm (r : OdReq)
  | seamJoin (r : OdReq) (panel : Nat)
  | seamLeave (r : OdReq) (panel : Nat)
  | depositDense (panel : Nat)
  | depositNoise (panel : Nat)
  | depositRowed (panel : Nat)
  | depositFree (panel : Nat)
  | seamSlotTimeout (slot : Nat)
  | seamRelease (slot : Nat)
  | keyEstablish (r : OdReq) (panel : Nat) (data : Bytes)
  | keyInstall (r : OdReq) (panel : Nat) (data : Bytes)
  | attestNonce (r : OdReq) (data : Bytes)
  | quoteReady (leafOk : Bool)
  | linkPartnerDetect (l : Nat)
  | linkTrainingDone (l : Nat) (lanes : Nat)
  | flitData (l : Nat) (h : FlitHdr)
  | flitIdle (l : Nat) (h : FlitHdr)
  | flitNak (l : Nat) (h : FlitHdr)
  | ident (l : Nat) (m : IdentFlit)
  | speedReq (l : Nat) (target : SpeedFlit)
  | speedAck (l : Nat) (target : SpeedFlit) (seq : BitVec 12)
  | speedRefuse (l : LinkFlit)
  | retrain (l : LinkRetrain)
  | retrainComplete (l : Nat) (lanes : Nat)
  | linkRetrainTimeout (l : Nat)
  | replayTimeout (l : Nat)
  | speedLowerWindow (l : Nat) (utilPct : Nat)
  | speedRaiseTrigger (l : Nat)
  | packetForward (l : Nat) (p : Packet)
  | sprayEscapeTimeout (l : Nat) (p : Packet)
  | transmitUnderrun (l : Nat)
  | cutThroughStepDown (l : Nat)
  | ethFrameReceive (l : Nat) (f : EthFrame)
  | pfcSend (l : Nat) (control : Bool) (fill : Nat)
  | pfcRepeat (l : Nat) (control : Bool)
  | pfcReceive (l : Nat) (prio : BitVec 3) (quanta : Word16)
  | lldpTransmit (l : Nat)
  | lldpReceive (l : Nat) (fabric : BitVec 8) (link : BitVec 8) (digest : Bytes)
  | neighborSolicitation (l : Nat) (target : BitVec 128)
  | ecnRateIncrease (qp : Nat)
  | digestAnnounce
  | digest (hdr : PktHdr) (ce : Bool) (payload : Bytes) (arrival : Arrival)
  | qpCreate (port : Nat) (ring : Nat)
  | qpDestroy (port : Nat) (ring : Nat)
  | qpReset (port : Nat) (ring : Nat)
  | send (p : Packet)
  | ack (p : Packet)
  | ackTimer (qp : Nat)
  | nak (p : Packet)
  | nakRetry (qp : Nat) (psn : BitVec 24)
  | nakLimitExpiry (qp : Nat) (psn : BitVec 24)
  | retryTimeout (qp : Nat) (psn : BitVec 24)
  | knot (p : Packet)
  | wake (p : Packet)
  | contextRestoreComplete (qp : Nat)
  | ctxRestored (r : OdReq) (panel : Nat) (qp : Word16)
  | allReduce (port : Nat) (ring : Nat)
  | reduceScatter (port : Nat) (ring : Nat)
  | allGather (port : Nat) (ring : Nat)
  | permute (port : Nat) (ring : Nat)
  | inboundWrite (port : Nat) (bar0 : Bool) (offset : Nat) (data : Bytes)
  | bar2Read (port : Nat) (offset : Nat)
  | doorbell (port : Nat) (ring : Nat) (tail : Word32)
  | ringEnable (port : Nat) (ring : Nat)
  | ringDisable (port : Nat) (ring : Nat)
  | doorbellGraceExpiry (port : Nat) (ring : Nat)
  | nopRecord (port : Nat) (ring : Nat)
  | kernel (port : Nat) (ring : Nat)
  | fence (port : Nat) (ring : Nat)
  | fenceClear (port : Nat) (ring : Nat)
  | publish (port : Nat) (ring : Nat)
  | job (port : Nat) (ring : Nat)
  | schedule (port : Nat) (ring : Nat)
  | snapshot (port : Nat) (ring : Nat)
  | graftRegister (port : Nat) (ring : Nat)
  | graftRelease (port : Nat) (ring : Nat)
  | windowStart (port : Nat) (ring : Nat)
  | windowStop (port : Nat) (ring : Nat)
  | tableRegister (port : Nat) (ring : Nat)
  | tableRelease (port : Nat) (ring : Nat)
  | hint (port : Nat) (ring : Nat)
  | hintExpiry (panel : Nat)
  | worklist (port : Nat) (ring : Nat)
  | model (port : Nat) (ring : Nat)
  | translationInvalidate (port : Nat) (w : Nat) (page : Word32)
  | eventConsumerWrite (port : Nat) (w : Nat) (value : Word32)
  | completionConsumerWrite (port : Nat) (ring : Nat) (value : Word32)
  | irqHoldoffExpiry (port : Nat) (vector : Word16)
  | portRetrain (port : PortRetrain)
  | portRetrainComplete (port : Nat)
  | hostLost (port : Nat)
  | attach (port : Nat)
  | hostGraceExpiry (port : Nat)
  | opRequestTick
  | capUpdate (powerMw : Nat)
  | ceilingStep
  | opChange
  | pwrbrkAssert
  | pwrbrkDeassert
  | droopDetect (group : Nat)
  | droopRecover (group : Nat) (skipped : Nat)
  | inputUndervoltage (mv : Nat)
  | inputVoltageRecover (mv : Nat)
  | inputBrownoutExpiry
  | inputOvervoltage (mv : Nat)
  | thermalSample (temps : List (BitVec 8))
  | powerOn (calOk : Bool)
  | powerRemoval
  | boot (r : OdReq) (source : Byte)
  | moduleResetAssert
  | moduleResetRelease
  | moduleReset (r : OdReq)
  | warmReset (r : OdReq)
  | panelReset (r : OdReq) (panel : Nat)
  | powerStateD0 (r : OdReq)
  | powerStateD1 (r : OdReq)
  | powerStateD2 (r : OdReq)
  | powerStateD3 (r : OdReq)
  | d1IdleExpiry
  | coreRemap (c : Nat) (bad : List Nat)
  | coreHeartbeatProbe (c : Nat) (answered : Bool)
  | remapGo (r : OdReq) (panel : Nat) (core : Byte)
  | hubAdoption (tile : Nat)
  | patrolScrub (stack : Nat) (corrected : Nat) (uncorrectable : List Word48) (queued : Nat)
  | rowRepair (stack : Nat)
  | moduleFatal (cause : Byte) (tile : Byte)
  | assign (mac : BitVec 48) (node : NodeAssign)
  | leave (r : OdReq)
  | fabricIdWrite (r : OdReq) (value : Word16)
  | read (r : OdReq) (index : Word16) (sub : Byte)
  | write (r : OdReq) (index : Word16) (sub : Byte) (data : Bytes)
  | segReadInitiate (r : OdReq) (index : Word16) (sub : Byte)
  | segWriteInitiate (r : OdReq) (index : Word16) (sub : Byte) (total : Word32)
  | segment (r : OdReq) (k : Word32) (data : Bytes)
  | segReq (r : OdReq) (k : Word32)
  | abort (r : OdReq)
  | segTimeout (path : Nat)
  | corRead (r : OdReq) (index : Word16) (sub : Byte)
  | eventAck (seq : Word32)
  | eventRetry
  | plcaBeaconLoss
  | lossOfSignal (l : Nat)
  | laneFailure (l : Nat)
  | rootPortUp (x : Nat) (lanes : Nat) (gts : Nat) (capacity : Nat)
  | rootRebuildComplete (x : Nat)
  | plcaBeaconReturn
  | pfcQuantaExpiry (l : Nat) (control : Bool)
deriving DecidableEq, Repr

end Sys2Proof
end

