-- ==== Sys2Proof/Decode.lean ====
section
/-! DEFINITION. Words that spell commands. The table of commands gives no row any bits (98_reader.md: no fixed bits, no fields), so
no word spells a command of the table and no encoder is owed; the 128-bit words of stage programs are decoded here
(Tables 4.2, 4.5, 4.6 and 9.3). -/
namespace Sys2Proof

/-- The command that a word of the opcode table spells: none, for no row of the table gives bits. -/
def decodeTableWord (_nbits _w : Nat) : Option Instr := none

/-! ### Stage-program operations (R75, R82, R83, R193) -/

/-- The field of a word from bit `lo` up, as wide as its place wants it. -/
def fieldAt {n : Nat} (w lo : Nat) : BitVec n := BitVec.ofNat n (w >>> lo)

/-- Flat form F. -/
def flatAt (w : Nat) : FlatF :=
  { subop := fieldAt w 108, fmt := fieldAt w 100, n1 := fieldAt w 80, dst := fieldAt w 56, a := fieldAt w 32, b := fieldAt w 8 }

/-- Row form W. -/
def rowAtWord (w : Nat) : RowF :=
  { subop := fieldAt w 108, fmt := fieldAt w 100, rows1 := fieldAt w 88, len1 := fieldAt w 72, dst := fieldAt w 48
    a := fieldAt w 24, b := fieldAt w 0 }

/-- The streamed source of the needle: bits [71:47], and the stride in [46:31]. -/
def sourceAt (w : Nat) : NSrcF := { channel := w.testBit 71, ca := fieldAt w 47, stride := fieldAt w 31 }

def loadAt (w : Nat) : LoadF :=
  { target := fieldAt w 109, sfmt := fieldAt w 100, tfmt := fieldAt w 92, elem := fieldAt w 68, stride := fieldAt w 52
    scale := fieldAt w 28 }

/-- PASS (Table 4.6). -/
def passAt (w : Nat) : PassF :=
  { target := fieldAt w 109, swap := w.testBit 108, column := w.testBit 107, start := w.testBit 106, last := w.testBit 105
    fuse := w.testBit 104, sfmt := fieldAt w 96, tfmt := fieldAt w 88, rows1 := fieldAt w 78, base := fieldAt w 69
    stride := fieldAt w 53, src := fieldAt w 29 }

def drainAt (w : Nat) : DrainF :=
  { target := fieldAt w 109, dest := fieldAt w 107, rows1 := fieldAt w 97, base := fieldAt w 88, dst := fieldAt w 64
    stride := fieldAt w 48, desc := fieldAt w 24 }

def nholdAt (w : Nat) : NHoldF :=
  { rows1 := fieldAt w 108, fmt := fieldAt w 100, len1 := fieldAt w 88, src := fieldAt w 64, stride := fieldAt w 48 }

def nstreamAt (w : Nat) : NStreamF :=
  { array := fieldAt w 110, start := w.testBit 109, final := w.testBit 108, fmt := fieldAt w 100, red1 := fieldAt w 88
    cols1 := fieldAt w 81, base := fieldAt w 72, src := sourceAt w }

def ngraft1At (w : Nat) : NGraft1F :=
  { fmt := fieldAt w 100, red1 := fieldAt w 88, rank1 := fieldAt w 82, src := sourceAt w }

def ngraft2At (w : Nat) : NGraft2F :=
  { array := fieldAt w 110, fmt := fieldAt w 100, rank1 := fieldAt w 94, cols1 := fieldAt w 87, base := fieldAt w 78
    src := sourceAt w }

def scanAt (w : Nat) : ScanF :=
  { fmt := fieldAt w 100, width1 := fieldAt w 88, steps1 := fieldAt w 72, dst := fieldAt w 48, src := fieldAt w 24
    state := fieldAt w 0 }

/-- KADD, KSET and the waits: bits [31:0] as Table 9.3 has them. -/
def knotOpAt (w : Nat) : KnotF :=
  { knot := fieldAt w 80, value := fieldAt w 32, mode := fieldAt w 30, reg := fieldAt w 24, step := w.testBit 23 }

def arriveAt (w : Nat) : ArriveF :=
  { knot := fieldAt w 80, gen := fieldAt w 64, mode := fieldAt w 30, reg := fieldAt w 24, step := w.testBit 23 }

/-- The operation that a 128-bit word of core c's program spells; none where its opcode is not listed in Table 4.5. Bits that an
operation does not use are ignored (R6). A MOVE's kind is its descriptor's, so each word of opcode 0x38 reads as a copy. -/
def decodeOp (c w : Nat) : Option Instr :=
  let h : OpHdr := { dep := fieldAt w 116, slack := fieldAt w 112 }
  match w / 2 ^ 120 % 256 with
  | 0x00 => some (.nop c h)
  | 0x01 => some (.endOp c h)
  | 0x02 => some (.loop c h (fieldAt w 110) (fieldAt w 86))
  | 0x03 => some (.next c h (fieldAt w 110))
  | 0x04 => some (.seta c h (fieldAt w 108) (fieldAt w 88))
  | 0x05 => some (.adda c h (fieldAt w 108) (fieldAt w 88))
  | 0x06 => some (.waitq c h (fieldAt w 96))
  | 0x07 => some (.yield c h)
  | 0x08 => some (.commit c h)
  | 0x09 => some (.phase c h (fieldAt w 108))
  | 0x0A => some (.stepclose c h (fieldAt w 64))
  | 0x10 => some (.load c h (loadAt w))
  | 0x11 => some (.pass c h (passAt w) [])
  | 0x12 => some (.drain c h (drainAt w))
  | 0x18 => some (.nhold c h (nholdAt w))
  | 0x19 => some (.nstream c h (nstreamAt w) 0)
  | 0x1A => some (.ngraft1 c h (ngraft1At w) 0)
  | 0x1B => some (.ngraft2 c h (ngraft2At w) 0)
  | 0x20 => some (.vbin c h (flatAt w))
  | 0x21 => some (.vfma c h (flatAt w))
  | 0x22 => some (.vun c h (flatAt w))
  | 0x23 => some (.vred c h (rowAtWord w))
  | 0x24 => some (.vrow c h (rowAtWord w))
  | 0x25 => some (.vcvt c h (rowAtWord w))
  | 0x26 => some (.vsoft c h (rowAtWord w))
  | 0x27 => some (.vmask c h (rowAtWord w))
  | 0x28 => some (.vscan c h (scanAt w))
  | 0x29 => some (.vopt c h (fieldAt w 108) (fieldAt w 84))
  | 0x30 => some (.fload c h (fieldAt w 108) (fieldAt w 84))
  | 0x31 => some (.feval c h (flatAt w))
  | 0x32 => some (.fderiv c h (flatAt w))
  | 0x38 => some (.moveCopy c h (fieldAt w 88))
  | 0x39 => some (.stream c h (fieldAt w 110) (fieldAt w 84))
  | 0x40 => some (.kadd c h (knotOpAt w))
  | 0x41 => some (.kset c h (knotOpAt w))
  | 0x42 => some (.kwaitge c h (knotOpAt w))
  | 0x43 => some (.kwaiteq c h (knotOpAt w))
  | 0x44 => some (.karrive c h (arriveAt w))
  | 0x48 => some (.scommit c h (fieldAt w 106) (fieldAt w 82))
  | 0x49 => some (.srelease c h (fieldAt w 106) (fieldAt w 82))
  | _ => none

/-- The word's operation that a command stands for: what the array finds as it runs is no part of the word, the kinds of MOVE share
one opcode, and a spool wait is a KWAITGE of knot address zero in mode SPACE or DATA (R193). -/
def Instr.asWord : Instr → Instr
  | .pass c h f _ => .pass c h f []
  | .nstream c h f _ => .nstream c h f 0
  | .ngraft1 c h f _ => .ngraft1 c h f 0
  | .ngraft2 c h f _ => .ngraft2 c h f 0
  | .moveSwatchRead c h d => .moveCopy c h d
  | .moveSwatchWrite c h d => .moveCopy c h d
  | .moveTable c h d => .moveCopy c h d
  | .moveZero c h d => .moveCopy c h d
  | .moveSend c h d => .moveCopy c h d
  | .spaceWait c h n k => .kwaitge c h { knot := 0, value := k, mode := 2, reg := n, step := false }
  | .dataWait c h n k => .kwaitge c h { knot := 0, value := k, mode := 3, reg := n, step := false }
  | i => i

/-- Does word w of core c's program spell the operation of command i. -/
def spells (c w : Nat) (i : Instr) : Bool := decodeOp c w == some i.asWord

end Sys2Proof
end

