-- ==== Sys2Proof/Machine/Flags.lean ====
section
/-! DEFINITION. The arithmetic of the part: exact values, the one rounding of each operation, the element formats of
Tables 3.1 and 3.2, the block sum of R50 and R51, and the random bits of R56. A block has no condition flags; the counts
that a conversion raises are computed in Convert. -/
namespace Sys2Proof.Machine

/-- A value as the numerics sees it: NaN, a signed infinity, or the exact number ±m·2^e (a zero keeps its sign). -/
inductive FVal where
  | nan
  | inf (neg : Bool)
  | fin (neg : Bool) (m : Nat) (e : Int)
deriving DecidableEq, Repr

/-- How a value between two neighbours is rounded (R52, R55). -/
inductive Round where
  | rne
  | rtz
  | sr (r16 : Nat)
deriving DecidableEq, Repr

/-- 2^k for an integer k that is known not to be negative. -/
def pow2 (k : Int) : Nat := 2 ^ k.toNat

/-- The quotient m / 2^s rounded; `sticky` says that the true value lies strictly above m (R55 step 3). -/
def roundShift (r : Round) (m s : Nat) (sticky : Bool) : Nat :=
  let q := m / 2 ^ s
  let rem := m % 2 ^ s
  match r with
  | .rne =>
    if 2 * rem < 2 ^ s then q
    else if 2 * rem = 2 ^ s && !sticky then q + q % 2
    else if rem = 0 then q
    else q + 1
  | .rtz => q
  | .sr r16 => if 2 ^ 16 * rem / 2 ^ s + r16 ≥ 2 ^ 16 then q + 1 else q

/-- The code, without sign, of the magnitude m·2^e in a format with `mb` mantissa bits whose subnormals step by 2^lsb. A
carry out of the mantissa enters the exponent field. -/
def packMag (mb : Nat) (lsb : Int) (r : Round) (m : Nat) (e : Int) (sticky : Bool) : Nat :=
  if m = 0 then 0 else
    let t := max ((Nat.log2 m : Int) + e - mb) lsb
    let q := if t ≤ e then m * pow2 (e - t) else roundShift r m (t - e).toNat sticky
    (t - lsb).toNat * 2 ^ mb + q

/-- An IEEE 754 code with `eb` exponent and `mb` mantissa bits, overflow as R55 has it. -/
def packIeee (eb mb : Nat) (r : Round) (v : FVal) (sticky : Bool := false) : Nat :=
  let top := (2 ^ eb - 1) * 2 ^ mb
  let sign (neg : Bool) : Nat := if neg then 2 ^ (eb + mb) else 0
  match v with
  | .nan => top + 2 ^ (mb - 1)
  | .inf neg => sign neg + top
  | .fin neg m e =>
    let c := packMag mb (2 - 2 ^ (eb - 1) - mb) r m e sticky
    if c < top then sign neg + c
    else match r with
      | .rne => sign neg + top
      | _ => sign neg + (top - 1)

/-- The value of an IEEE 754 code. -/
def unpackIeee (eb mb : Nat) (c : Nat) : FVal :=
  let neg := c / 2 ^ (eb + mb) % 2 == 1
  let e := c / 2 ^ mb % 2 ^ eb
  let m := c % 2 ^ mb
  let lsb : Int := 2 - 2 ^ (eb - 1) - mb
  if e = 2 ^ eb - 1 then (if m = 0 then .inf neg else .nan)
  else if e = 0 then .fin neg m lsb
  else .fin neg (2 ^ mb + m) (lsb + e - 1)

/-- The value of a binary32 word (Table 3.2). -/
def f32val (w : Word32) : FVal := unpackIeee 8 23 w.toNat

/-- The one rounding of the part: to the nearest binary32, ties to even; every NaN is 0x7FC0_0000 (R50, R51, R85). -/
def rne32 (v : FVal) (sticky : Bool := false) : Word32 := BitVec.ofNat 32 (packIeee 8 23 .rne v sticky)

/-- The value of a word of a vector format: 0x21 binary32, 0x10 BF16, 0x20 binary16 (R85). -/
def vecVal (fmt : Byte) (c : Nat) : FVal :=
  if fmt = 0x21 then unpackIeee 8 23 c else if fmt = 0x10 then unpackIeee 8 7 c else unpackIeee 5 10 c

/-- Round a binary32 result to the format of the operation (R85). -/
def vecPack (fmt : Byte) (w : Word32) : Nat :=
  if fmt = 0x21 then w.toNat
  else if fmt = 0x10 then packIeee 8 7 .rne (f32val w) else packIeee 5 10 .rne (f32val w)

/-- Bytes of one element of a vector format. -/
def vecBytes (fmt : Byte) : Nat := if fmt = 0x21 then 4 else 2

/-- The signed mantissa of ±m·2^e aligned to exponent `t`, t ≤ e. -/
def alignTo (neg : Bool) (m : Nat) (e t : Int) : Int :=
  let v : Int := (m * pow2 (e - t) : Nat)
  if neg then -v else v

/-- The exact number i·2^e as a value; `zneg` is the sign of a zero. -/
def ofInt (i : Int) (e : Int) (zneg : Bool) : FVal :=
  if i = 0 then .fin zneg 0 e else .fin (i < 0) i.natAbs e

/-- Exact sum, IEEE 754 rules for infinities and for the sign of an exact zero. -/
def fadd (x y : FVal) : FVal :=
  match x, y with
  | .nan, _ => .nan
  | _, .nan => .nan
  | .inf a, .inf b => if a = b then .inf a else .nan
  | .inf a, .fin .. => .inf a
  | .fin .., .inf b => .inf b
  | .fin sx mx ex, .fin sy my ey =>
    let t := min ex ey
    ofInt (alignTo sx mx ex t + alignTo sy my ey t) t (sx && sy)

def fneg (x : FVal) : FVal :=
  match x with
  | .nan => .nan
  | .inf a => .inf (!a)
  | .fin a m e => .fin (!a) m e

def fabs (x : FVal) : FVal :=
  match x with
  | .nan => .nan
  | .inf _ => .inf false
  | .fin _ m e => .fin false m e

def FVal.isZero (x : FVal) : Bool :=
  match x with
  | .fin _ 0 _ => true
  | _ => false

def FVal.isFin (x : FVal) : Bool :=
  match x with
  | .fin .. => true
  | _ => false

def FVal.isNeg (x : FVal) : Bool :=
  match x with
  | .nan => false
  | .inf a => a
  | .fin a _ _ => a

/-- Exact product. -/
def fmul (x y : FVal) : FVal :=
  match x, y with
  | .nan, _ => .nan
  | _, .nan => .nan
  | .inf a, y => if y.isZero then .nan else .inf (a != y.isNeg)
  | x, .inf b => if x.isZero then .nan else .inf (x.isNeg != b)
  | .fin sx mx ex, .fin sy my ey => .fin (sx != sy) (mx * my) (ex + ey)

/-- Binary32 add, subtract, multiply and fused multiply-add, each rounded once (R85). -/
def add32 (a b : Word32) : Word32 := rne32 (fadd (f32val a) (f32val b))
def sub32 (a b : Word32) : Word32 := rne32 (fadd (f32val a) (fneg (f32val b)))
def mul32 (a b : Word32) : Word32 := rne32 (fmul (f32val a) (f32val b))
def fma32 (a b c : Word32) : Word32 := rne32 (fadd (fmul (f32val a) (f32val b)) (f32val c))

/-- Floor of the square root, by `k` binary digits. -/
def isqrtDigits (n : Nat) : Nat → Nat → Nat
  | 0, r => r
  | k + 1, r => isqrtDigits n k (if (r + 2 ^ k) * (r + 2 ^ k) ≤ n then r + 2 ^ k else r)

def isqrt (n : Nat) : Nat := isqrtDigits n (Nat.log2 n / 2 + 1) 0

/-- The square root with 30 or more digits, and whether anything was cut off. -/
def sqrtOf (m : Nat) (e : Int) : Nat × Int × Bool :=
  let up : Nat := 62 + (e - 62).toNat % 2 + (if e < 62 then (62 - e).toNat % 2 else 0)
  let n := m * 2 ^ up
  let q := isqrt n
  (q, (e - up) / 2, q * q != n)

def sqrt32 (a : Word32) : Word32 :=
  match f32val a with
  | .nan => rne32 .nan
  | .inf neg => if neg then rne32 .nan else rne32 (.inf false)
  | .fin neg m e =>
    if m = 0 then a else if neg then rne32 .nan
    else match sqrtOf m e with
      | (q, t, sticky) => rne32 (.fin false q t) sticky

/-- The reciprocal of m·2^e to 40 or more digits, and whether anything was cut off. -/
def recipOf (m : Nat) (e : Int) : Nat × Int × Bool :=
  let k := Nat.log2 m + 41
  (2 ^ k / m, -e - k, 2 ^ k % m != 0)

def recip32 (a : Word32) : Word32 :=
  match f32val a with
  | .nan => rne32 .nan
  | .inf neg => rne32 (.fin neg 0 0)
  | .fin neg m e =>
    if m = 0 then rne32 (.inf neg)
    else match recipOf m e with
      | (q, t, sticky) => rne32 (.fin neg q t) sticky

/-- 1/√(m·2^e) to 30 or more digits, and whether anything was cut off: floor √(2^(2j − e) / m) · 2^(−j). -/
def rsqrtOf (m : Nat) (e : Int) : Nat × Int × Bool :=
  let j : Int := (e + Nat.log2 m + 64) / 2
  let n := pow2 (2 * j - e)
  let q := isqrt (n / m)
  (q, -j, q * q * m != n)

def rsqrt32 (a : Word32) : Word32 :=
  match f32val a with
  | .nan => rne32 .nan
  | .inf neg => if neg then rne32 .nan else rne32 (.fin false 0 0)
  | .fin neg m e =>
    if m = 0 then rne32 (.inf neg) else if neg then rne32 .nan
    else match rsqrtOf m e with
      | (q, t, sticky) => rne32 (.fin false q t) sticky

/-- The quotient a / b rounded once, for the divisions of the update formulas. -/
def div32 (a b : Word32) : Word32 :=
  match f32val a, f32val b with
  | .nan, _ => rne32 .nan
  | _, .nan => rne32 .nan
  | .inf _, .inf _ => rne32 .nan
  | .inf s, y => rne32 (.inf (s != y.isNeg))
  | x, .inf s => rne32 (.fin (x.isNeg != s) 0 0)
  | .fin sx mx ex, .fin sy my ey =>
    if my = 0 then (if mx = 0 then rne32 .nan else rne32 (.inf (sx != sy)))
    else
      let k := Nat.log2 my + 64
      rne32 (.fin (sx != sy) (mx * 2 ^ k / my) (ex - ey - k)) (mx * 2 ^ k % my != 0)

/-- Order of binary32 codes with +0.0 above −0.0 (R85): a key that rises with the value. -/
def orderKey (a : Word32) : Int :=
  let m : Int := ((a &&& 0x7FFF_FFFF).toNat : Nat)
  if a.getLsbD 31 then -m - 1 else m

def isNan32 (a : Word32) : Bool := f32val a == .nan

/-- Max and min: NaN when either input is NaN, +0.0 greater than −0.0 (R85). -/
def max32 (a b : Word32) : Word32 :=
  if isNan32 a || isNan32 b then rne32 .nan else if orderKey a < orderKey b then b else a
def min32 (a b : Word32) : Word32 :=
  if isNan32 a || isNan32 b then rne32 .nan else if orderKey b < orderKey a then b else a

/-- |a|, NaN as the canonical one. -/
def abs32 (a : Word32) : Word32 := if isNan32 a then rne32 .nan else a &&& 0x7FFF_FFFF
def neg32 (a : Word32) : Word32 := if isNan32 a then rne32 .nan else a ^^^ 0x8000_0000

/-- Is the binary32 value finite. -/
def finite32 (a : Word32) : Bool := (f32val a).isFin

/-- a ≤ b for the magnitudes m·2^e. -/
def magLe (ma : Nat) (ea : Int) (mb : Nat) (eb : Int) : Bool :=
  let t := min ea eb
  ma * pow2 (ea - t) ≤ mb * pow2 (eb - t)

/-- Numeric comparison a < b of finite binary32 values; false with a NaN. -/
def lt32 (a b : Word32) : Bool :=
  !isNan32 a && !isNan32 b && !((f32val a).isZero && (f32val b).isZero) && orderKey a < orderKey b
def le32 (a b : Word32) : Bool := !isNan32 a && !isNan32 b && !lt32 b a

/-- The floor of a finite value as an integer. -/
def floorVal (v : FVal) : Int :=
  match v with
  | .fin neg m e =>
    let i : Int := if neg then -(m : Int) else m
    if 0 ≤ e then i * pow2 e else i / (pow2 (-e) : Nat)
  | _ => 0

/-- The fields of a narrow element (Table 3.2): exponent bits, mantissa bits, bias and the code of the largest finite
magnitude. INT8 and T2 are told apart by `kind`. -/
inductive ElemKind where
  | float (eb mb bias maxCode : Nat)
  | int8
  | t2
deriving DecidableEq, Repr

/-- The element of a format code (Table 3.1), for the narrow formats 0x01–0x0C. -/
def elemKind (fmt : Byte) : Option ElemKind :=
  match fmt.toNat with
  | 0x01 => some .t2
  | 0x02 => some (.float 2 1 1 0x7)
  | 0x03 => some (.float 2 1 1 0x7)
  | 0x04 => some (.float 2 3 1 0x1F)
  | 0x05 => some (.float 3 2 3 0x1F)
  | 0x08 => some (.float 4 3 7 0x7E)
  | 0x09 => some (.float 5 2 15 0x7B)
  | 0x0A => some (.float 4 3 7 0x7E)
  | 0x0B => some (.float 5 2 15 0x7B)
  | 0x0C => some .int8
  | _ => none

/-- Is the code one of the narrow formats. -/
def isNarrow (fmt : Byte) : Bool := (elemKind fmt).isSome

/-- Does the format carry E8M0 block scales (Table 3.1). -/
def hasScale (fmt : Byte) : Bool :=
  match fmt.toNat with
  | 0x01 | 0x02 | 0x03 | 0x04 | 0x05 | 0x0A | 0x0B | 0x0C => true
  | _ => false

/-- Bits of one element in memory (R46). -/
def elemBits (fmt : Byte) : Nat :=
  match fmt.toNat with
  | 0x01 => 2
  | 0x02 | 0x03 => 4
  | 0x04 | 0x05 => 6
  | 0x08 | 0x09 | 0x0A | 0x0B | 0x0C => 8
  | 0x10 | 0x20 => 16
  | 0x21 => 32
  | _ => 0

/-- Exponent of the unit u = 2^k of a format (Table 3.2). -/
def unitExp (fmt : Byte) : Int :=
  match elemKind fmt with
  | some (.float _ mb bias _) => 1 - (bias : Int) - mb
  | some .int8 => -6
  | some .t2 => 0
  | none => -133

/-- The value of an element code of a narrow format or BF16 (R45, R49). -/
def elemVal (fmt : Byte) (c : Nat) : FVal :=
  match elemKind fmt with
  | some (.float eb mb bias maxCode) =>
    let neg := c / 2 ^ (eb + mb) % 2 == 1
    let mag := c % 2 ^ (eb + mb)
    if mag > maxCode then (if fmt = 0x09 || fmt = 0x0B then (if mag = 0x7C then .inf neg else .nan) else .nan)
    else
      let e := mag / 2 ^ mb
      let m := mag % 2 ^ mb
      if e = 0 then .fin neg m (1 - (bias : Int) - mb) else .fin neg (2 ^ mb + m) ((e : Int) - bias - mb)
  | some .int8 => ofInt (BitVec.ofNat 8 c).toInt (-6) false
  | some .t2 => if c % 4 = 1 then .fin false 1 0 else if c % 4 = 2 then .fin true 1 0 else .fin false 0 0
  | none => unpackIeee 8 7 c

/-- The element's integer: its value in units of the format (R45); 0 for a code that is not finite. -/
def elemInt (fmt : Byte) (c : Nat) : Int :=
  match elemVal fmt c with
  | .fin neg m e => alignTo neg m e (min e (unitExp fmt)) / (pow2 (unitExp fmt - min e (unitExp fmt)) : Nat)
  | _ => 0

/-- One operand of a block stage: format, scale byte, gusset byte (0 outside NS4) and 32 element codes. -/
structure Block where
  fmt : Byte
  scale : Byte
  gusset : Byte
  codes : List Nat
deriving DecidableEq, Repr

/-- The gusset of sub-block s in bits [2s+1:2s] (R48). -/
def gussetOf (g : Byte) (s : Nat) : Nat := g.toNat / 4 ^ s % 4

/-- The integer sum of R50 over elements i, i+1, …. -/
def blockInt (a b : Block) : Nat → List Nat → List Nat → Int
  | _, [], _ => 0
  | _, _, [] => 0
  | i, x :: xs, y :: ys =>
    elemInt a.fmt x * elemInt b.fmt y * (2 ^ (6 - gussetOf a.gusset (i / 8) - gussetOf b.gusset (i / 8)) : Nat)
      + blockInt a b (i + 1) xs ys

/-- The products of the elements of a block, for R51. -/
def blockProds (a b : Block) : List FVal :=
  List.zipWith (fun x y => fmul (elemVal a.fmt x) (elemVal b.fmt y)) a.codes b.codes

/-- Is any element of a block infinite or NaN. -/
def Block.special (a : Block) : Bool := a.codes.any fun c => !(elemVal a.fmt c).isFin

/-- The contribution of one block, exact (R50, R51). A block of a format without block scales has scale byte 127. -/
def blockValue (a b : Block) : FVal :=
  if a.scale = 0xFF || b.scale = 0xFF then .nan
  else if a.special || b.special then
    let ps := blockProds a b
    if ps.any (· == .nan) then .nan
    else if ps.any (· == .inf false) && ps.any (· == .inf true) then .nan
    else if ps.any (· == .inf false) then .inf false
    else if ps.any (· == .inf true) then .inf true
    else .nan
  else
    ofInt (blockInt a b 0 a.codes b.codes)
      (unitExp a.fmt + unitExp b.fmt + (a.scale.toNat : Int) + b.scale.toNat - 254 - 6) false

/-- The addition of R50: the exact sum rounded once, an exact zero sum +0.0. -/
def accumulate (acc : Word32) (v : FVal) : Word32 :=
  match fadd (f32val acc) v with
  | .fin _ 0 _ => 0
  | r => rne32 r

/-- Does the block take rule 1 of R51 (it adds 1 to the NaN-block count). -/
def blockNan (a b : Block) : Bool := blockValue a b == .nan

/-- The mixing function of R56, modulo 2^64. -/
def mix64 (z : Word64) : Word64 :=
  let z1 := z + 0x9E37_79B9_7F4A_7C15
  let z2 := (z1 ^^^ (z1 >>> 30)) * 0xBF58_476D_1CE4_E5B9
  let z3 := (z2 ^^^ (z2 >>> 27)) * 0x94D0_49BB_1331_11EB
  z3 ^^^ (z3 >>> 31)

/-- r16 of R56 for a seed, a stream number and the index of the value in its conversion's output. -/
def srBits (seed : Word64) (stream : Nat) (index : Nat) : Nat :=
  (mix64 (seed ^^^ ((BitVec.ofNat 64 stream) <<< 32) ^^^ BitVec.ofNat 64 index) >>> 48).toNat

end Sys2Proof.Machine
end

