-- ==== Sys2Proof/Config.lean ====
section
/-! DEFINITION. What one part fixes and what the spec leaves free: opaque constants, about which nothing can be proved.
`Config.draw` and `Config.drawByte` are indexed by the model's counter State.fresh, so that every use is a fresh value. -/
namespace Sys2Proof.Config

/-- A fresh 64-bit value: a random draw of the CTR_DRBG (R166, R217, R232) or a value that the spec leaves open. -/
opaque draw : Nat → BitVec 64

/-- Byte `i` of the byte string drawn at counter value `n` (R217). -/
opaque drawByte : Nat → Nat → BitVec 8

/-- What a host-made error leaves unpredictable within its panel (R376): the word `i` of what the error of kind `why` left open
at counter value `n`. -/
opaque openWord : Nat → Nat → Nat → BitVec 32

/-- Byte at a Root address that was written under a destroyed XTS key, as it decrypts under the present one (R235); the first
argument tells one change of keys from another. -/
opaque oldKeyByte : Nat → Nat → BitVec 8

/-- A standard normal variate as binary32 by Box–Muller from 64 bits (R232); the spec fixes no arithmetic for it. -/
opaque normal : BitVec 64 → BitVec 32

/-- Root key of Merquarvo: the fused hash (R239). -/
opaque rootKeyHash : Bytes

/-- Fused identity (Table 18.11, R239, R38, R333). -/
opaque serial : Nat → BitVec 8
opaque baseMac : BitVec 48
opaque oui : BitVec 24
opaque deviceCert : Bytes
opaque darning : Nat → BitVec 8
opaque opVoltage : Nat → BitVec 16

/-- Signature check of RFC 8554: public key, message, signature (R352). -/
opaque hssVerify : Bytes → Bytes → Bytes → Bool

/-- The device's HSS signature at a leaf over bytes (R240), 3,124 bytes. -/
opaque hssSignByte : Nat → Bytes → Nat → BitVec 8

/-- ML-KEM-1024 (FIPS 203): public key of a private key, and decapsulation (R217, R238). -/
opaque kemPublicByte : Bytes → Nat → BitVec 8
opaque kemDecapsByte : Bytes → Bytes → Nat → BitVec 8

/-- Input power in mW that the controller predicts at ceiling `k` from the power measured (R338). -/
opaque predictPower : Nat → Nat → Nat → Nat

/-- Spare rows of a Crown stack's HBM3E (R371). -/
opaque spareRows : Nat → Nat

/-- The physical core of group g that BIST finds unusable (R349); 9 and above for none. -/
opaque bistBad : Nat → Nat

end Sys2Proof.Config
end

