-- ==== Sys2Proof/Machine/OdTable.lean ====
section
/-! DEFINITION. The catalogue of the object dictionary: every entry of the spec's object tables (R42, R69, R93, R111,
R138, R169, R189, R213, R242, R243, R267, R287, R313, R331, R347, R363, R377, R398, R400) with its type, access code,
default, persistence class and stated range. The digit p of a panel block's index is 0 here. -/
namespace Sys2Proof.Machine

/-- Types of Table 18.7; `uint b` is an unsigned number of b bytes. -/
inductive OdType where
  | bool
  | uint (bytes : Nat)
  | f32
  | str
  | domain
deriving DecidableEq, Repr

/-- Access codes of Table 18.8. -/
inductive OdAccess where
  | ro | rw | wo | roS | rwS | cor
deriving DecidableEq, Repr

/-- Persistence classes of Table 0.3. -/
inductive OdClass where
  | k | m | w | p | v
deriving DecidableEq, Repr

/-- One row: index, first and last subindex, type, access, default, class, least and greatest value, and the number that
a value must be a multiple of. -/
structure OdRow where
  index : Nat
  first : Nat
  last : Nat
  ty : OdType
  acc : OdAccess
  default : Nat
  cls : OdClass
  lo : Nat
  hi : Nat
  step : Nat
deriving DecidableEq, Repr

/-- Entries 0x1000 to 0x10FF. -/
def odRows10 : List OdRow := [
  ⟨0x1000, 0x00, 0x00, .uint 4, .ro, 0x4d515256, .k, 0, 4294967295, 1⟩,
  ⟨0x1001, 0x00, 0x00, .uint 4, .ro, 0x474a0020, .k, 0, 4294967295, 1⟩,
  ⟨0x1002, 0x00, 0x00, .str, .ro, 0, .k, 0, 0, 1⟩,
  ⟨0x1003, 0x00, 0x00, .domain, .ro, 0, .k, 0, 281474976710655, 1⟩,
  ⟨0x1004, 0x00, 0x00, .uint 1, .ro, 176, .k, 0, 255, 1⟩,
  ⟨0x1005, 0x00, 0x00, .uint 4, .ro, 0, .v, 0, 4294967295, 1⟩,
  ⟨0x1006, 0x00, 0x00, .domain, .ro, 0, .v, 0, 281474976710655, 1⟩,
  ⟨0x1007, 0x00, 0x00, .domain, .ro, 0, .v, 0, 281474976710655, 1⟩,
  ⟨0x1008, 0x00, 0x00, .uint 8, .ro, 0, .k, 0, 18446744073709551615, 1⟩,
  ⟨0x1009, 0x00, 0x00, .uint 4, .ro, 0, .k, 0, 4294967295, 1⟩]

/-- Entries 0x1100 to 0x11FF. -/
def odRows11 : List OdRow := [
  ⟨0x1100, 0x01, 0x01, .uint 1, .ro, 0, .m, 0, 255, 1⟩,
  ⟨0x1100, 0x02, 0x02, .uint 2, .rw, 65535, .m, 0, 255, 1⟩,
  ⟨0x1100, 0x03, 0x03, .uint 1, .rw, 32, .k, 16, 255, 1⟩,
  ⟨0x1100, 0x04, 0x04, .uint 2, .rw, 50, .m, 10, 1000, 1⟩,
  ⟨0x1100, 0x05, 0x05, .uint 2, .rw, 1000, .m, 100, 60000, 1⟩,
  ⟨0x1101, 0x01, 0x01, .uint 8, .cor, 0, .v, 0, 18446744073709551615, 1⟩,
  ⟨0x1101, 0x02, 0x02, .uint 8, .cor, 0, .v, 0, 18446744073709551615, 1⟩,
  ⟨0x1101, 0x03, 0x03, .uint 8, .cor, 0, .v, 0, 18446744073709551615, 1⟩,
  ⟨0x1101, 0x04, 0x04, .uint 4, .cor, 0, .v, 0, 4294967295, 1⟩,
  ⟨0x1101, 0x05, 0x05, .uint 8, .cor, 0, .v, 0, 18446744073709551615, 1⟩,
  ⟨0x1101, 0x06, 0x06, .uint 4, .cor, 0, .v, 0, 4294967295, 1⟩,
  ⟨0x1101, 0x07, 0x07, .uint 4, .cor, 0, .v, 0, 4294967295, 1⟩,
  ⟨0x1102, 0x00, 0x00, .domain, .ro, 0, .k, 0, 281474976710655, 1⟩]

/-- Entries 0x1800 to 0x18FF. -/
def odRows18 : List OdRow := [
  ⟨0x1800, 0x01, 0x01, .uint 1, .ro, 0, .v, 0, 255, 1⟩,
  ⟨0x1800, 0x02, 0x02, .uint 1, .ro, 0, .v, 0, 255, 1⟩,
  ⟨0x1800, 0x03, 0x03, .uint 4, .wo, 0, .v, 1, 67108864, 1⟩,
  ⟨0x1800, 0x04, 0x04, .uint 1, .wo, 0, .v, 0, 4, 1⟩,
  ⟨0x1800, 0x05, 0x05, .domain, .wo, 0, .v, 0, 281474976710655, 1⟩,
  ⟨0x1800, 0x06, 0x06, .uint 4, .ro, 0, .k, 0, 4294967295, 1⟩,
  ⟨0x1800, 0x07, 0x07, .bool, .rw, 1, .k, 0, 1, 1⟩,
  ⟨0x1800, 0x08, 0x08, .uint 1, .wo, 0, .v, 1, 2, 1⟩,
  ⟨0x1800, 0x09, 0x09, .uint 1, .rw, 0, .v, 0, 3, 1⟩,
  ⟨0x1800, 0x0A, 0x0A, .uint 4, .rw, 0, .w, 0, 4294967295, 1⟩,
  ⟨0x1800, 0x0B, 0x0B, .uint 1, .ro, 0, .m, 0, 255, 1⟩,
  ⟨0x1800, 0x0C, 0x0C, .uint 4, .ro, 0, .m, 0, 4294967295, 1⟩,
  ⟨0x1800, 0x0D, 0x0D, .uint 4, .ro, 0, .v, 0, 4294967295, 1⟩,
  ⟨0x1801, 0x01, 0x10, .bool, .wo, 0, .v, 0, 1, 1⟩]

/-- Entries 0x1900 to 0x19FF. -/
def odRows19 : List OdRow := [
  ⟨0x1900, 0x01, 0x01, .uint 2, .rw, 24, .k, 1, 168, 1⟩,
  ⟨0x1900, 0x02, 0x02, .bool, .rw, 1, .k, 0, 1, 1⟩,
  ⟨0x1900, 0x03, 0x03, .uint 1, .rw, 0, .m, 0, 1, 1⟩,
  ⟨0x1901, 0x01, 0x01, .uint 8, .cor, 0, .v, 0, 18446744073709551615, 1⟩,
  ⟨0x1901, 0x02, 0x02, .uint 8, .cor, 0, .v, 0, 18446744073709551615, 1⟩,
  ⟨0x1901, 0x03, 0x03, .uint 8, .cor, 0, .v, 0, 18446744073709551615, 1⟩,
  ⟨0x1901, 0x04, 0x04, .uint 4, .cor, 0, .v, 0, 4294967295, 1⟩,
  ⟨0x1901, 0x05, 0x05, .uint 8, .cor, 0, .v, 0, 18446744073709551615, 1⟩,
  ⟨0x1901, 0x06, 0x06, .uint 8, .cor, 0, .v, 0, 18446744073709551615, 1⟩,
  ⟨0x1901, 0x07, 0x07, .uint 4, .cor, 0, .v, 0, 4294967295, 1⟩,
  ⟨0x1901, 0x08, 0x08, .uint 4, .cor, 0, .v, 0, 4294967295, 1⟩,
  ⟨0x1902, 0x00, 0x00, .domain, .ro, 0, .v, 0, 281474976710655, 1⟩,
  ⟨0x1903, 0x00, 0x00, .domain, .ro, 0, .v, 0, 281474976710655, 1⟩,
  ⟨0x1904, 0x00, 0x00, .domain, .ro, 0, .v, 0, 281474976710655, 1⟩,
  ⟨0x1905, 0x00, 0x00, .uint 1, .ro, 0, .m, 0, 255, 1⟩,
  ⟨0x1906, 0x01, 0x10, .uint 1, .wo, 0, .v, 0, 255, 1⟩]

/-- Entries 0x2000 to 0x20FF. -/
def odRows20 : List OdRow := [
  ⟨0x2000, 0x01, 0x01, .uint 1, .rw, 0, .m, 0, 1, 1⟩,
  ⟨0x2000, 0x02, 0x02, .uint 2, .rw, 1500, .k, 600, 1500, 1⟩,
  ⟨0x2000, 0x03, 0x03, .domain, .rw, 0x10605030707, .m, 0, 281474976710655, 1⟩,
  ⟨0x2000, 0x04, 0x04, .uint 1, .rw, 0, .m, 0, 7, 1⟩,
  ⟨0x2000, 0x05, 0x05, .uint 1, .rw, 7, .m, 0, 7, 1⟩,
  ⟨0x2000, 0x06, 0x06, .uint 4, .rw, 200, .m, 10, 1000000, 10⟩,
  ⟨0x2001, 0x01, 0x01, .uint 1, .ro, 0, .v, 0, 255, 1⟩,
  ⟨0x2001, 0x02, 0x02, .uint 1, .ro, 0, .v, 0, 255, 1⟩,
  ⟨0x2001, 0x03, 0x03, .f32, .ro, 0, .v, 0, 4294967295, 1⟩,
  ⟨0x2001, 0x04, 0x04, .f32, .ro, 0, .v, 0, 4294967295, 1⟩,
  ⟨0x2001, 0x05, 0x05, .uint 8, .ro, 0, .m, 0, 18446744073709551615, 1⟩,
  ⟨0x2001, 0x06, 0x06, .domain, .ro, 0, .v, 0, 281474976710655, 1⟩,
  ⟨0x2002, 0x01, 0x01, .uint 8, .cor, 0, .v, 0, 18446744073709551615, 1⟩,
  ⟨0x2002, 0x02, 0x02, .uint 4, .cor, 0, .v, 0, 4294967295, 1⟩,
  ⟨0x2002, 0x03, 0x03, .uint 4, .cor, 0, .v, 0, 4294967295, 1⟩,
  ⟨0x2002, 0x04, 0x04, .uint 8, .cor, 0, .v, 0, 18446744073709551615, 1⟩,
  ⟨0x2002, 0x05, 0x05, .uint 8, .cor, 0, .v, 0, 18446744073709551615, 1⟩,
  ⟨0x2003, 0x00, 0x00, .domain, .cor, 0, .v, 0, 281474976710655, 1⟩,
  ⟨0x2004, 0x00, 0x00, .domain, .ro, 0, .k, 0, 281474976710655, 1⟩]

/-- Entries 0x2100 to 0x21FF. -/
def odRows21 : List OdRow := [
  ⟨0x2100, 0x01, 0x01, .uint 1, .rw, 0, .m, 0, 4, 2⟩,
  ⟨0x2100, 0x02, 0x02, .uint 1, .rw, 3, .m, 2, 7, 1⟩,
  ⟨0x2100, 0x03, 0x03, .bool, .rw, 1, .k, 0, 1, 1⟩,
  ⟨0x2101, 0x01, 0x01, .uint 8, .cor, 0, .v, 0, 18446744073709551615, 1⟩,
  ⟨0x2101, 0x02, 0x02, .uint 8, .cor, 0, .v, 0, 18446744073709551615, 1⟩,
  ⟨0x2101, 0x03, 0x03, .uint 4, .cor, 0, .v, 0, 4294967295, 1⟩,
  ⟨0x2101, 0x04, 0x04, .uint 8, .cor, 0, .v, 0, 18446744073709551615, 1⟩,
  ⟨0x2101, 0x05, 0x05, .uint 8, .cor, 0, .v, 0, 18446744073709551615, 1⟩,
  ⟨0x2101, 0x06, 0x06, .uint 8, .cor, 0, .v, 0, 18446744073709551615, 1⟩,
  ⟨0x2102, 0x00, 0x00, .domain, .ro, 0, .k, 0, 281474976710655, 1⟩,
  ⟨0x2103, 0x01, 0x01, .uint 8, .ro, 0, .v, 0, 18446744073709551615, 1⟩,
  ⟨0x2103, 0x02, 0x02, .uint 8, .ro, 0, .v, 0, 18446744073709551615, 1⟩]

/-- Entries 0x2200 to 0x22FF. -/
def odRows22 : List OdRow := [
  ⟨0x2200, 0x01, 0x01, .uint 1, .rw, 0, .m, 0, 1, 1⟩,
  ⟨0x2200, 0x02, 0x02, .uint 1, .rw, 16, .m, 1, 64, 1⟩,
  ⟨0x2200, 0x03, 0x03, .f32, .rw, 0x37800000, .m, 0, 4294967295, 1⟩,
  ⟨0x2200, 0x04, 0x04, .uint 1, .rw, 4, .m, 1, 255, 1⟩,
  ⟨0x2200, 0x05, 0x05, .uint 4, .ro, 0x10002, .k, 0, 4294967295, 1⟩,
  ⟨0x2201, 0x01, 0x01, .uint 8, .cor, 0, .v, 0, 18446744073709551615, 1⟩,
  ⟨0x2201, 0x02, 0x02, .uint 8, .cor, 0, .v, 0, 18446744073709551615, 1⟩,
  ⟨0x2201, 0x03, 0x03, .uint 8, .cor, 0, .v, 0, 18446744073709551615, 1⟩,
  ⟨0x2201, 0x04, 0x04, .uint 8, .cor, 0, .v, 0, 18446744073709551615, 1⟩,
  ⟨0x2201, 0x05, 0x05, .uint 8, .cor, 0, .v, 0, 18446744073709551615, 1⟩,
  ⟨0x2201, 0x06, 0x06, .uint 8, .cor, 0, .v, 0, 18446744073709551615, 1⟩,
  ⟨0x2201, 0x07, 0x07, .uint 8, .cor, 0, .v, 0, 18446744073709551615, 1⟩]

/-- Entries 0x2300 to 0x23FF. -/
def odRows23 : List OdRow := [
  ⟨0x2300, 0x01, 0x01, .uint 1, .rw, 16, .m, 4, 64, 1⟩,
  ⟨0x2301, 0x01, 0x01, .uint 8, .ro, 0, .v, 0, 18446744073709551615, 1⟩,
  ⟨0x2301, 0x02, 0x02, .uint 8, .cor, 0, .v, 0, 18446744073709551615, 1⟩,
  ⟨0x2301, 0x03, 0x03, .uint 8, .cor, 0, .v, 0, 18446744073709551615, 1⟩,
  ⟨0x2301, 0x04, 0x04, .uint 8, .cor, 0, .v, 0, 18446744073709551615, 1⟩,
  ⟨0x2301, 0x05, 0x05, .uint 8, .cor, 0, .v, 0, 18446744073709551615, 1⟩,
  ⟨0x2301, 0x06, 0x06, .uint 8, .cor, 0, .v, 0, 18446744073709551615, 1⟩,
  ⟨0x2301, 0x07, 0x07, .uint 8, .cor, 0, .v, 0, 18446744073709551615, 1⟩,
  ⟨0x2301, 0x08, 0x08, .uint 8, .cor, 0, .v, 0, 18446744073709551615, 1⟩,
  ⟨0x2302, 0x00, 0x00, .domain, .ro, 0, .v, 0, 281474976710655, 1⟩]

/-- Entries 0x2400 to 0x24FF. -/
def odRows24 : List OdRow := [
  ⟨0x2400, 0x01, 0x01, .bool, .rw, 1, .m, 0, 1, 1⟩,
  ⟨0x2401, 0x01, 0x01, .uint 8, .cor, 0, .v, 0, 18446744073709551615, 1⟩,
  ⟨0x2401, 0x02, 0x02, .uint 8, .cor, 0, .v, 0, 18446744073709551615, 1⟩,
  ⟨0x2401, 0x03, 0x03, .uint 8, .cor, 0, .v, 0, 18446744073709551615, 1⟩,
  ⟨0x2401, 0x04, 0x04, .uint 8, .cor, 0, .v, 0, 18446744073709551615, 1⟩,
  ⟨0x2401, 0x05, 0x05, .uint 4, .cor, 0, .v, 0, 4294967295, 1⟩]

/-- Entries 0x2500 to 0x25FF. -/
def odRows25 : List OdRow := [
  ⟨0x2500, 0x01, 0x01, .uint 1, .rw, 0, .m, 0, 1, 1⟩,
  ⟨0x2500, 0x02, 0x02, .uint 4, .rw, 10000, .m, 100, 600000, 1⟩,
  ⟨0x2500, 0x03, 0x03, .uint 8, .ro, 0, .k, 0, 18446744073709551615, 1⟩,
  ⟨0x2501, 0x01, 0x01, .uint 8, .cor, 0, .v, 0, 18446744073709551615, 1⟩,
  ⟨0x2501, 0x02, 0x02, .uint 4, .cor, 0, .v, 0, 4294967295, 1⟩,
  ⟨0x2501, 0x03, 0x03, .uint 8, .cor, 0, .v, 0, 18446744073709551615, 1⟩,
  ⟨0x2501, 0x04, 0x04, .uint 8, .cor, 0, .v, 0, 18446744073709551615, 1⟩,
  ⟨0x2501, 0x05, 0x05, .uint 4, .cor, 0, .v, 0, 4294967295, 1⟩,
  ⟨0x2501, 0x06, 0x06, .uint 4, .cor, 0, .v, 0, 4294967295, 1⟩,
  ⟨0x2501, 0x07, 0x07, .uint 8, .cor, 0, .v, 0, 18446744073709551615, 1⟩,
  ⟨0x2502, 0x00, 0x00, .domain, .ro, 0, .v, 0, 281474976710655, 1⟩,
  ⟨0x2503, 0x00, 0x00, .domain, .roS, 0, .p, 0, 281474976710655, 1⟩]

/-- Entries 0x2600 to 0x26FF. -/
def odRows26 : List OdRow := [
  ⟨0x2600, 0x01, 0x01, .uint 1, .rw, 0, .k, 0, 1, 1⟩,
  ⟨0x2600, 0x02, 0x02, .uint 1, .rw, 3, .k, 0, 3, 1⟩,
  ⟨0x2600, 0x03, 0x03, .uint 1, .rw, 0, .m, 0, 1, 1⟩,
  ⟨0x2600, 0x04, 0x04, .uint 1, .rw, 4, .m, 2, 64, 1⟩,
  ⟨0x2600, 0x05, 0x05, .uint 2, .rw, 1024, .m, 256, 16384, 1⟩,
  ⟨0x2600, 0x06, 0x06, .uint 2, .rw, 80, .m, 10, 10000, 1⟩,
  ⟨0x2600, 0x07, 0x07, .uint 1, .wo, 0, .v, 0, 3, 1⟩,
  ⟨0x2601, 0x01, 0x01, .uint 8, .cor, 0, .v, 0, 18446744073709551615, 1⟩,
  ⟨0x2601, 0x02, 0x02, .uint 8, .cor, 0, .v, 0, 18446744073709551615, 1⟩,
  ⟨0x2601, 0x03, 0x03, .uint 8, .cor, 0, .v, 0, 18446744073709551615, 1⟩,
  ⟨0x2601, 0x04, 0x04, .uint 8, .cor, 0, .v, 0, 18446744073709551615, 1⟩,
  ⟨0x2601, 0x05, 0x05, .uint 8, .cor, 0, .v, 0, 18446744073709551615, 1⟩,
  ⟨0x2601, 0x06, 0x06, .uint 8, .cor, 0, .v, 0, 18446744073709551615, 1⟩,
  ⟨0x2601, 0x07, 0x07, .uint 8, .cor, 0, .v, 0, 18446744073709551615, 1⟩,
  ⟨0x2601, 0x08, 0x08, .uint 8, .cor, 0, .v, 0, 18446744073709551615, 1⟩,
  ⟨0x2601, 0x09, 0x09, .uint 8, .cor, 0, .v, 0, 18446744073709551615, 1⟩,
  ⟨0x2601, 0x0A, 0x0A, .uint 8, .cor, 0, .v, 0, 18446744073709551615, 1⟩,
  ⟨0x2601, 0x0B, 0x0B, .uint 8, .roS, 0, .v, 0, 18446744073709551615, 1⟩,
  ⟨0x2602, 0x01, 0x10, .uint 1, .rw, 0, .p, 0, 16, 1⟩,
  ⟨0x2603, 0x00, 0x00, .domain, .ro, 0, .v, 0, 281474976710655, 1⟩,
  ⟨0x2604, 0x00, 0x00, .domain, .ro, 0, .v, 0, 281474976710655, 1⟩,
  ⟨0x2605, 0x01, 0x10, .uint 1, .wo, 0, .v, 248, 255, 1⟩,
  ⟨0x2606, 0x01, 0x10, .uint 8, .rw, 0, .m, 0, 18446744073709551615, 1⟩,
  ⟨0x2607, 0x01, 0x10, .uint 8, .rw, 0, .p, 0, 18446744073709551615, 64⟩,
  ⟨0x2608, 0x01, 0x10, .uint 4, .rw, 0, .p, 0, 4294967295, 1⟩]

/-- Entries 0x2700 to 0x27FF. -/
def odRows27 : List OdRow := [
  ⟨0x2700, 0x01, 0x01, .uint 1, .rw, 0, .m, 0, 1, 1⟩,
  ⟨0x2700, 0x02, 0x02, .uint 1, .rw, 32, .m, 0, 32, 1⟩,
  ⟨0x2700, 0x03, 0x03, .uint 4, .rw, 2000, .m, 10, 600000, 1⟩,
  ⟨0x2701, 0x01, 0x01, .uint 8, .cor, 0, .v, 0, 18446744073709551615, 1⟩,
  ⟨0x2701, 0x02, 0x02, .uint 8, .cor, 0, .v, 0, 18446744073709551615, 1⟩,
  ⟨0x2701, 0x03, 0x03, .uint 8, .cor, 0, .v, 0, 18446744073709551615, 1⟩,
  ⟨0x2701, 0x04, 0x04, .uint 8, .cor, 0, .v, 0, 18446744073709551615, 1⟩,
  ⟨0x2701, 0x05, 0x05, .uint 8, .cor, 0, .v, 0, 18446744073709551615, 1⟩,
  ⟨0x2701, 0x06, 0x06, .uint 8, .cor, 0, .v, 0, 18446744073709551615, 1⟩,
  ⟨0x2701, 0x07, 0x07, .uint 8, .cor, 0, .v, 0, 18446744073709551615, 1⟩,
  ⟨0x2702, 0x01, 0x10, .uint 8, .rw, 0, .p, 0, 18446744073709551615, 8⟩,
  ⟨0x2703, 0x01, 0x10, .uint 4, .rw, 0, .p, 0, 4294967295, 1⟩,
  ⟨0x2704, 0x01, 0x10, .uint 4, .ro, 0, .p, 0, 4294967295, 1⟩,
  ⟨0x2705, 0x01, 0x40, .uint 8, .rw, 0, .p, 0, 18446744073709551615, 1⟩,
  ⟨0x2706, 0x01, 0x10, .uint 2, .wo, 0, .v, 0, 65535, 1⟩,
  ⟨0x2707, 0x01, 0x10, .uint 2, .wo, 0, .v, 0, 65535, 1⟩]

/-- Entries 0x2800 to 0x28FF. -/
def odRows28 : List OdRow := [
  ⟨0x2800, 0x01, 0x01, .uint 1, .rw, 0, .m, 0, 1, 1⟩,
  ⟨0x2801, 0x01, 0x10, .uint 4, .rw, 2000, .p, 10, 600000, 1⟩,
  ⟨0x2802, 0x01, 0x10, .uint 4, .wo, 0, .v, 0, 4294967295, 1⟩,
  ⟨0x2803, 0x01, 0x10, .uint 4, .rw, 0, .p, 0, 4294967295, 1⟩,
  ⟨0x2804, 0x01, 0x10, .domain, .ro, 0, .v, 0, 281474976710655, 1⟩,
  ⟨0x2805, 0x01, 0x10, .domain, .rw, 0, .p, 0, 281474976710655, 1⟩,
  ⟨0x2806, 0x01, 0x10, .uint 8, .rw, 0, .p, 0, 18446744073709551615, 64⟩,
  ⟨0x2807, 0x01, 0x01, .uint 8, .cor, 0, .v, 0, 18446744073709551615, 1⟩,
  ⟨0x2807, 0x02, 0x02, .uint 8, .cor, 0, .v, 0, 18446744073709551615, 1⟩,
  ⟨0x2807, 0x03, 0x03, .uint 8, .cor, 0, .v, 0, 18446744073709551615, 1⟩,
  ⟨0x2807, 0x04, 0x04, .uint 4, .cor, 0, .v, 0, 4294967295, 1⟩,
  ⟨0x2807, 0x05, 0x05, .uint 4, .cor, 0, .v, 0, 4294967295, 1⟩,
  ⟨0x2807, 0x06, 0x06, .uint 4, .cor, 0, .v, 0, 4294967295, 1⟩,
  ⟨0x2807, 0x07, 0x07, .uint 8, .cor, 0, .v, 0, 18446744073709551615, 1⟩,
  ⟨0x2807, 0x08, 0x08, .uint 8, .cor, 0, .v, 0, 18446744073709551615, 1⟩]

/-- Entries 0x3000 to 0x30FF. -/
def odRows30 : List OdRow := [
  ⟨0x3001, 0x01, 0x01, .bool, .rwS, 0, .p, 0, 1, 1⟩,
  ⟨0x3001, 0x02, 0x02, .uint 8, .rwS, 0, .p, 0, 18446744073709551615, 65536⟩,
  ⟨0x3001, 0x03, 0x03, .uint 2, .rwS, 16, .p, 1, 256, 1⟩,
  ⟨0x3001, 0x04, 0x04, .uint 4, .rwS, 0x10000000, .p, 0, 1073741824, 65536⟩,
  ⟨0x3001, 0x05, 0x05, .uint 1, .rwS, 15, .p, 2, 15, 1⟩,
  ⟨0x3001, 0x06, 0x06, .uint 1, .rwS, 2, .p, 2, 15, 1⟩,
  ⟨0x3001, 0x07, 0x07, .f32, .rwS, 0x3f800000, .p, 0, 4294967295, 1⟩,
  ⟨0x3001, 0x08, 0x08, .f32, .rwS, 0, .p, 0, 4294967295, 1⟩,
  ⟨0x3001, 0x09, 0x09, .uint 1, .rwS, 0, .p, 0, 1, 1⟩,
  ⟨0x3001, 0x0A, 0x0A, .uint 8, .rwS, 0, .p, 0, 18446744073709551615, 65536⟩,
  ⟨0x3001, 0x0B, 0x0B, .uint 4, .rwS, 0, .p, 0, 4294967295, 1⟩,
  ⟨0x3001, 0x0C, 0x0C, .uint 4, .rwS, 10000, .p, 10, 600000, 1⟩,
  ⟨0x3002, 0x01, 0x01, .uint 8, .cor, 0, .v, 0, 18446744073709551615, 1⟩,
  ⟨0x3002, 0x02, 0x02, .uint 4, .cor, 0, .v, 0, 4294967295, 1⟩,
  ⟨0x3002, 0x03, 0x03, .uint 4, .cor, 0, .v, 0, 4294967295, 1⟩,
  ⟨0x3002, 0x04, 0x04, .uint 4, .cor, 0, .v, 0, 4294967295, 1⟩,
  ⟨0x3003, 0x01, 0x01, .uint 8, .cor, 0, .v, 0, 18446744073709551615, 1⟩,
  ⟨0x3003, 0x02, 0x02, .uint 8, .cor, 0, .v, 0, 18446744073709551615, 1⟩,
  ⟨0x3010, 0x01, 0x05, .domain, .wo, 0, .v, 0, 281474976710655, 1⟩,
  ⟨0x3011, 0x01, 0x05, .domain, .ro, 0, .v, 0, 281474976710655, 1⟩,
  ⟨0x3012, 0x00, 0x00, .uint 4, .ro, 0, .k, 0, 4294967295, 1⟩,
  ⟨0x3013, 0x00, 0x00, .domain, .ro, 0, .k, 0, 281474976710655, 1⟩]

/-- Entries 0x3100 to 0x31FF. -/
def odRows31 : List OdRow := [
  ⟨0x3100, 0x01, 0x01, .uint 1, .rw, 0, .k, 0, 2, 1⟩,
  ⟨0x3100, 0x02, 0x02, .uint 4, .rw, 0x40404, .k, 0, 4294967295, 1⟩,
  ⟨0x3100, 0x03, 0x03, .uint 2, .rw, 64, .k, 1, 256, 1⟩,
  ⟨0x3100, 0x04, 0x04, .bool, .rw, 1, .m, 0, 1, 1⟩,
  ⟨0x3100, 0x05, 0x05, .uint 1, .rw, 0, .m, 0, 1, 1⟩,
  ⟨0x3100, 0x06, 0x06, .uint 1, .rw, 20, .m, 5, 50, 1⟩,
  ⟨0x3100, 0x07, 0x07, .uint 2, .rw, 100, .m, 10, 10000, 1⟩,
  ⟨0x3100, 0x08, 0x08, .uint 1, .rw, 1, .m, 0, 5, 1⟩,
  ⟨0x3100, 0x09, 0x09, .uint 2, .rw, 4000, .m, 1000, 60000, 1⟩,
  ⟨0x3100, 0x0A, 0x0A, .uint 2, .rw, 49801, .k, 1024, 65535, 1⟩,
  ⟨0x3100, 0x0B, 0x0B, .uint 8, .rw, 0, .k, 0, 18446744073709551615, 1⟩,
  ⟨0x3100, 0x0C, 0x0C, .uint 2, .rw, 0, .k, 0, 4094, 1⟩,
  ⟨0x3100, 0x0D, 0x0D, .uint 1, .rw, 3, .k, 0, 7, 1⟩,
  ⟨0x3100, 0x0E, 0x0E, .uint 1, .rw, 6, .k, 0, 7, 1⟩,
  ⟨0x3100, 0x0F, 0x0F, .uint 4, .rw, 5000, .k, 100, 100000, 1⟩,
  ⟨0x3101, 0x01, 0x18, .bool, .rw, 1, .k, 0, 1, 1⟩,
  ⟨0x3102, 0x01, 0x18, .uint 8, .rw, 0, .k, 0, 281474976710655, 1⟩,
  ⟨0x3103, 0x01, 0x18, .domain, .ro, 0, .v, 0, 281474976710655, 1⟩,
  ⟨0x3104, 0x01, 0x18, .domain, .cor, 0, .v, 0, 281474976710655, 1⟩,
  ⟨0x3105, 0x00, 0x00, .domain, .ro, 0, .v, 0, 281474976710655, 1⟩]

/-- Entries 0x3200 to 0x32FF. -/
def odRows32 : List OdRow := [
  ⟨0x3200, 0x01, 0x01, .uint 1, .rw, 0, .m, 0, 1, 1⟩,
  ⟨0x3200, 0x02, 0x02, .uint 2, .rw, 200, .m, 20, 10000, 1⟩,
  ⟨0x3200, 0x03, 0x03, .uint 1, .rw, 7, .m, 1, 15, 1⟩,
  ⟨0x3200, 0x04, 0x04, .uint 4, .rw, 2000, .m, 10, 600000, 1⟩,
  ⟨0x3200, 0x05, 0x05, .uint 1, .rw, 32, .m, 1, 128, 1⟩,
  ⟨0x3201, 0x01, 0x10, .uint 8, .rw, 0, .p, 0, 18446744073709551615, 1024⟩,
  ⟨0x3202, 0x01, 0x10, .uint 8, .rw, 0, .p, 0, 18446744073709551615, 32⟩,
  ⟨0x3203, 0x01, 0x10, .uint 4, .rw, 0, .p, 0, 65536, 1⟩,
  ⟨0x3204, 0x01, 0x10, .uint 8, .rw, 0, .p, 0, 18446744073709551615, 1⟩,
  ⟨0x3205, 0x01, 0x10, .uint 2, .wo, 0, .v, 0, 65535, 1⟩,
  ⟨0x3206, 0x01, 0x01, .uint 8, .cor, 0, .v, 0, 18446744073709551615, 1⟩,
  ⟨0x3206, 0x02, 0x02, .uint 8, .cor, 0, .v, 0, 18446744073709551615, 1⟩,
  ⟨0x3206, 0x03, 0x03, .uint 8, .cor, 0, .v, 0, 18446744073709551615, 1⟩,
  ⟨0x3206, 0x04, 0x04, .uint 8, .cor, 0, .v, 0, 18446744073709551615, 1⟩,
  ⟨0x3206, 0x05, 0x05, .uint 8, .cor, 0, .v, 0, 18446744073709551615, 1⟩,
  ⟨0x3206, 0x06, 0x06, .uint 8, .cor, 0, .v, 0, 18446744073709551615, 1⟩,
  ⟨0x3206, 0x07, 0x07, .uint 8, .cor, 0, .v, 0, 18446744073709551615, 1⟩,
  ⟨0x3206, 0x08, 0x08, .uint 8, .cor, 0, .v, 0, 18446744073709551615, 1⟩,
  ⟨0x3206, 0x09, 0x09, .uint 8, .cor, 0, .v, 0, 18446744073709551615, 1⟩,
  ⟨0x3207, 0x00, 0x00, .domain, .ro, 0, .v, 0, 281474976710655, 1⟩]

/-- Entries 0x3300 to 0x33FF. -/
def odRows33 : List OdRow := [
  ⟨0x3300, 0x01, 0x01, .uint 1, .rw, 0, .m, 0, 1, 1⟩,
  ⟨0x3300, 0x02, 0x02, .uint 2, .rw, 10, .m, 1, 1000, 1⟩,
  ⟨0x3300, 0x03, 0x03, .uint 2, .rw, 60, .m, 1, 3600, 1⟩,
  ⟨0x3300, 0x04, 0x04, .uint 2, .rw, 100, .m, 10, 1000, 1⟩,
  ⟨0x3300, 0x05, 0x05, .uint 2, .rw, 2, .m, 0, 1000, 1⟩,
  ⟨0x3301, 0x01, 0x04, .domain, .ro, 0, .v, 0, 281474976710655, 1⟩,
  ⟨0x3302, 0x01, 0x04, .domain, .cor, 0, .v, 0, 281474976710655, 1⟩]

/-- Entries 0x3400 to 0x34FF. -/
def odRows34 : List OdRow := [
  ⟨0x3400, 0x01, 0x01, .uint 1, .rw, 0, .m, 0, 1, 1⟩,
  ⟨0x3400, 0x02, 0x02, .uint 1, .rw, 0, .m, 0, 1, 1⟩,
  ⟨0x3400, 0x03, 0x03, .uint 2, .rw, 110, .m, 100, 400, 1⟩,
  ⟨0x3400, 0x04, 0x04, .domain, .ro, 0, .v, 0, 281474976710655, 1⟩,
  ⟨0x3401, 0x01, 0x10, .uint 8, .rw, 0, .p, 0, 18446744073709551615, 1⟩,
  ⟨0x3402, 0x01, 0x10, .uint 4, .wo, 0, .v, 0, 4294967295, 1⟩,
  ⟨0x3403, 0x01, 0x10, .uint 8, .rw, 0, .p, 0, 18446744073709551615, 64⟩,
  ⟨0x3404, 0x01, 0x10, .uint 4, .rw, 0, .p, 0, 65536, 1⟩,
  ⟨0x3405, 0x01, 0x10, .uint 8, .rw, 0, .p, 0, 18446744073709551615, 64⟩,
  ⟨0x3406, 0x01, 0x10, .uint 4, .rw, 256, .p, 1, 65536, 1⟩,
  ⟨0x3407, 0x01, 0x10, .uint 4, .rw, 0, .p, 0, 4294967295, 1⟩,
  ⟨0x3408, 0x01, 0x10, .uint 4, .rw, 0, .p, 0, 4294967295, 1⟩,
  ⟨0x3409, 0x01, 0x10, .uint 4, .wo, 0, .v, 0, 4294967295, 1⟩,
  ⟨0x340A, 0x00, 0x00, .domain, .roS, 0, .v, 0, 281474976710655, 1⟩,
  ⟨0x340B, 0x01, 0x01, .uint 8, .cor, 0, .v, 0, 18446744073709551615, 1⟩,
  ⟨0x340B, 0x02, 0x02, .uint 8, .cor, 0, .v, 0, 18446744073709551615, 1⟩,
  ⟨0x340B, 0x03, 0x03, .uint 8, .cor, 0, .v, 0, 18446744073709551615, 1⟩,
  ⟨0x340B, 0x04, 0x04, .uint 8, .cor, 0, .v, 0, 18446744073709551615, 1⟩,
  ⟨0x340B, 0x05, 0x05, .uint 8, .cor, 0, .v, 0, 18446744073709551615, 1⟩,
  ⟨0x340B, 0x06, 0x06, .uint 4, .cor, 0, .v, 0, 4294967295, 1⟩,
  ⟨0x340B, 0x07, 0x07, .uint 8, .cor, 0, .v, 0, 18446744073709551615, 1⟩,
  ⟨0x340B, 0x08, 0x08, .uint 8, .cor, 0, .v, 0, 18446744073709551615, 1⟩,
  ⟨0x340C, 0x00, 0x00, .domain, .ro, 0, .v, 0, 281474976710655, 1⟩]

/-- Entries 0x4000 to 0x40FF. -/
def odRows40 : List OdRow := [
  ⟨0x4000, 0x01, 0x01, .uint 1, .rw, 0, .m, 0, 3, 1⟩,
  ⟨0x4000, 0x02, 0x02, .uint 2, .rw, 0, .m, 0, 65535, 1⟩,
  ⟨0x4000, 0x03, 0x03, .uint 8, .rw, 0, .m, 0, 18446744073709551615, 1⟩,
  ⟨0x4000, 0x04, 0x04, .uint 1, .rw, 0, .m, 0, 15, 1⟩,
  ⟨0x4000, 0x05, 0x05, .uint 2, .rw, 0, .m, 0, 65535, 1⟩,
  ⟨0x4000, 0x06, 0x06, .uint 1, .rw, 0, .m, 0, 64, 1⟩,
  ⟨0x4000, 0x07, 0x07, .uint 1, .wo, 0, .v, 1, 2, 1⟩,
  ⟨0x4000, 0x08, 0x08, .uint 1, .ro, 0, .v, 0, 255, 1⟩,
  ⟨0x4000, 0x09, 0x09, .uint 4, .ro, 0, .v, 0, 4294967295, 1⟩,
  ⟨0x4001, 0x01, 0x01, .domain, .ro, 0, .p, 0, 281474976710655, 1⟩,
  ⟨0x4001, 0x02, 0x02, .domain, .rwS, 0, .p, 0, 281474976710655, 1⟩,
  ⟨0x4001, 0x03, 0x03, .domain, .roS, 0, .p, 0, 281474976710655, 1⟩,
  ⟨0x4001, 0x04, 0x04, .domain, .rwS, 0, .p, 0, 281474976710655, 1⟩,
  ⟨0x4002, 0x01, 0x01, .bool, .rwS, 0, .p, 0, 1, 1⟩,
  ⟨0x4002, 0x02, 0x02, .uint 1, .roS, 255, .p, 0, 255, 1⟩]

/-- The rows of the range that an index lies in (R397). -/
def odRange (index : Nat) : List OdRow :=
  match index / 256 with
  | 0x10 => odRows10
  | 0x11 => odRows11
  | 0x18 => odRows18
  | 0x19 => odRows19
  | 0x20 => odRows20
  | 0x21 => odRows21
  | 0x22 => odRows22
  | 0x23 => odRows23
  | 0x24 => odRows24
  | 0x25 => odRows25
  | 0x26 => odRows26
  | 0x27 => odRows27
  | 0x28 => odRows28
  | 0x30 => odRows30
  | 0x31 => odRows31
  | 0x32 => odRows32
  | 0x33 => odRows33
  | 0x34 => odRows34
  | n => if n / 16 = 4 then odRows40 else []

/-- A panel block's index with the panel digit cleared. -/
def odBase (index : Nat) : Nat := if index / 0x1000 = 4 then 0x4000 + index % 0x100 else index

/-- The row of an entry. -/
def odRow (index sub : Nat) : Option OdRow :=
  (odRange index).find? fun r => r.index == odBase index && (r.first ≤ sub && sub ≤ r.last)

/-- The default of an entry; `id.serial` and the other fused values are computed where they are read. -/
def odDefault (index sub : Nat) : Nat :=
  match odRow index sub with
  | some r => r.default
  | none => 0

/-- The bytes of a value of an entry; 0 for the types whose length a rule of their own gives. -/
def OdType.bytes : OdType → Nat
  | .bool => 1
  | .uint b => b
  | .f32 => 4
  | .str => 0
  | .domain => 0

end Sys2Proof.Machine
end

