-- ==== Sys2Proof/Machine/Sparse.lean ====
section
/-! DEFINITION. Sparse maps: lists of (key, value) pairs, keys strictly rising, no value equal to the default. Memory,
register files and tables of blocks are all held in this one canonical form, so that equal contents are equal data. -/
namespace Sys2Proof.Machine

/-- A sparse map from Nat; unlisted keys read as a default that the reader names. -/
abbrev Sparse (α : Type) := List (Nat × α)

/-- The value at key `k`, or the default `d`. -/
def sget {α : Type} (d : α) : Sparse α → Nat → α
  | [], _ => d
  | (k', v) :: t, k => if k = k' then v else sget d t k

/-- Put `v` at key `k` of a rising list. -/
def sput {α : Type} : Sparse α → Nat → α → Sparse α
  | [], k, v => [(k, v)]
  | (k', v') :: t, k, v =>
    if k < k' then (k, v) :: (k', v') :: t
    else if k = k' then (k, v) :: t
    else (k', v') :: sput t k v

/-- Put `v` at key `k`, keeping the canonical form: a default is not listed. -/
def sset {α : Type} [DecidableEq α] (d : α) (m : Sparse α) (k : Nat) (v : α) : Sparse α :=
  if v = d then m.filter fun p => p.1 != k else sput m k v

/-- Every key of the map is above `lo` and the keys rise. -/
def srising {α : Type} : Option Nat → Sparse α → Bool
  | _, [] => true
  | none, (k, _) :: t => srising (some k) t
  | some lo, (k, _) :: t => decide (lo < k) && srising (some k) t

/-- The canonical form of a sparse map with default `d`. -/
def swf {α : Type} [DecidableEq α] (d : α) (m : Sparse α) : Bool :=
  srising none m && m.all fun p => decide (p.2 ≠ d)

/-- Drop every key in [lo, lo + n). -/
def sclear {α : Type} (lo n : Nat) (m : Sparse α) : Sparse α :=
  m.filter fun p => !(decide (lo ≤ p.1) && decide (p.1 < lo + n))

/-- Update the value at one key. -/
def smod {α : Type} [DecidableEq α] (d : α) (m : Sparse α) (k : Nat) (f : α → α) : Sparse α :=
  sset d m k (f (sget d m k))

end Sys2Proof.Machine
end

