-- ==== Sys2Proof/Machine/State.lean ====
section
/-! DEFINITION. The state of the block as plain data: every register, FIFO, buffer, counter, mode and pin that the spec
gives the module, the queue of waiting commands, and one field of the model's own (`fresh`, the index of the next free
value). Tables of like blocks are sparse maps; each has a default record, which is the block at power-on. -/
namespace Sys2Proof.Machine

/-- Why a run stops. Nothing of the spec calls for a stop of the whole block: behaviour that the spec calls
unpredictable marks its panel (`State.taints`) and runs on. -/
inductive Fault where
  /-- Raised by no command. It would be a stop on behaviour that a rule calls unpredictable; safe, since it only
  shortens runs. -/
  | unpredictable (rule : Nat)
deriving DecidableEq, Repr

/-- Why a command has no meaning in the model. -/
inductive Refusal where
  /-- Raised by exec's arm of an instruction that has no meaning yet; safe. -/
  | notModelled (mnemonic : String)
deriving DecidableEq, Repr

/-- One level of a sequencer's loop stack (R78): remaining count and loop-start index. -/
structure LoopLevel where
  count : Nat
  start : Nat
deriving DecidableEq, Repr

/-- An operation in a queue of a core (R76). `cmd` is the operation as dispatched and `areg` the address registers as
they stood then, from which its operands are formed; `need` is T of R76; `seq` numbers the core's dispatches and `ord` those into
its queue. `rowsDone` are the
rows that a PASS has admitted (R30) and `got` the rows that a DRAIN has read (R31). -/
structure QEntry where
  idx : Nat
  cmd : Instr
  areg : Sparse (BitVec 20)
  depQ : Nat
  need : Nat
  started : Bool
  ready : Bool
  move : Nat
  expiries : Nat
  seq : Nat
  ord : Nat := 0
  rowsDone : Nat := 0
  got : List (List Word32) := []
deriving DecidableEq, Repr

/-- A queue of Table 4.3: operations dispatched and retired so far, and those not yet retired. -/
structure Queue where
  disp : Nat := 0
  ret : Nat := 0
  entries : List QEntry := []
deriving DecidableEq, Repr

/-- A stationary buffer of an array (R22, R83): format pair, element bytes of K rows of 128 columns, scale bytes, gusset
bytes, whether it is square (R25), and the CA the operand came from. -/
structure Buffer where
  loaded : Bool := false
  sfmt : Byte := 0
  tfmt : Byte := 0
  rows : Nat := 0
  elems : Bytes := []
  scales : Bytes := []
  gussets : Bytes := []
  square : Bool := false
  src : Nat := 0
  stride : Nat := 0
  scaleSrc : Nat := 0
deriving DecidableEq, Repr

/-- What the foot knows of one bank row: entries per row of the pass that last wrote it, and whether it is final. -/
structure RowInfo where
  width : Nat := 128
  final : Bool := false
  fuse : Bool := false
deriving DecidableEq, Repr

/-- A pass whose rows are suppressed after a check mismatch (R35). -/
structure HeldPass where
  f : PassF
  src : Nat
  buf : Buffer
  rows : List Nat
  attempts : Nat
deriving DecidableEq, Repr

/-- A bank row as it stood before the pass last begun wrote it (R36): what the foot knew of it, and the entries from index `first` on. -/
structure RowBefore where
  row : Nat
  info : RowInfo
  first : Nat
  entries : List Word32
deriving DecidableEq, Repr

/-- A matrix array (R21): two stationary buffers, the active one, the accumulator bank (65,536 binary32 entries), what is
known of its rows, the passes held by a check mismatch, and the rows that the pass last begun has overwritten, newest
first. -/
structure Arr where
  buf0 : Buffer := {}
  buf1 : Buffer := {}
  active : Bool := false
  bank : Sparse Word32 := []
  rows : Sparse RowInfo := []
  held : List HeldPass := []
  before : List RowBefore := []
deriving DecidableEq, Repr

/-- The needle's held-row buffer (R39). -/
structure HeldRows where
  fmt : Byte := 0
  rows : Nat := 0
  len : Nat := 0
  data : Bytes := []
deriving DecidableEq, Repr

/-- A row delivered by a DRAIN with destination 2 (R86). -/
structure DrainedRows where
  rows : Nat
  width : Nat
  values : List Word32
deriving DecidableEq, Repr

/-- A mover descriptor as accepted (Table 8.1). -/
structure Desc where
  addr : Nat := 0
  src : Nat := 0
  dst : Nat := 0
  kind : Nat := 0
  records : Bool := false
  nomerge : Bool := false
  resume : Bool := false
  chunk : Nat := 0
  xfer : Nat := 0
  n0 : Nat := 1
  n1 : Nat := 1
  n2 : Nat := 1
  n3 : Nat := 1
  n4 : Nat := 1
  sides : BitVec 4 := 0
  st1 : Int := 0
  st2 : Int := 0
  st3 : Int := 0
  st4 : Int := 0
deriving DecidableEq, Repr

/-- A send record (Table 12.4). -/
structure SendRec where
  qp : Nat
  sprayed : Bool
  trail : Bool
  msg : Word32
  op : Bytes
deriving DecidableEq, Repr

/-- A MOVE or STREAM in progress in a core's mover (R171–R187). Positions count bytes of the transfer in run order. -/
structure Move where
  id : Nat
  kid : Nat
  /-- the operation's descriptor operand -/
  ca : Nat
  d : Desc
  /-- needle channel of a STREAM, none for a MOVE -/
  channel : Option Nat
  /-- bytes issued, and bytes whose writes have landed -/
  pos : Nat
  landed : Nat
  /-- chunks shown by the completion record, and whether the last record has been accepted -/
  recorded : Nat
  finalRec : Bool
  /-- parked on this unit's restore (R157), and the lines of a port that is down that were reconstructed for it (R162) -/
  parked : Option Nat
  served : List Nat := []
  /-- a host-window fault met (address, cause), and its number once assigned -/
  fault : Option (Nat × Nat)
  faultNo : Option Nat
  stopped : Bool
  hostlost : Bool
  /-- the count that the record of R183 step 4 is to show, while its page does not translate (R182) -/
  owed : Option Nat := none
  /-- ports whose replay buffer holds writes of this transfer, with the first position held (R187) -/
  heldAt : List (Nat × Nat) := []
  /-- SEND: its send record as accepted, and the payload gathered so far -/
  send : Option SendRec := none
  data : Bytes
  /-- the request handed to the table engine or the message sent, and completed there -/
  handed : Bool
  done : Bool
deriving DecidableEq, Repr

/-- A short request waiting in the merge stage (R177). -/
structure MergeReq where
  kind : Nat
  src : Nat
  dst : Nat
  len : Nat
  /-- the MOVEs it serves, with the bytes of each -/
  moves : List (Nat × Nat)
deriving DecidableEq, Repr

/-- What COMMIT saves beside the record (R81): spool counts, remote knot counts, replay register. -/
structure CommitSave where
  record : Bytes := []
  spoolP : Sparse Nat := []
  spoolC : Sparse Nat := []
  remote : Sparse Nat := []
  replay : Nat := 0
deriving DecidableEq, Repr

/-- A device record as operation `idx` of a core found it (R66): its address and its bytes. -/
structure Seen where
  idx : Nat
  addr : Nat
  data : Bytes
deriving DecidableEq, Repr

/-- A logical core: its sequencer, queues and engines (R78, Table 1.1). -/
structure Core where
  /-- kernel it runs, 0 for none -/
  kid : Nat := 0
  pc : Word16 := 0
  progLen : Nat := 0
  step : Word32 := 0
  seed : Word64 := 0
  areg : Sparse (BitVec 20) := []
  loops : List LoopLevel := []
  phase : Nat := 5
  phaseSince : Nat := 0
  ended : Bool := false
  yielded : Bool := false
  queues : Sparse Queue := []
  arrays : Sparse Arr := []
  held : HeldRows := {}
  hres : Sparse Word32 := []
  fslots : Sparse Bytes := []
  drained : List DrainedRows := []
  chans : Sparse Bytes := []
  moves : List Move := []
  nextMove : Nat := 1
  merge : Option MergeReq := none
  spoolP : Sparse Nat := []
  spoolC : Sparse Nat := []
  remote : Sparse Nat := []
  commitSeq : Nat := 0
  commit0 : CommitSave := {}
  commit1 : CommitSave := {}
  yieldRec : Bytes := []
  replay : Nat := 0
  suppress : Nat := 0
  /-- records that the operations since the commit point found, and those left for a replay to find again (R66) -/
  seen : List Seen := []
  seenLeft : List Seen := []
  /-- reserved-code counts made since the commit point, and those that a replay is not to make again (R49) -/
  reserved : Nat := 0
  reservedSkip : Nat := 0
  /-- last record count written per transfer ID since the commit point, and whether the core replays (R369) -/
  recCounts : Sparse Nat := []
  replaying : Bool := false
  missed : Nat := 0
  failed : Bool := false
  awaitHost : Bool := false
  lost : Bool := false
  remoteWait : Option Nat := none
  /-- expiries of a wait that no operation of its own holds, by queue (R201) -/
  expiries : Sparse Nat := []
deriving DecidableEq, Repr

/-- A core group (R9, R318, R342): positions of its eight logical cores, its spare, the resident tag, droop skipping. -/
structure Group where
  phys : List Nat := [0, 1, 2, 3, 4, 5, 6, 7]
  spare : Nat := 8
  spareUsable : Bool := true
  unusable : List Nat := []
  resident : Word16 := 0
  droop : Bool := false
deriving DecidableEq, Repr

inductive KPhase where
  | waiting | running | stopping | preempted | ending
deriving DecidableEq, Repr

/-- A kernel between its ring record and its completion (R302, R316–R325). -/
structure Kernel where
  kid : Nat
  panel : Nat
  phase : KPhase
  tag : Word32
  port : Nat
  ring : Nat
  recIdx : Nat
  hostTag : Word16
  cqe : Bool
  rtype : Byte
  job : Word32
  step : Word32
  prio : Nat
  serving : Bool
  layer : Nat
  mask : Word16
  affinity : Word16
  header : Nat
  /-- logical cores named by the program table, before the shift of R319 -/
  home : List Nat
  shift : Int
  fallback : Bool
  width : Nat
  tesh : Bool
  seed : Word64
  status : Byte
  event : Word16
  /-- the higher-priority kernel that a pre-emption serves, and when the request came -/
  forKid : Nat
  since : Nat
  /-- the logical cores as they were saved (R322) -/
  saved : List (Nat × Core)
deriving DecidableEq, Repr

/-- A knot (R191, R204). -/
structure Knot where
  value : Word48 := 0
  gen : Word16 := 0
  poisoned : Bool := true
  sigFab : BitVec 8 := 0
  sigCore : Nat := 0
  sigTag : Word32 := 0
  sigPanel : Nat := 0
  ops : Nat := 0
deriving DecidableEq, Repr

/-- A pending wait or arrival on a local knot (R200, R204). `fab` is none for a core of this device. -/
structure Waiter where
  knot : Nat
  fab : Option Nat
  core : Nat
  op : Nat
  mode : Nat
  value : Nat
  qp : Nat
  count : Nat
  since : Nat
deriving DecidableEq, Repr

/-- A region-table entry (Table 10.3). -/
structure Region where
  base : Nat := 0
  limit : Nat := 0
  kind : Nat := 0
  rights : Byte := 0
  world : Byte := 0
  peer : Nat := 0
  rootMode : Byte := 0
  ctrBase : Nat := 0
  /-- where firmware placed the tag area of a secure ROOT entry (R151, R236) -/
  tagBase : Nat := 0
  /-- the 30 host-written bytes as they stand -/
  raw : Bytes := []
  status : Byte := 0
  valid : Bool := false
deriving DecidableEq, Repr

/-- A key slot of a secure panel (R238, R237). -/
structure KeySlot where
  purpose : Byte := 0
  key : Bytes := []
  packet : Nat := 0
deriving DecidableEq, Repr

/-- A live hint (R335). -/
structure Hint where
  op : Nat
  hold : Bool
deriving DecidableEq, Repr

/-- A snapshot in progress (R132–R135). -/
structure Snap where
  id : Nat
  step : Word32
  keySlot : Nat
  list : Nat
  count : Nat
  next : Nat
  dest : Nat
  /-- the stream header, the additional data of every chunk -/
  head : Bytes
  /-- stream bytes formed and not yet written, and how many have been written -/
  out : Bytes
  written : Nat
  /-- plaintext payload waiting to fill a sealed chunk, and the number of the next chunk -/
  chunk : Bytes
  chunkNo : Nat
  /-- every stream byte formed so far, for the digest of the trailer -/
  stream : Bytes
  port : Nat
  ring : Nat
  recIdx : Nat
  hostTag : Nat
  cqe : Bool
deriving DecidableEq, Repr

/-- A panel's Root streamer (R156). -/
structure Streamer where
  table : Nat
  entries : Nat
  base : Nat
  slot : Nat
  n : Nat
  fillKnot : Word32
  relKnot : Word32
  next : Nat
  landed : List Nat
  done : Nat
  /-- Root lines reconstructed for a fill that waited for them (R162) -/
  served : List Nat := []
deriving DecidableEq, Repr

/-- A host-window fault pending in a panel (R183–R186). -/
structure PendFault where
  number : Nat
  kid : Nat
  core : Nat
  move : Nat
  addr : Nat
  cause : Nat
deriving DecidableEq, Repr

/-- An event record (Table 0.6) before it is written out. -/
structure Event where
  code : Word16
  source : Word16
  panel : Byte
  severity : Byte
  time : Word64
  a : Word64
  b : Word64
deriving DecidableEq, Repr

inductive PState where
  | free | opening | open | releasing
deriving DecidableEq, Repr

/-- A panel: what it owns, its region table, keys, and the hub's books for it. The resource entries of Table 10.10
(kind, groups, ways, ports, windows, credit) are entries of the object dictionary. -/
structure Panel where
  st : PState := .free
  regions : Sparse Region := []
  keys : Sparse KeySlot := []
  epochs : Sparse Nat := []
  check : Bytes := []
  kemPub : Bytes := []
  kemPriv : Bytes := []
  rootXts : Bytes := []
  rootTag : Bytes := []
  grants : Sparse Word64 := []
  quiesced : List Nat := []
  /-- events written to the current event ring, events lost, and the backlog -/
  evCount : Word32 := 0
  evLost : Word32 := 0
  backlog : List Event := []
  /-- a write of an event or of the producer word met a translation fault and is kept (R414) -/
  evKept : Bool := false
  nextFault : Nat := 0
  faults : List PendFault := []
  snap : Option Snap := none
  streamer : Option Streamer := none
  hint : Option Hint := none
  seamIdx : Option Nat := none
  phaseNs : Sparse Nat := []
  /-- (event, tensor, step) triples already reported (R126, R127), and kernels and steps of event 0x2203 -/
  once : List (Nat × Nat × Nat) := []
  /-- scale records that the panel's conversions have named, by device address, with the history length in force
  (R58, R61) -/
  records : List (Nat × Nat) := []
  /-- the group table that the panel's last schedule record named (R115) -/
  groupTable : Nat := 0
deriving DecidableEq, Repr

inductive SlotState where
  | free | filling | releasing | released | discarded
deriving DecidableEq, Repr

/-- A deposit as the seam accepted it (Table 10.4). -/
structure Deposit where
  panel : Nat
  /-- contributor index under which it was accepted: its staging buffer -/
  idx : Nat
  kind : Nat
  record : Bytes
  norm : Word32
  nseam : Word32
deriving DecidableEq, Repr

/-- A seam slot (Table 10.5). -/
structure SeamSlot where
  st : SlotState := .free
  step : Word32 := 0
  tag : Word32 := 0
  kind : Nat := 0
  count : Nat := 0
  width : Nat := 0
  set : List Nat := []
  dropped : List Nat := []
  deposits : List Deposit := []
  last : List Deposit := []
deriving DecidableEq, Repr

structure Seam where
  armed : Bool := false
  owner : Nat := 0
  members : List (Nat × Nat) := []
  slots : Sparse SeamSlot := []
  badSteps : List Word32 := []
  inbox : List (Nat × Bytes) := []
deriving DecidableEq, Repr

inductive LState where
  | disabled | down | training | config | up | quarantine | retraining
deriving DecidableEq, Repr

/-- Link-control messages (R247). -/
inductive LinkCtl where
  | ident (m : IdentMsg)
  | speedReq (target : BitVec 2)
  | speedAck (target : BitVec 2) (seq : BitVec 12)
  | speedRefuse (target : BitVec 2)
  | retrain
deriving DecidableEq, Repr

/-- A packet at a link: channel, sub-class, the source QP or source core that chooses its links (R253, R259), its number among the
link's packets, the bytes of it already sent, and, once it is stomped (R257), how many of its bytes were ready. -/
structure LinkWait where
  pkt : Packet
  vc : Nat
  sub : Nat
  src : Nat
  id : Nat
  sent : Nat := 0
  stomp : Option Nat := none
deriving DecidableEq, Repr

/-- Bytes `start` to `start + len − 1` of a packet as it stands on the wire. -/
structure Piece where
  pkt : Packet
  id : Nat
  start : Nat
  len : Nat
  stomp : Option Nat
deriving DecidableEq, Repr

/-- A flit (Table 11.3) but for its ACK field: TYPE 0 DATA, 1 IDLE, 2 NAK, 3 LINKCTL, with its credits, the pieces of packets or the
message that it carries, and the packets that end in it. -/
structure Flit where
  type : Nat
  seq : BitVec 12
  cvc : Nat := 0
  cpanel : Nat := 0
  ccount : Nat := 0
  vc : Nat := 0
  panel : Nat := 0
  start : Nat := 0
  sub : Nat := 0
  parts : List Piece := []
  msg : Option LinkCtl := none
  ends : List LinkWait := []
deriving DecidableEq, Repr

/-- What an Ashlink sends, in order: a flit with the ACK that it carries, a packet's Ethernet frame (Table 11.8), a PFC frame, an
LLDPDU (R261), or a Neighbor Advertisement. -/
inductive LinkOut where
  | flit (f : Flit) (ack : BitVec 12)
  | frame (b : Bytes)
  | pfc (prio : Nat) (quanta : Word16)
  | lldp (b : Bytes)
  | advert (target : BitVec 128)
deriving DecidableEq, Repr

/-- An Ashlink (R245–R268). `replay` holds the numbered flits not acknowledged, oldest first. `sinceRise` is the time of the last rise of
the speed plus one, `util` the last window's use in percent. -/
structure Link where
  st : LState := .down
  lanes : Nat := 0
  lowered : Nat := 0
  nbFab : BitVec 8 := 0
  nbLink : BitVec 8 := 0
  nbDigest : Bytes := []
  ctStep : Nat := 1
  ctPackets : Nat := 0
  txSeq : BitVec 12 := 0
  rxExpect : BitVec 12 := 0
  replay : List Flit := []
  /-- link-control messages that wait for room in the replay buffer (R248) -/
  ctlWait : List LinkCtl := []
  /-- credits not yet returned, by channel and panel (R249) -/
  owed : Sparse Nat := []
  discarding : Bool := false
  naks : Nat := 0
  rxNaks : Nat := 0
  nakSeq : BitVec 12 := 0
  rxVc : Option (BitVec 2) := none
  inFlight : Sparse Nat := []
  speedAsked : Option (BitVec 2) := none
  switchAt : Option (BitVec 12) := none
  sinceRise : Nat := 0
  util : Nat := 0
  paused : Sparse Nat := []
  pfcSent : Sparse Nat := []
  /-- bytes in the receive buffer of each priority (R260) -/
  rxFill : Sparse Nat := []
  ctr : Sparse Nat := []
  backlog : List LinkWait := []
  /-- packets numbered so far, the last one sent whole, and since when a flit has waited for a credit or PFC -/
  packets : Nat := 0
  last : Option LinkWait := none
  waitSince : Option Nat := none
  out : List LinkOut := []
deriving DecidableEq, Repr

/-- An incoming message in progress on a QP (R278). -/
structure InMsg where
  id : Word32
  base : BitVec 24
  count : Nat
  length : Option Nat
  /-- trailing operation, with the PSN of the packet that brought it -/
  trail : Option (BitVec 24 × Bytes)
deriving DecidableEq, Repr

/-- A packet sent on a QP and not yet acknowledged (R276), with its resends and NAK state (R280). -/
structure OutPkt where
  pkt : Packet
  core : Nat
  move : Nat
  kid : Nat
  resends : Nat
  /-- code of the last NAK, 0 for none -/
  nak : Nat
  backoffUs : Nat
  /-- logical core that a control packet names as its source, and the knot address that its operation names -/
  src : Nat := 0
  addr : Nat := 0
  /-- a KNOT packet: the core's moves with a number below this one were issued before it (R283) -/
  after : Nat := 0
  /-- a packet of a SEND whose core has been remapped: it is never sent again (R278) -/
  dead : Bool := false
deriving DecidableEq, Repr

inductive QState where
  | free | ready | error
deriving DecidableEq, Repr

/-- A queue pair (R269–R284). -/
structure Qp where
  st : QState := .free
  control : Bool := false
  owner : Nat := 0
  keySlot : Nat := 0
  remFab : Nat := 0
  remQp : Nat := 0
  ring : Nat := 0
  entries : Nat := 0
  postKnot : Word32 := 0
  doneKnot : Word32 := 0
  sendPsn : BitVec 24 := 0
  expPsn : BitVec 24 := 0
  bitmap : List (BitVec 24) := []
  rxPrefix : Word32 := 0
  rxDone : List Word32 := []
  inMsgs : List InMsg := []
  remPrefix : Word32 := 0
  unacked : List OutPkt := []
  waiting : List OutPkt := []
  sinceAck : Nat := 0
  ackDue : Bool := false
  ece : Bool := false
  counts : Sparse Nat := []
  rateMbps : Nat := 400000
  /-- when the rate last fell (R262) -/
  eceAt : Option Nat := none
  cached : Bool := false
  restoring : Bool := false
  /-- the restore in progress began in host-assisted mode (R399) -/
  byHost : Bool := false
  /-- the bytes of an evicted context as the device wrote them (R282) -/
  saved : Bytes := []
deriving DecidableEq, Repr

/-- A collective in progress (R285, R286): its COLL record and group record as accepted. `stage` is 0 before its first sends, 1 while
chunks or bytes of the first phase come in, 2 in the second phase of an ALL-REDUCE, 3 when the destination is final. -/
structure Coll where
  kid : Nat
  panel : Nat
  op : Nat
  red : Nat
  worker : Nat
  n : Nat
  pos : Nat
  members : List (Nat × Nat)
  staging : Nat
  src : Nat
  dst : Nat
  count : Nat
  knot : Word32
  msgBase : Word32
  key : Nat
  perm : List Nat
  stage : Nat
deriving DecidableEq, Repr

inductive PortState where
  | down | training | up | retraining | hostlost
deriving DecidableEq, Repr

/-- A device write that a port has accepted, in order: bus address and bytes, or an MSI-X message. -/
inductive HostOut where
  | write (bus : Nat) (data : Bytes)
  | msix (vector : Word16)
deriving DecidableEq, Repr

/-- What a port keeps to write again later (R305, R306, R310, R414). -/
structure HeldCompl where
  ring : Nat
  recIdx : Nat
  data : Bytes
deriving DecidableEq, Repr

/-- An open segmented transfer (R386). -/
structure Seg where
  write : Bool
  index : Word16
  sub : Byte
  txn : Word16
  total : Nat
  next : Nat
  data : Bytes
  panel : Nat
deriving DecidableEq, Repr

/-- An answer of the object dictionary. -/
structure Answer where
  op : Byte
  panel : Byte
  txn : Word16
  index : Word16
  sub : Byte
  status : Byte
  param : Word32
  data : Bytes
deriving DecidableEq, Repr

/-- One path of object-dictionary requests: the management port (path 0) or the mailbox of port h (path h + 1). `ended` is the
transaction of the transfer that ended without an answer and its code; `request` is the mailbox's request area; `last` is the
header of the request answered last, with its answer. -/
structure OdPath where
  seg : Option Seg := none
  ended : Option (Word16 × Byte) := none
  request : Bytes := []
  reqSeq : Word32 := 0
  last : Option (Bytes × Answer) := none
  answer : Option Answer := none
  respSeq : Word32 := 0
deriving DecidableEq, Repr

/-- A Riloz port (R289–R315). -/
structure Port where
  st : PortState := .down
  lanes : Nat := 0
  grace : Bool := false
  ctr : Sparse Nat := []
  losses : Nat := 0
  retrains : Nat := 0
  cache : List (Nat × Nat) := []
  replay : List HostOut := []
  out : List HostOut := []
  held : List HeldCompl := []
  irqBusy : List Word16 := []
  irqPend : List Word16 := []
  /-- host writes that wait in the HA-16 during a retrain (R308): whether to BAR0, offset, bytes -/
  waitHost : List (Bool × Nat × Bytes) := []
deriving DecidableEq, Repr

/-- A slot block (Table 13.4). -/
structure SlotBlk where
  target : Word64 := 0
  length : Word64 := 0
  tabBase : Word64 := 0
  tabEntries : Word32 := 0
  pageSize : Byte := 0
  evBase : Word64 := 0
  evEntries : Word32 := 0
  evCons : Word32 := 0
  prodWord : Word64 := 0
  evProd : Word32 := 0
  evVec : Word16 := 0
deriving DecidableEq, Repr

inductive RState where
  | disabled | running | held | quiesced
deriving DecidableEq, Repr

/-- A command ring and its ring block (Table 13.5, R297–R305). -/
structure Ring where
  base : Word64 := 0
  entries : Word32 := 0
  st : RState := .disabled
  head : Word32 := 0
  tail : Word32 := 0
  cBase : Word64 := 0
  cEntries : Word32 := 0
  cCons : Word32 := 0
  cProd : Word32 := 0
  vec : Word16 := 0
  cause : Byte := 0
  heldRec : Word32 := 0
  stale : Word32 := 0
  /-- records taken and not yet completed -/
  open_ : List Nat := []
  /-- a FENCE, PUBLISH or MODEL record waiting for the earlier ones: record index, type, CQE and host tag -/
  fence : Option (Nat × Byte × Bool × Word16) := none
  /-- the 64 bytes of the record that fences -/
  fenceBody : Bytes := []
  job : Word32 := 0
  /-- completions waiting for room, oldest first, and whether a translation fault keeps them waiting (R414) -/
  waitC : List HeldCompl := []
  kept : Bool := false
deriving DecidableEq, Repr

/-- A gather of a member panel in service (R166): who asked, the request, and the rows that have come, by entry number. -/
structure TableJob where
  tile : Nat
  core : Nat
  move : Nat
  kid : Nat
  panel : Nat
  req : Bytes
  rows : Sparse Bytes
deriving DecidableEq, Repr

/-- A member lookup: core and MOVE of its gather, entry number, global row. -/
structure Lookup where
  core : Nat
  move : Nat
  entry : Nat
  row : Nat
deriving DecidableEq, Repr

/-- A table slot (R163): its owner and descriptor, lookups at the merge queue, batches sent and not yet answered (shard and
lookups, padding among them), the gathers they belong to, and lines reconstructed for a batch that waited for them. -/
structure TableSlot where
  owner : Option Nat := none
  desc : Bytes := []
  merge : List Lookup := []
  flight : List (Nat × List Lookup) := []
  served : List Nat := []
  jobs : List TableJob := []
deriving DecidableEq, Repr

/-- A table request handed to a tile's table engine (R164). -/
structure TableReq where
  core : Nat
  move : Nat
  kid : Nat
  panel : Nat
  addr : Nat
  req : Bytes
deriving DecidableEq, Repr

/-- A line of a tile buffer (R143–R145): address div 256, its way, and whether it is dirty. -/
structure TbLine where
  line : Nat
  way : Nat
  dirty : Bool
deriving DecidableEq, Repr

/-- A restore under way (R157–R161): the unit that failed, its panel, the restore knot it holds (0–7), and whether a swatch
failed its seal rather than a line its read. -/
structure Restore where
  line : Nat
  panel : Nat
  knot : Option Nat
  swatch : Bool
  /-- begun in host-assisted mode (R161) -/
  host : Bool
deriving DecidableEq, Repr

/-- Root addresses [lo, hi) last written under an XTS key that is gone (R235); `key` tells one such key from another. -/
structure OldKey where
  lo : Nat
  hi : Nat
  key : Nat
deriving DecidableEq, Repr

/-- A Root port (R147–R150, R162). -/
structure RootPort where
  st : Nat := 0
  lanes : Nat := 0
  gts : Nat := 0
  rebuilt : Nat := 0
  capacity : Nat := 0
  /-- down since a failed mode change, until a Sanitize succeeds (R150) -/
  locked : Bool := false
deriving DecidableEq, Repr

/-- Root as a whole: the mode in force, and a change under way with the values it would revert to. -/
structure Root where
  mode : Byte := 0
  parity : Byte := 3
  changing : Bool := false
  oldMode : Byte := 0
  oldParity : Byte := 3
  ports : Sparse RootPort := []
  rebuilding : Option Nat := none
deriving DecidableEq, Repr

/-- The resident model and the deadline monitor (R326–R330). -/
structure Model where
  id : Word32 := 0
  owner : Option Nat := none
  f : Nat := 0
  lm : Nat := 0
  est : Sparse Nat := []
  /-- layer under measurement: step, start, end of the last kernel -/
  meas : Sparse (Nat × Nat × Nat) := []
  decided : List Nat := []
  /-- steps whose decision fell in host-assisted mode and awaits the host (R330, R399) -/
  awaiting : List Nat := []
deriving DecidableEq, Repr

/-- The power controller (R333–R346). -/
structure Power where
  op : Nat := 0
  target : Option Nat := none
  q : Nat := 0
  lowCount : Nat := 0
  lowMax : Nat := 0
  ceiling : Nat := 16
  capTarget : Nat := 16
  thermTarget : Nat := 16
  pwrbrk : Bool := false
  thermLimit : Bool := false
  underV : Bool := false
  inputMv : Nat := 0
  energy : Word64 := 0
  temps : Sparse (BitVec 8) := []
deriving DecidableEq, Repr

/-- Pins of Table 19.3 that hold a level (PRSNT_N is tied low). -/
structure Pins where
  pwrEn : Bool := false
  modRstN : Bool := false
  pwrbrkN : Bool := true
  enumIn : Bool := true
  enumOut : Bool := false
  ready : Bool := false
  alertN : Bool := true
  thermTripN : Bool := true
deriving DecidableEq, Repr

/-- Phase of the start (R349): no power, held by MOD_RST_N, `startup.state` n, or a low-power state. -/
inductive SPhase where
  | off | held | step (n : Nat) | dstate
deriving DecidableEq, Repr

/-- Start-up and reset (R349–R364). `staged` names the sources (ports 0–3, 4 the management port) whose image bytes stand in a
firmware area; `running` holds from READY to the next start or D3. -/
structure Startup where
  phase : SPhase := .off
  dstate : Nat := 0
  imgLen : Nat := 0
  staged : List Nat := []
  fwVersion : Word32 := 0
  fwHash : Bytes := []
  fwLen : Nat := 0
  running : Bool := false
  fatal : Bool := false
deriving DecidableEq, Repr

/-- The management port (R379–R393). -/
structure Mgmt where
  coordMac : BitVec 48 := 0
  evSeq : Word32 := 0
  sent : List (Word32 × Event) := []
  backlog : List Event := []
  beacon : Bool := true
  /-- frames that wait for a beacon, and those sent: operation and bytes (R379) -/
  held : List (Byte × Bytes) := []
  out : List (Byte × Bytes) := []
deriving DecidableEq, Repr

/-- Hubs and what they watch (R366, R371, R373). -/
structure Hubs where
  serving : List Nat := [0, 1, 2, 3]
  dead : List Nat := []
  repaired : Sparse Nat := []
  rows : Sparse Nat := []
deriving DecidableEq, Repr

/-- Attestation (R240). -/
structure Attest where
  nonces : Sparse Bytes := []
  waiting : List Nat := []
  quotes : Sparse Bytes := []
  leaf : Nat := 0
deriving DecidableEq, Repr

structure State where
  mem : List Host.Cell
  /-- bytes that hold lost data: the 64-byte Crown units and 256-byte Root lines of R158, by first address -/
  lostLines : List Nat
  /-- Root ranges whose bytes were written under a key that has been destroyed (R150, R235, R241) -/
  rootOld : List OldKey
  /-- 8-byte words that the copy of a remap wrote poisoned (R367): of core stores by device address, of what the copy holds besides
  at numbers outside the address map -/
  badWords : List Nat
  restores : List Restore
  /-- lines held by the tile buffers, most recently used first -/
  tb : List TbLine
  cores : Sparse Core
  groups : Sparse Group
  kernels : List Kernel
  nextKid : Nat
  knots : Sparse Knot
  waiters : List Waiter
  panels : Sparse Panel
  seam : Seam
  links : Sparse Link
  digests : Sparse Bytes
  /-- sprayed packets that found no link, with the tile they arrived on (R254) -/
  sprayWait : List (Nat × Packet)
  /-- fabric IDs to which no path exists (R372) -/
  noPath : List Nat
  qps : Sparse Qp
  cacheOrder : List Nat
  colls : List Coll
  ports : Sparse Port
  slots : Sparse SlotBlk
  rings : Sparse Ring
  root : Root
  tables : Sparse TableSlot
  tableQ : List (Nat × TableReq)
  grafts : Sparse (Nat × Nat)
  model : Model
  power : Power
  pins : Pins
  startup : Startup
  mgmt : Mgmt
  paths : Sparse OdPath
  hubs : Hubs
  attest : Attest
  /-- object-dictionary values that differ from their defaults, by index × 256 + subindex -/
  od : Sparse (Option Nat)
  /-- the history length in force, as of the last step boundary (R61, R69) -/
  historyLen : Nat
  /-- baselines of the five readers of a CoR entry: reader × 2^32 + field -/
  base : Sparse Nat
  /-- ns since the first READY of this start -/
  time : Nat
  taints : List Nat
  /-- MODEL'S OWN: index of the next free value -/
  fresh : Nat
  pending : List Instr
deriving DecidableEq, Repr

/-- The module before power is applied: every entry at its default, no kernel, no panel, memory with nothing listed,
knots zero and poisoned (Table 16.4, column power-on). -/
def State.reset : State where
  mem := []
  lostLines := []
  rootOld := []
  badWords := []
  restores := []
  tb := []
  cores := []
  groups := []
  kernels := []
  nextKid := 1
  knots := []
  waiters := []
  panels := []
  seam := {}
  links := []
  digests := []
  sprayWait := []
  noPath := []
  qps := []
  cacheOrder := []
  colls := []
  ports := []
  slots := []
  rings := []
  root := {}
  tables := []
  tableQ := []
  grafts := []
  model := {}
  power := {}
  pins := {}
  startup := {}
  mgmt := {}
  paths := []
  hubs := {}
  attest := {}
  od := []
  historyLen := 16
  base := []
  time := 0
  taints := []
  fresh := 0
  pending := []

end Sys2Proof.Machine
end

