-- ==== Sys2Proof/Machine/Memory.lean ====
section
/-! DEFINITION. Device memory, the object dictionary as a store of values, what panels own, and the checks that an
access passes before it proceeds (R15–R17, R140–R146, R216, R220–R225). -/
namespace Sys2Proof.Machine

/-- Device memory: the bytes that differ from zero, in the canonical form of a sparse map. A byte that nothing has
written reads as zero (DESIGN CHOICE: the spec states no contents after power-on). -/
abbrev Mem := List Host.Cell

/-- Canonical form: addresses strictly rising, no listed byte zero. -/
def Memory.wf (m : Mem) : Bool := swf (0 : Byte) m

/-- One byte. -/
def memByte (m : Mem) (a : Nat) : Byte := sget 0 m a

/-- `n` bytes from address `a`, lowest first. -/
def memRead (m : Mem) (a : Nat) : Nat → Bytes
  | 0 => []
  | n + 1 => memByte m a :: memRead m (a + 1) n

/-- Store bytes from address `a` upward. -/
def memWrite (m : Mem) (a : Nat) : Bytes → Mem
  | [] => m
  | b :: bs => memWrite (sset 0 m a b) (a + 1) bs

/-- Zero `n` bytes from `a`. -/
def memZero (m : Mem) (a n : Nat) : Mem := sclear a n m

/-- The little-endian number of a byte string (R5). -/
def leNat : Bytes → Nat
  | [] => 0
  | b :: bs => b.toNat + 256 * leNat bs

/-- The low `n` bytes of a number, little-endian (R5). -/
def toLe (n v : Nat) : Bytes :=
  match n with
  | 0 => []
  | k + 1 => BitVec.ofNat 8 v :: toLe k (v / 256)

/-- A little-endian field of `n` bytes in memory. -/
def memNat (m : Mem) (a n : Nat) : Nat := leNat (memRead m a n)

/-- Field of a byte string: `n` bytes from offset `o`, missing bytes zero. -/
def fieldNat (b : Bytes) (o n : Nat) : Nat := leNat ((b.drop o).take n)

/-- Bits [hi:lo] of a number. -/
def bitsOf (v hi lo : Nat) : Nat := v / 2 ^ lo % 2 ^ (hi + 1 - lo)

def bitOf (v i : Nat) : Bool := v / 2 ^ i % 2 == 1

/-- All bytes zero. -/
def allZero (b : Bytes) : Bool := b.all (· == 0)

/-- Replace the bytes of `b` from offset `o`. -/
def patch (b : Bytes) (o : Nat) (v : Bytes) : Bytes := b.take o ++ v ++ b.drop (o + v.length)

/-! ### Address map (Table 1.4) -/

def crownEnd : Nat := 0x00C0_0000_0000
def stackSize : Nat := 0x000C_0000_0000
/-- Start of the firmware area within a stack (R140). -/
def fwOffset : Nat := 0xB_FC00_0000
def storeBase : Nat := 0x0F00_0000_0000
def storeEnd : Nat := 0x0F00_4800_0000
def slotSize : Nat := 0x80_0000
/-- Bytes of a core store: 6 MiB. -/
def storeSize : Nat := 0x60_0000
def tbBase : Nat := 0x0F80_0000_0000
def tbEnd : Nat := 0x0F80_1000_0000
def mirrorBase : Nat := 0x0FFF_0000_0000
def ctlBase : Nat := 0x0FFF_0010_0000
def rootBase : Nat := 0x1000_0000_0000
def rootEnd : Nat := 0x2000_0000_0000
def hostBase : Nat := 0x2000_0000_0000
def hostEnd : Nat := 0x4000_0000_0000
def addrEnd : Nat := 2 ^ 48

/-- Device address of byte 0 of the store of logical core `c` (R16). -/
def coreStore (c : Nat) : Nat := storeBase + (9 * (c / 8) + c % 8) * slotSize

/-- The region of Table 1.4 that holds an address, with its division (R175): kind and number. -/
def regionOf (a : Nat) : Option (Nat × Nat) :=
  if a < crownEnd then some (1, a / stackSize)
  else if storeBase ≤ a && a < storeEnd then
    (if (a - storeBase) % slotSize < storeSize then some (2, (a - storeBase) / slotSize) else none)
  else if tbBase ≤ a && a < tbEnd then
    (if (a - tbBase) % 0x400_0000 < 0x300_0000 then some (3, (a - tbBase) / 0x400_0000) else none)
  else if mirrorBase ≤ a && a < ctlBase then some (4, 0)
  else if ctlBase ≤ a && a < ctlBase + 0x10_0000 then some (5, (a - ctlBase) / 0x1_0000)
  else if rootBase ≤ a && a < rootEnd then some (6, (a - rootBase) / 0x0400_0000_0000)
  else if hostBase ≤ a && a < hostEnd then some (7, (a - hostBase) / 0x0800_0000_0000)
  else none

/-! ### The object dictionary as a store -/

def odKey (index sub : Nat) : Nat := index * 256 + sub

/-- The value of an entry: what was last written, or its default (R389). -/
def odGet (s : State) (index sub : Nat) : Nat :=
  match sget none s.od (odKey index sub) with
  | some v => v
  | none => odDefault index sub

/-- Set an entry. -/
def odPut (index sub v : Nat) (s : State) : State :=
  { s with od := sset none s.od (odKey index sub) (if v = odDefault index sub then none else some v) }

/-- The modulus of a counter entry. -/
def odModulus (index sub : Nat) : Nat :=
  match odRow index sub with
  | some r => if r.ty = .domain then 2 ^ 1024 else 2 ^ (8 * r.ty.bytes)
  | none => 2 ^ 64

/-- Raise a counter. -/
def odCount (index sub n : Nat) (s : State) : State :=
  if n = 0 then s else odPut index sub ((odGet s index sub + n) % odModulus index sub) s

/-- Index of panel p's block (R242). -/
def panelIdx (p page : Nat) : Nat := 0x4000 + 0x100 * p + page

/-! ### Panels and what they own -/

def panelOf (s : State) (p : Nat) : Panel := sget {} s.panels p
def setPanel (p : Nat) (x : Panel) (s : State) : State := { s with panels := sset {} s.panels p x }
def updPanel (p : Nat) (f : Panel → Panel) (s : State) : State := setPanel p (f (panelOf s p)) s

/-- Kind of Table 10.1. -/
def panelKind (s : State) (p : Nat) : Nat := odGet s (panelIdx p 0) 1
def panelGroups (s : State) (p : Nat) : Nat := odGet s (panelIdx p 0) 2
def panelWays (s : State) (p : Nat) : Nat := odGet s (panelIdx p 0) 3
def panelRoots (s : State) (p : Nat) : Nat := odGet s (panelIdx p 0) 4
def panelWindows (s : State) (p : Nat) : Nat := odGet s (panelIdx p 0) 5

/-- Common and member panels are secure (Table 10.1). -/
def secure (s : State) (p : Nat) : Bool := panelKind s p == 1 || panelKind s p == 2

/-- The panel owns something: it is not FREE. -/
def panelLive (s : State) (p : Nat) : Bool := (panelOf s p).st ≠ .free
def panelOpen (s : State) (p : Nat) : Bool := (panelOf s p).st = .open

/-- The panel that owns core group g, if any (R216). -/
def ownerOfGroup (s : State) (g : Nat) : Option Nat :=
  (List.range 16).find? fun p => panelLive s p && bitOf (panelGroups s p) g

/-- The panel that owns window slot (h, w). -/
def ownerOfSlot (s : State) (h w : Nat) : Option Nat :=
  (List.range 16).find? fun p => panelLive s p && bitOf (panelWindows s p) (4 * h + w)

/-- The panel that owns Root port x. -/
def ownerOfRoot (s : State) (x : Nat) : Option Nat :=
  (List.range 16).find? fun p => panelLive s p && bitOf (panelRoots s p) x

def ownerOfCore (s : State) (c : Nat) : Option Nat := ownerOfGroup s (c / 8)

/-- The open common panel. -/
def commonPanel (s : State) : Option Nat :=
  (List.range 16).find? fun p => panelLive s p && panelKind s p == 1

/-- The lowest core group of a panel. -/
def lowGroup (s : State) (p : Nat) : Nat :=
  ((List.range 16).find? fun g => bitOf (panelGroups s p) g).getD 0

def lowCore (s : State) (p : Nat) : Nat := 8 * lowGroup s p

/-- Ways that a panel owns on tile t, ascending. -/
def waysOn (s : State) (p t : Nat) : List Nat :=
  (List.range 16).filter fun w => bitOf (panelWays s p) (16 * t + w)

/-- The DIRECT ways of a panel on a tile: the n lowest (R146). -/
def directWays (s : State) (p t : Nat) : List Nat := (waysOn s p t).take (odGet s 0x2602 (p + 1))
def cacheWays (s : State) (p t : Nat) : List Nat := (waysOn s p t).drop (odGet s 0x2602 (p + 1))

/-! ### Access checks -/

/-- The whole of [a, a + n) lies in [lo, hi]. -/
def within (a n lo hi : Nat) : Bool := lo ≤ a && a + n ≤ hi + 1

/-- Do [a, a + n) and [b, b + m) share a byte. -/
def overlap (a n b m : Nat) : Bool := a < b + m && b < a + n

def Region.covers (r : Region) (a n : Nat) : Bool := r.valid && within a n r.base r.limit

/-- The MIRROR entry in the peer's table that consents to a PUBLISH entry of the common panel (R224). -/
def mirrorConsents (s : State) (common : Nat) (r : Region) : Bool :=
  (panelOf s r.peer).regions.any fun e =>
    e.2.valid && e.2.kind == 5 && e.2.base == r.base && e.2.limit == r.limit && e.2.peer == common && e.2.rights == 1

/-- Does one entry of panel p grant the access (R141, R223, R224): a publication and a deposit grant nothing but writing, a
mirror nothing but reading, and it takes WRITE away from the CROWN entry around it. -/
def entryGrants (s : State) (p : Nat) (wr : Bool) (a n : Nat) (r : Region) : Bool :=
  r.covers a n && r.rights.getLsbD (if wr then 1 else 0) &&
  (match r.kind with
   | 1 => !wr || !(panelOf s p).regions.any fun e =>
       e.2.valid && e.2.kind == 5 && overlap a n e.2.base (e.2.limit + 1 - e.2.base)
   | 4 => wr && mirrorConsents s p r
   | 5 => !wr
   | 6 => wr
   | _ => true)

/-- Bytes of the tag area of a ROOT entry: one 64-bit tag per line (R151). -/
def Region.tagBytes (r : Region) : Nat := (r.limit + 1 - r.base) / 32

/-- Bytes of the seam's staging area (R226). -/
def stagingSize (s : State) : Nat := odGet s 0x3001 5 * odGet s 0x3001 3 * odGet s 0x3001 4

/-- Areas that no panel reaches whatever entries cover them (R225): the armed seam's staging area apart from DEPOSIT
writes, the counter areas of valid full-mode ROOT entries, and the tag areas of a secure panel's ROOT entries. -/
def forbidden (s : State) (deposit : Bool) (a n : Nat) : Bool :=
  (s.seam.armed && !deposit && overlap a n (odGet s 0x3001 2) (stagingSize s)) ||
  s.panels.any fun q => q.2.regions.any fun e =>
    e.2.valid && e.2.kind == 2 &&
      ((e.2.rootMode == 1 && overlap a n e.2.ctrBase ((e.2.limit + 1 - e.2.base) / 1024)) ||
        (secure s q.1 && overlap a n e.2.tagBase e.2.tagBytes))

/-- Is the access granted by an entry of panel p's region table (R223–R225). -/
def tableGrants (s : State) (p : Nat) (wr : Bool) (a n : Nat) : Bool :=
  (panelOf s p).regions.any fun e =>
    entryGrants s p wr a n e.2 && !forbidden s (wr && e.2.kind == 6) a n

/-- What a panel reaches by ownership rather than by its table (R146, R216, R220): its core-store slots, its DIRECT ways
and, for writes, its seam doorbell; for reads, its seam status. -/
def ownGrants (s : State) (p : Nat) (wr : Bool) (a n : Nat) : Bool :=
  match regionOf a, regionOf (a + n - 1) with
  | some (2, i), some (2, j) => i = j && bitOf (panelGroups s p) (i / 9)
  | some (3, t), some (3, t') =>
    t = t' && (directWays s p t).any fun w => within a n (tbBase + t * 0x400_0000 + w * 0x30_0000)
      (tbBase + t * 0x400_0000 + w * 0x30_0000 + 0x2F_FFFF)
  | some (5, q), some (5, _) =>
    q = p && (if wr then within a n (ctlBase + p * 0x1_0000 + 0x2000) (ctlBase + p * 0x1_0000 + 0x203F)
      else within a n (ctlBase + p * 0x1_0000 + 0x2040) (ctlBase + p * 0x1_0000 + 0x207F))
  | _, _ => false

/-- May panel p read or write every byte of [a, a + n). -/
def grants (s : State) (p : Nat) (wr : Bool) (a n : Nat) : Bool :=
  n = 0 || (panelLive s p && (tableGrants s p wr a n || ownGrants s p wr a n))

/-- Does [a, a + n) lie in the Crown stacks of panel p, outside the firmware areas (R140). -/
def inOwnCrown (s : State) (p : Nat) (a n : Nat) : Bool :=
  a + n ≤ crownEnd && 0 < n && a / stackSize = (a + n - 1) / stackSize &&
  bitOf (panelGroups s p) (a / stackSize) && (a + n - 1) % stackSize < fwOffset

/-! ### Lost lines (R158) -/

/-- First byte of the unit that shares the fate of address a: 64 bytes, 256 in Root (R142, R147). -/
def unitOf (a : Nat) : Nat := if rootBase ≤ a && a < rootEnd then a / 256 * 256 else a / 64 * 64
def unitLen (u : Nat) : Nat := if rootBase ≤ u && u < rootEnd then 256 else 64

/-- The first lost unit that [a, a + n) touches. -/
def lostIn (s : State) (a n : Nat) : Option Nat := s.lostLines.find? fun u => overlap a n u (unitLen u)

/-- A lost unit that [a, a + n) covers only in part; such a write is not performed. -/
def lostPartly (s : State) (a n : Nat) : Option Nat :=
  s.lostLines.find? fun u => overlap a n u (unitLen u) && !(a ≤ u && u + unitLen u ≤ a + n)

/-- Where the poisoned words of core c's banks, needle stores, function slots and knot unit stand among `badWords`: outside the
device address space, in the order in which R367 lists what the copy holds. -/
def privBase (c : Nat) : Nat := 2 ^ 60 + c * 2 ^ 24

/-- Does [a, a + n) touch a word that a remap's copy left poisoned (R370). -/
def badIn (s : State) (a n : Nat) : Bool := s.badWords.any fun u => overlap a n u 8

/-- What a write of [a, a + n) does to bad data: every unit or word that it covers whole is good again (R158, R370). -/
def heal (a n : Nat) (s : State) : State :=
  { s with
    lostLines := s.lostLines.filter fun u => !(a ≤ u && u + unitLen u ≤ a + n)
    badWords := s.badWords.filter fun u => !(a ≤ u && u + 8 ≤ a + n) }

/-! ### Root ports (R147, R148) -/

def rootPort (s : State) (x : Nat) : RootPort := sget {} s.root.ports x
def updRootPort (x : Nat) (f : RootPort → RootPort) (s : State) : State :=
  { s with root := { s.root with ports := smod {} s.root.ports x f } }

def rootUp (s : State) (x : Nat) : Bool := (rootPort s x).st == 1

/-- Data ports of parity mode, ascending. -/
def dataPorts (s : State) : List Nat := (List.range 4).filter (· != s.root.parity.toNat)

def inRoot (a : Nat) : Bool := rootBase ≤ a && a < rootEnd

/-- Port that holds Root address a, and the ports of the other lines of its row. -/
def rootPortOf (s : State) (a : Nat) : Nat :=
  if s.root.mode = 0 then (a - rootBase) / 0x0400_0000_0000 % 4
  else (dataPorts s).getD ((a - rootBase) / 4096 % 3) 0

/-- Is the port of a Root address down, or not yet rebuilt (R157, R162). -/
def portGone (s : State) (a : Nat) : Bool := inRoot a && !rootUp s (rootPortOf s a)

/-- Addresses of the other data lines in the row of Root address a (parity mode). -/
def rowPartners (a : Nat) : List Nat :=
  let u := (a - rootBase) / 4096
  ((List.range 3).filter (· != u % 3)).map fun k => rootBase + (u / 3 * 3 + k) * 4096 + a % 4096

/-- May the line at Root address a be rebuilt from its row (R158 step 1, R162). -/
def canRebuild (s : State) (a : Nat) : Bool :=
  s.root.mode ≠ 0 && ((List.range 4).all fun x => x = rootPortOf s a || rootUp s x) &&
  (rowPartners a).all fun b => !s.lostLines.contains b && !s.restores.any (·.line == b)

/-- Does a write at Root address a leave nothing behind: its port is down, and no parity can hold the data for it (R162). -/
def portKeepsNone (s : State) (a : Nat) : Bool :=
  portGone s a && !(s.root.mode ≠ 0 && (List.range 4).all fun x => x = rootPortOf s a || rootUp s x)

/-- The Root lines of [a, a + n) whose port is down. -/
def goneLines (s : State) (a n : Nat) : List Nat :=
  if n = 0 || !inRoot a || (List.range 4).all (rootUp s) then []
  else ((List.range ((a + n - 1) / 256 + 1 - a / 256)).map fun i => (a / 256 + i) * 256).filter (portGone s)

/-! ### Root lines under a key that is gone (R235) -/

def oldAt (s : State) (a : Nat) : Option OldKey := s.rootOld.find? fun r => r.lo ≤ a && a < r.hi

/-- One byte of device memory as its readers see it. -/
def readByte (s : State) (a : Nat) : Byte :=
  match oldAt s a with
  | some r => Config.oldKeyByte r.key a
  | none => memByte s.mem a

/-- Take [lo, hi) out of the ranges under old keys. -/
def cutOld (lo hi : Nat) (l : List OldKey) : List OldKey :=
  l.flatMap fun r =>
    if hi ≤ r.lo || r.hi ≤ lo then [r]
    else (if r.lo < lo then [{ r with hi := lo }] else []) ++ (if hi < r.hi then [{ r with lo := hi }] else [])

/-- Merge of a write into a line under an old key (R147): its bytes are read as they decrypt now, and written under the present
key. -/
def keepLine (u : Nat) (s : State) : State :=
  if (oldAt s u).isSome then { s with mem := memWrite s.mem u ((List.range 256).map fun i => readByte s (u + i)) } else s

/-- Make the lines of [a, a + n) lines of the present key, before they are written. -/
def rekeyLines (a n : Nat) (s : State) : State :=
  if s.rootOld.isEmpty || n = 0 then s
  else
    let s := keepLine ((a + n - 1) / 256 * 256) (keepLine (a / 256 * 256) s)
    { s with rootOld := cutOld (a / 256 * 256) ((a + n - 1) / 256 * 256 + 256) s.rootOld }

/-- Counter of the page of Root address a under full-mode entry e (R236). -/
def pageCounter (e : Region) (a : Nat) : Nat := e.ctrBase + 4 * ((a - e.base) / 4096)

/-- Each write of a line in full mode raises the counter of its page, modulo 2^32 (R236). -/
def raiseCounters (a n : Nat) (s : State) : State :=
  if n = 0 || !inRoot a then s
  else
    match s.panels.findSome? fun q => (q.2.regions.find? fun e =>
        e.2.valid && e.2.kind == 2 && e.2.rootMode == 1 && e.2.base ≤ a && a ≤ e.2.limit).map (·.2) with
    | none => s
    | some e =>
      (List.range ((a + n - 1) / 256 + 1 - a / 256)).foldl (fun s i =>
        let k := pageCounter e ((a / 256 + i) * 256)
        { s with mem := memWrite s.mem k (toLe 4 (memNat s.mem k 4 + 1)) }) s

/-! ### Tile buffer (R143–R145) -/

def tbSet (line : Nat) : Nat := line % 12288

/-- One access to a 256-byte line of Crown. -/
def tbAccess (wr : Bool) (line : Nat) (s : State) : State :=
  let stack := line * 256 / stackSize
  let t := stack / 4
  match ownerOfGroup s stack with
  | none => s
  | some p =>
    let ws := cacheWays s p t
    if ws.isEmpty then s else
    match s.tb.find? (fun l => l.line == line) with
    | some l => odCount 0x2601 1 1 { s with tb := { l with dirty := l.dirty || wr } :: s.tb.filter (·.line != line) }
    | none =>
      let here := s.tb.filter fun l => l.line * 256 / stackSize / 4 == t && tbSet l.line == tbSet line && ws.contains l.way
      match ws.find? (fun w => here.all (·.way != w)) with
      | some w => odCount 0x2601 2 1 { s with tb := ⟨line, w, wr⟩ :: s.tb }
      | none =>
        match here.getLast? with
        | none => s
        | some old =>
          odCount 0x2601 3 (if old.dirty then 1 else 0)
            (odCount 0x2601 2 1 { s with tb := ⟨line, old.way, wr⟩ :: s.tb.filter (·.line != old.line) })

/-- Accesses to every line of [a, a + n) that lies in Crown. -/
def tbTouch (wr : Bool) (a n : Nat) (s : State) : State :=
  if n = 0 || crownEnd < a + n then s
  else (List.range ((a + n - 1) / 256 + 1 - a / 256)).foldl (fun s i => tbAccess wr (a / 256 + i) s) s

/-- Write back every dirty line that a test picks out (R145). -/
def tbFlush (pick : TbLine → Bool) (s : State) : State :=
  odCount 0x2601 3 (s.tb.filter fun l => l.dirty && pick l).length
    { s with tb := s.tb.map fun l => if pick l then { l with dirty := false } else l }

/-- Write back and invalidate the lines that a test picks out. -/
def tbDrop (pick : TbLine → Bool) (s : State) : State :=
  { tbFlush pick s with tb := (tbFlush pick s).tb.filter fun l => !pick l }

def tbOfPanel (s : State) (p : Nat) (l : TbLine) : Bool := bitOf (panelGroups s p) (l.line * 256 / stackSize)

/-! ### Reads and writes -/

/-- Count the Root lines that an access touches (Table 7.7). -/
def rootTouch (wr : Bool) (a n : Nat) (s : State) : State :=
  if rootBase ≤ a && a < rootEnd && 0 < n then
    odCount 0x2601 (if wr then 5 else 4) ((a + n - 1) / 256 + 1 - a / 256) s
  else s

/-- Bytes of device memory. -/
def readBytes (s : State) (a n : Nat) : Bytes :=
  if s.rootOld.isEmpty then memRead s.mem a n else (List.range n).map fun i => readByte s (a + i)
def readNat (s : State) (a n : Nat) : Nat := leNat (readBytes s a n)

/-- Store bytes: memory changes, and what they cover whole is good again. A Root port that can keep nothing takes the bytes and
drops them. -/
def storeBytes (a : Nat) (b : Bytes) (s : State) : State :=
  if portKeepsNone s a then s
  else
    let s := rekeyLines a b.length s
    heal a b.length (raiseCounters a b.length { s with mem := memWrite s.mem a b })

/-- A device write as a requester makes it: the store, and what the tile buffer and Root count. -/
def writeBytes (a : Nat) (b : Bytes) (s : State) : State :=
  rootTouch true a b.length (tbTouch true a b.length (storeBytes a b s))

/-- A device read's effect on the tile buffer and on Root's counts. -/
def noteRead (a n : Nat) (s : State) : State := rootTouch false a n (tbTouch false a n s)

/-- Zero a range, as a scrub does. -/
def scrub (a n : Nat) (s : State) : State :=
  heal a n { s with mem := memZero s.mem a n, rootOld := cutOld a (a + n) s.rootOld }

end Sys2Proof.Machine
end

