-- ==== Sys2Proof/Machine/Crypto.lean ====
section
/-! DEFINITION. The functions that the spec takes from standards and names in full: SHA-256 (FIPS 180-4), HMAC and HKDF with
it (RFC 2104, RFC 5869), AES-256 (FIPS 197), its GCM (SP 800-38D) and key wrap (RFC 3394), and the CRC-32 of IEEE 802.3. -/
namespace Sys2Proof.Machine

/-! ### Byte strings, most significant byte first -/

def beBytes (n v : Nat) : Bytes := (toLe n v).reverse
def beNat (b : Bytes) : Nat := leNat b.reverse
def xorBytes (a b : Bytes) : Bytes := List.zipWith (· ^^^ ·) a b
def padTo (n : Nat) (b : Bytes) : Bytes := b ++ List.replicate (n - b.length) 0

/-- Cut into pieces of `w` bytes, `fuel` at most. -/
def pieces (w : Nat) : Nat → Bytes → List Bytes
  | 0, _ => []
  | fuel + 1, b => if b.isEmpty then [] else b.take w :: pieces w fuel (b.drop w)

/-! ### SHA-256 -/

/-- The eight 32-bit words of a 256-bit number, most significant first. -/
def words8 (v : Nat) : List Word32 := (List.range 8).map fun i => BitVec.ofNat 32 (v >>> (224 - 32 * i))

/-- The round constants (fractional parts of the cube roots of the first 64 primes), eight of them packed in each number. -/
def shaPacked : List Nat :=
  [0x428a2f9871374491b5c0fbcfe9b5dba53956c25b59f111f1923f82a4ab1c5ed5,
   0xd807aa9812835b01243185be550c7dc372be5d7480deb1fe9bdc06a7c19bf174,
   0xe49b69c1efbe47860fc19dc6240ca1cc2de92c6f4a7484aa5cb0a9dc76f988da,
   0x983e5152a831c66db00327c8bf597fc7c6e00bf3d5a7914706ca635114292967,
   0x27b70a852e1b21384d2c6dfc53380d13650a7354766a0abb81c2c92e92722c85,
   0xa2bfe8a1a81a664bc24b8b70c76c51a3d192e819d6990624f40e3585106aa070,
   0x19a4c1161e376c082748774c34b0bcb5391c0cb34ed8aa4a5b9cca4f682e6ff3,
   0x748f82ee78a5636f84c878148cc7020890befffaa4506cebbef9a3f7c67178f2]

def shaK : List Word32 := shaPacked.flatMap words8

/-- The starting words (fractional parts of the square roots of the first eight primes), packed alike. -/
def shaH0 : List Word32 := words8 0x6a09e667bb67ae853c6ef372a54ff53a510e527f9b05688c1f83d9ab5be0cd19

def shaSig (a b c : Nat) (x : Word32) : Word32 := x.rotateRight a ^^^ x.rotateRight b ^^^ x >>> c
def shaSum (a b c : Nat) (x : Word32) : Word32 := x.rotateRight a ^^^ x.rotateRight b ^^^ x.rotateRight c

/-- Message schedule, newest word first. -/
def shaExtend : Nat → List Word32 → List Word32
  | 0, w => w
  | n + 1, w =>
    shaExtend n ((shaSig 17 19 10 (w.getD 1 0) + w.getD 6 0 + shaSig 7 18 3 (w.getD 14 0) + w.getD 15 0) :: w)

/-- One round on the eight working words. -/
def shaRound (v : List Word32) (kw : Word32 × Word32) : List Word32 :=
  match v with
  | [a, b, c, d, e, f, g, h] =>
    let t1 := h + shaSum 6 11 25 e + ((e &&& f) ^^^ (~~~e &&& g)) + kw.1 + kw.2
    let t2 := shaSum 2 13 22 a + ((a &&& b) ^^^ (a &&& c) ^^^ (b &&& c))
    [t1 + t2, a, b, c, d + t1, e, f, g]
  | v => v

def shaBlock (h : List Word32) (blk : Bytes) : List Word32 :=
  let m := (List.range 16).map fun i => BitVec.ofNat 32 (beNat ((blk.drop (4 * i)).take 4))
  let w := (shaExtend 48 m.reverse).reverse
  List.zipWith (· + ·) h ((shaK.zip w).foldl shaRound h)

/-- SHA-256 of a byte string. -/
def sha256 (m : Bytes) : Bytes :=
  let z := (119 - m.length % 64) % 64
  let p := m ++ [0x80] ++ List.replicate z 0 ++ beBytes 8 (8 * m.length)
  ((pieces 64 (p.length / 64 + 1) p).foldl shaBlock shaH0).flatMap fun w => beBytes 4 w.toNat

/-- HMAC-SHA-256. -/
def hmac (key m : Bytes) : Bytes :=
  let k := padTo 64 (if 64 < key.length then sha256 key else key)
  sha256 (k.map (· ^^^ 0x5c) ++ sha256 (k.map (· ^^^ 0x36) ++ m))

/-- HKDF with SHA-256, 32 bytes out. -/
def hkdf32 (salt ikm info : Bytes) : Bytes := hmac (hmac salt ikm) (info ++ [1])

/-! ### AES-256 -/

/-- Product in GF(2^8) modulo x^8 + x^4 + x^3 + x + 1. -/
def gmul (a b : Byte) : Byte :=
  ((List.range 8).foldl (fun (acc : Byte × Byte) i =>
    (if b.getLsbD i then acc.1 ^^^ acc.2 else acc.1,
     if acc.2.getLsbD 7 then (acc.2 <<< 1) ^^^ 0x1b else acc.2 <<< 1)) (0, a)).1

/-- a to the 254th power: the inverse, 0 for 0. -/
def ginv (a : Byte) : Byte :=
  ((List.range 7).foldl (fun (acc : Byte × Byte) _ =>
    let q := gmul acc.2 acc.2
    (gmul acc.1 q, q)) ((1 : Byte), a)).1

def subByte (a : Byte) : Byte :=
  let x := ginv a
  x ^^^ x.rotateLeft 1 ^^^ x.rotateLeft 2 ^^^ x.rotateLeft 3 ^^^ x.rotateLeft 4 ^^^ 0x63

def invSubByte (a : Byte) : Byte := ginv (a.rotateLeft 1 ^^^ a.rotateLeft 3 ^^^ a.rotateLeft 6 ^^^ 0x05)

/-- Round-key words, newest first; word i from word i − 8. -/
def aesExpand : Nat → Nat → Byte → List Bytes → List Bytes
  | 0, _, _, w => w
  | n + 1, i, rc, w =>
    let p := w.getD 0 []
    let t :=
      if i % 8 = 0 then xorBytes ((p.drop 1 ++ p.take 1).map subByte) [rc, 0, 0, 0]
      else if i % 8 = 4 then p.map subByte else p
    aesExpand n (i + 1) (if i % 8 = 0 then gmul rc 2 else rc) (xorBytes (w.getD 7 []) t :: w)

/-- The 15 round keys of AES-256. -/
def aesKeys (key : Bytes) : List Bytes :=
  let w := (aesExpand 52 8 1 (pieces 4 8 (padTo 32 key)).reverse).reverse
  (List.range 15).map fun r => ((w.drop (4 * r)).take 4).flatten

def shiftRows (s : Bytes) (inv : Bool) : Bytes :=
  (List.range 16).map fun i => s.getD ((i % 4 + 4 * ((i / 4 + (if inv then 4 - i % 4 else i % 4)) % 4))) 0

def mixCol (m : List Byte) (c : Bytes) : Bytes :=
  (List.range 4).map fun i => (List.range 4).foldl (fun acc j => acc ^^^ gmul (m.getD ((j + 4 - i) % 4) 0) (c.getD j 0)) 0

def mixCols (m : List Byte) (s : Bytes) : Bytes := (pieces 4 4 s).flatMap (mixCol m)

def aesEncRound (s : Bytes) (k : Bytes) : Bytes := xorBytes (mixCols [2, 3, 1, 1] (shiftRows (s.map subByte) false)) k

/-- Encrypt one 16-byte block. -/
def aesEnc (key b : Bytes) : Bytes :=
  let ks := aesKeys key
  let s := ((ks.drop 1).take 13).foldl aesEncRound (xorBytes b (ks.getD 0 []))
  xorBytes (shiftRows (s.map subByte) false) (ks.getD 14 [])

def aesDecRound (s : Bytes) (k : Bytes) : Bytes :=
  mixCols [14, 11, 13, 9] (xorBytes ((shiftRows s true).map invSubByte) k)

/-- Decrypt one 16-byte block. -/
def aesDec (key b : Bytes) : Bytes :=
  let ks := aesKeys key
  let s := ((ks.drop 1).take 13).reverse.foldl aesDecRound (xorBytes b (ks.getD 14 []))
  xorBytes ((shiftRows s true).map invSubByte) (ks.getD 0 [])

/-! ### GCM -/

/-- Product in GF(2^128) in GCM's bit order: bit 127 of the number is the first bit. -/
def ghashMul (x y : BitVec 128) : BitVec 128 :=
  ((List.range 128).foldl (fun (acc : BitVec 128 × BitVec 128) i =>
    (if x.getLsbD (127 - i) then acc.1 ^^^ acc.2 else acc.1,
     if acc.2.getLsbD 0 then (acc.2 >>> 1) ^^^ (0xE1 : BitVec 128) <<< 120 else acc.2 >>> 1)) (0, y)).1

def ghash (h : BitVec 128) (b : Bytes) : BitVec 128 :=
  (pieces 16 (b.length / 16 + 1) b).foldl (fun y x => ghashMul (y ^^^ BitVec.ofNat 128 (beNat (padTo 16 x))) h) 0

/-- Key stream block i of a 12-byte nonce; block 1 masks the tag. -/
def gcmStream (key nonce : Bytes) (i : Nat) : Bytes := aesEnc key (nonce ++ beBytes 4 i)

def gcmCrypt (key nonce m : Bytes) : Bytes :=
  ((pieces 16 (m.length / 16 + 1) m).zipIdx 2).flatMap fun e => xorBytes e.1 (gcmStream key nonce e.2)

def gcmTag (key nonce aad c : Bytes) : Bytes :=
  let h := BitVec.ofNat 128 (beNat (aesEnc key (List.replicate 16 0)))
  let pad (b : Bytes) : Bytes := b ++ List.replicate ((16 - b.length % 16) % 16) 0
  let y := ghash h (pad aad ++ pad c ++ beBytes 8 (8 * aad.length) ++ beBytes 8 (8 * c.length))
  xorBytes (beBytes 16 y.toNat) (gcmStream key nonce 1)

/-- AES-256-GCM: ciphertext and 16-byte tag. -/
def gcmSeal (key nonce aad m : Bytes) : Bytes × Bytes :=
  let c := gcmCrypt key nonce m
  (c, gcmTag key nonce aad c)

/-- The plaintext, if the tag checks. -/
def gcmOpen (key nonce aad c tag : Bytes) : Option Bytes :=
  if gcmTag key nonce aad c = tag then some (gcmCrypt key nonce c) else none

/-! ### Key wrap -/

/-- One step back of RFC 3394 for t = n·j + i. -/
def unwrapStep (key : Bytes) (st : Bytes × List Bytes) (t : Nat) : Bytes × List Bytes :=
  let i := (t + 3) % 4
  let b := aesDec key (xorBytes st.1 (beBytes 8 t) ++ st.2.getD i [])
  (b.take 8, st.2.set i (b.drop 8))

/-- Unwrap 40 bytes into a 256-bit key; none when the integrity check fails. -/
def unwrapKey (key w : Bytes) : Option Bytes :=
  let st := ((List.range 24).map (24 - ·)).foldl (unwrapStep key) (w.take 8, pieces 8 4 (w.drop 8))
  if st.1 = List.replicate 8 0xA6 then some st.2.flatten else none

/-! ### CRC-32 -/

def crc32Byte (c : Word32) (b : Byte) : Word32 :=
  (List.range 8).foldl (fun (c : Word32) _ => if c.getLsbD 0 then (c >>> 1) ^^^ 0xEDB88320 else c >>> 1)
    (c ^^^ b.setWidth 32)

/-- The CRC-32 of IEEE 802.3. -/
def crc32 (b : Bytes) : Word32 := ~~~(b.foldl crc32Byte 0xFFFF_FFFF)

/-- An Ethernet frame with its FCS, the CRC-32 of what stands before it. -/
def frameBytes (b : Bytes) : Bytes := b ++ toLe 4 (crc32 b).toNat

def crc64Byte (c : Word64) (b : Byte) : Word64 :=
  (List.range 8).foldl (fun (c : Word64) _ => if c.getLsbD 63 then (c <<< 1) ^^^ 0x42F0_E1EB_A9EA_3693 else c <<< 1)
    (c ^^^ (b.setWidth 64 <<< 56))

/-- A CRC-64 with the ECMA-182 polynomial (R247), most significant bit first, from zero and not inverted (PRESUMED: the spec names
the polynomial alone). -/
def crc64 (b : Bytes) : Word64 := b.foldl crc64Byte 0

end Sys2Proof.Machine
end

