-- ==== Sys2Proof/Machine/Ops.lean ====
section
/-! DEFINITION. The named operations that many commands share: cores, groups and kernels by number, device writes into
host memory, events, completions, and the end of a kernel by abort. -/
namespace Sys2Proof.Machine

/-- An empty queue: the block idles. From the first READY of a start its local clock (R212, R350) moves on by 1 ns; the spec's
table has no row for a tick (DESIGN CHOICE). -/
def idleTick (s : State) : State := if s.startup.running then { s with time := s.time + 1 } else s

/-- Power is applied and MOD_RST_N does not hold the module: its controllers run. -/
def powered (s : State) : Bool :=
  match s.startup.phase with
  | .off | .held => false
  | .step _ | .dstate => true

/-- A value the spec leaves open: a fresh one on each use (R166, R217, R232, and wherever a log entry says so). -/
def freshVal (s : State) : Word64 × State := (Config.draw s.fresh, { s with fresh := s.fresh + 1 })

/-- `n` fresh bytes. -/
def freshBytes (n : Nat) (s : State) : Bytes × State :=
  ((List.range n).map (Config.drawByte s.fresh), { s with fresh := s.fresh + 1 })

/-- The free word `i` in place of a result that a host-made error of kind `why` makes unpredictable (R376). -/
def openWord (why i : Nat) (s : State) : Word32 := Config.openWord why s.fresh i

/-- A host-made error of Table 17.3 was seen: results within the panel are unpredictable from here on (R376). -/
def taint (p : Nat) (s : State) : State :=
  { s with taints := if s.taints.contains p then s.taints else s.taints ++ [p], fresh := s.fresh + 1 }

/-! ### Cores, groups, kernels -/

def coreOf (s : State) (c : Nat) : Core := sget {} s.cores c
def setCore (c : Nat) (x : Core) (s : State) : State := { s with cores := sset {} s.cores c x }
def updCore (c : Nat) (f : Core → Core) (s : State) : State := setCore c (f (coreOf s c)) s

def groupOf (s : State) (g : Nat) : Group := sget {} s.groups g
def updGroup (g : Nat) (f : Group → Group) (s : State) : State := { s with groups := smod {} s.groups g f }

/-- Physical core of a logical core (R9). -/
def physCore (s : State) (c : Nat) : Nat := 9 * (c / 8) + (groupOf s (c / 8)).phys.getD (c % 8) 0

/-- Block IDs (Table 1.5). -/
def coreBlock (s : State) (c : Nat) : Nat := 0x1000 + physCore s c
def arrayBlock (s : State) (c n : Nat) : Nat := 0x2000 + 4 * physCore s c + n
def hubBlock (tile : Nat) : Nat := 0x3000 + tile
/-- The hub block of an event about one panel (R18). -/
def panelHub (s : State) (p : Nat) : Nat := hubBlock (lowGroup s p / 4)

def kernelBy (s : State) (kid : Nat) : Option Kernel := s.kernels.find? (·.kid == kid)
def updKernel (kid : Nat) (f : Kernel → Kernel) (s : State) : State :=
  { s with kernels := s.kernels.map fun k => if k.kid == kid then f k else k }
def kernelOnCore (s : State) (c : Nat) : Option Kernel :=
  if (coreOf s c).kid = 0 then none else kernelBy s (coreOf s c).kid

/-- The logical cores that a kernel holds. -/
def coresOf (s : State) (kid : Nat) : List Nat := (List.range 128).filter fun c => (coreOf s c).kid == kid

/-- The panel and the tag of the kernel on a core; none when no kernel runs there. -/
def panelOnCore (s : State) (c : Nat) : Option Nat := (kernelOnCore s c).map (·.panel)
def tagOnCore (s : State) (c : Nat) : Nat := ((kernelOnCore s c).map (·.tag.toNat)).getD 0

/-- Does the core's sequencer dispatch: its kernel is on the cores, and nothing holds the core itself. -/
def dispatching (s : State) (c : Nat) : Bool :=
  match kernelOnCore s c with
  | none => false
  | some k =>
    let x := coreOf s c
    (k.phase = .running || k.phase = .stopping) && !x.ended && !x.yielded && !x.failed && !x.awaitHost && !x.lost

/-! ### Ports and writes into host memory -/

def portOf (s : State) (h : Nat) : Port := sget {} s.ports h
def updPort (h : Nat) (f : Port → Port) (s : State) : State := { s with ports := smod {} s.ports h f }
def slotOf (s : State) (h w : Nat) : SlotBlk := sget {} s.slots (4 * h + w)
def updSlot (h w : Nat) (f : SlotBlk → SlotBlk) (s : State) : State := { s with slots := smod {} s.slots (4 * h + w) f }
def ringOf (s : State) (h r : Nat) : Ring := sget {} s.rings (64 * h + r)
def updRing (h r : Nat) (f : Ring → Ring) (s : State) : State := { s with rings := smod {} s.rings (64 * h + r) f }

/-- Raise counter `o` (its byte offset in Table 13.11) of port h. -/
def portCount (h o n : Nat) (s : State) : State :=
  if n = 0 then s else updPort h (fun p => { p with ctr := sset 0 p.ctr o ((sget 0 p.ctr o + n) % 2 ^ 64) }) s

/-- A device write or a message that the port takes over: sent when the port is UP, kept in the replay buffer while it is
not, discarded while the host is lost (R308, R309). -/
def portSend (h : Nat) (x : HostOut) (s : State) : State :=
  let n := match x with | .write _ d => d.length | .msix _ => 0
  match (portOf s h).st with
  | .hostlost => portCount h 80 1 s
  | .up => portCount h 56 n (portCount h 0 ((n + 111) / 112) (updPort h (fun p => { p with out := p.out ++ [x] }) s))
  | _ => updPort h (fun p => { p with replay := p.replay ++ [x] }) s

/-- Raise an MSI-X vector: at most one message per hold-off time (R307). -/
def raiseVector (h : Nat) (v : Word16) (s : State) : State :=
  if (portOf s h).irqBusy.contains v then
    (if (portOf s h).irqPend.contains v then s else updPort h (fun p => { p with irqPend := p.irqPend ++ [v] }) s)
  else
    let s := portSend h (.msix v) s
    if odGet s 0x3300 5 = 0 then s else updPort h (fun p => { p with irqBusy := p.irqBusy ++ [v] }) s

/-- Outcome of a translation (R293). Causes are those of event 0x2701: 1 invalid, 2 read-only, 4 beyond the table. -/
inductive Xlate where
  | ok (bus : Nat)
  | fault (cause : Nat)
deriving DecidableEq, Repr

def pageBytes (b : SlotBlk) : Nat := if b.pageSize = 0 then 0x1000 else if b.pageSize = 1 then 0x1_0000 else 0x20_0000

/-- Bus address of offset x under translation entry e: address bits below the page size are ignored. -/
def busOf (b : SlotBlk) (e x : Nat) : Nat := e / pageBytes b * pageBytes b + x % pageBytes b

def cacheKey (w page : Nat) : Nat := w * 2 ^ 40 + page

/-- A cached entry that the slot's table no longer holds is in use: the host changed it and left the invalidate out (R294). -/
def taintStale (h w i e : Nat) (s : State) : State :=
  match ownerOfSlot s h w with
  | some p => if readNat s ((slotOf s h w).tabBase.toNat + 8 * i) 8 = e then s else taint p s
  | none => s

/-- Translate offset x of the outbound window of slot (h, w), through the port's cache (R293, R294). An entry that the
owner's Crown does not hold reads as lacking VALID. -/
def translate (h w x : Nat) (s : State) : Xlate × State :=
  let b := slotOf s h w
  let i := x / pageBytes b
  match ((portOf s h).cache.find? (·.1 == cacheKey w i)) with
  | some (_, e) => (.ok (busOf b e x), taintStale h w i e s)
  | none =>
    let s := portCount h 88 1 s
    if b.tabEntries.toNat ≤ i then (.fault 4, s)
    else
      let a := b.tabBase.toNat + 8 * i
      match ownerOfSlot s h w with
      | none => (.fault 1, s)
      | some p =>
        let e := readNat s a 8
        if !inOwnCrown s p a 8 || !bitOf e 0 then (.fault 1, s)
        else if !bitOf e 1 then (.fault 2, s)
        else (.ok (busOf b e x),
          updPort h (fun q => { q with cache := (q.cache ++ [(cacheKey w i, e)]).drop (q.cache.length + 1 - 4096) }) s)

/-- Port, slot and offset of an address in the host windows. -/
def windowOf (a : Nat) : Nat × Nat × Nat :=
  ((a - hostBase) / 2 ^ 43, (a - hostBase) / 2 ^ 41 % 4, (a - hostBase) % 2 ^ 41)

/-- A device write of the port's own (a completion, an event, a producer word) at an outbound address of slot (h, w);
false when the address is not the slot's or its translation faults (R414). -/
def outWrite (h w a : Nat) (d : Bytes) (s : State) : Bool × State :=
  if a < hostBase || hostEnd ≤ a then (false, s)
  else if (windowOf a).1 ≠ h || (windowOf a).2.1 ≠ w then (false, s)
  else
    match translate h w (windowOf a).2.2 s with
    | (.ok bus, s) => (true, portSend h (.write bus d) s)
    | (.fault _, s) => (false, s)

/-! ### Events -/

/-- Severity of an event: fixed by its code (R7). -/
def severity (code : Nat) : Nat :=
  if code = 0x1902 || code = 0x2003 then 4
  else if [0x1901, 0x2601, 0x2602, 0x2606, 0x3102, 0x2002, 0x2004].contains code then 3
  else if [0x1801, 0x1803, 0x2101, 0x2102, 0x2103, 0x2104, 0x2202, 0x2204, 0x2301, 0x2302, 0x2303, 0x2304, 0x2305, 0x2401, 0x2501,
      0x2503, 0x2504, 0x2506, 0x2603, 0x2605, 0x2702, 0x2703, 0x2801, 0x2802, 0x2803, 0x2804, 0x3001, 0x3002, 0x3003,
      0x3004, 0x3007, 0x3008, 0x3103, 0x3201, 0x3202, 0x3204, 0x3205, 0x3301, 0x3302, 0x3303, 0x3401, 0x3402, 0x3404,
      0x2001].contains code then 2
  else 1

def mkEvent (code src panel a b : Nat) (s : State) : Event :=
  { code := BitVec.ofNat 16 code, source := BitVec.ofNat 16 src, panel := BitVec.ofNat 8 panel,
    severity := BitVec.ofNat 8 (severity code), time := BitVec.ofNat 64 s.time,
    a := BitVec.ofNat 64 a, b := BitVec.ofNat 64 b }

/-- The 32 bytes of an event record (Table 0.6). -/
def eventBytes (e : Event) : Bytes :=
  toLe 2 e.code.toNat ++ toLe 2 e.source.toNat ++ [e.panel, e.severity, 0, 0] ++ toLe 8 e.time.toNat ++
    toLe 8 e.a.toNat ++ toLe 8 e.b.toNat

/-- The slot that holds a panel's event ring: the lowest with entries whose port is UP (R306). -/
def eventSlot (s : State) (p : Nat) : Option (Nat × Nat) :=
  ((List.range 16).find? fun i => ownerOfSlot s (i / 4) (i % 4) == some p && (slotOf s (i / 4) (i % 4)).evEntries ≠ 0 &&
    (portOf s (i / 4)).st = .up).map fun i => (i / 4, i % 4)

/-- The producer word, and the vector it raises (R306, R307). -/
def writeProducer (p h w : Nat) (s : State) : State :=
  let x := panelOf s p
  let b := slotOf s h w
  match outWrite h w b.prodWord.toNat (toLe 4 x.evCount.toNat ++ toLe 4 x.evLost.toNat) s with
  | (false, s) => updPanel p (fun x => { x with evKept := true }) s
  | (true, s) => raiseVector h b.evVec (updSlot h w (fun b => { b with evProd := x.evCount }) s)

/-- Write waiting events of panel p, oldest first, at most `fuel` of them, while the ring has room (R306) and no write is
kept (R414). -/
def flushEvents (p : Nat) : Nat → State → State
  | 0, s => s
  | fuel + 1, s =>
    if (panelOf s p).evKept then s
    else
    match (panelOf s p).backlog, eventSlot s p with
    | e :: rest, some (h, w) =>
      let b := slotOf s h w
      let k := (panelOf s p).evCount
      if (k - b.evCons).toNat < b.evEntries.toNat then
        match outWrite h w (b.evBase.toNat + 32 * (k.toNat % b.evEntries.toNat)) (eventBytes e) s with
        | (false, s) => updPanel p (fun x => { x with evKept := true }) s
        | (true, s) =>
          flushEvents p fuel (writeProducer p h w
            (updPanel p (fun x => { x with evCount := k + 1, backlog := rest }) s))
      else s
    | [], some (h, w) =>
      if (slotOf s h w).evProd = (panelOf s p).evCount then s else writeProducer p h w s
    | _, none => s

/-- Post an event to a panel's ring: into the backlog of 256, lost when that is full, and out as far as there is room. -/
def postPanelEvent (p : Nat) (e : Event) (s : State) : State :=
  if (panelOf s p).backlog.length < 256 then
    flushEvents p 257 (updPanel p (fun x => { x with backlog := x.backlog ++ [e] }) s)
  else updPanel p (fun x => { x with evLost := x.evLost + 1 }) s

/-- Post an event that concerns panel p to its ring. -/
def postPanel (p code src a b : Nat) (s : State) : State := postPanelEvent p (mkEvent code src p a b s) s

/-- Is ALERT_N low: a module-fatal condition, or an event of the management port unacknowledged (R405). -/
def alertLevel (s : State) : State :=
  { s with pins := { s.pins with alertN := !(s.startup.fatal || !s.mgmt.sent.isEmpty || !s.mgmt.backlog.isEmpty) } }

/-- The 16-byte header of a request or an answer (Table 18.3). -/
def odHeader (op dest src : Byte) (txn index : Word16) (sub status : Byte) (len param : Nat) : Bytes :=
  [0x01, op, dest, src] ++ toLe 2 txn.toNat ++ toLe 2 index.toNat ++ [sub, status] ++ toLe 2 len ++ toLe 4 param

/-- An untagged frame of the management port to the coordinator: zero padding up to 64 bytes, and the FCS (R380). -/
def mgmtFrame (s : State) (body : Bytes) : Bytes :=
  let b := beBytes 6 s.mgmt.coordMac.toNat ++ beBytes 6 (Config.baseMac + 24).toNat ++ beBytes 2 0x88B5 ++ body
  frameBytes (padTo (max 60 b.length) b)

/-- A frame goes out on the management port. -/
def mgmtOut (f : Byte × Bytes) (s : State) : State :=
  odCount 0x1101 2 1 { s with mgmt := { s.mgmt with out := s.mgmt.out ++ [f] } }

/-- Send a header and its data: an unaddressed module transmits nothing (R381), and one that sees no beacon waits for it (R379). -/
def mgmtSend (op : Byte) (body : Bytes) (s : State) : State :=
  if odGet s 0x1100 1 = 0 then s
  else if s.mgmt.beacon then mgmtOut (op, mgmtFrame s body) s
  else { s with mgmt := { s.mgmt with held := s.mgmt.held ++ [(op, mgmtFrame s body)] } }

/-- What waited for a beacon goes out. -/
def sendHeld (s : State) : State :=
  let fs := if odGet s 0x1100 1 = 0 then [] else s.mgmt.held
  fs.foldl (fun s f => mgmtOut f s) { s with mgmt := { s.mgmt with held := [] } }

/-- An EVENT frame to node 0: its sequence number in the header, the record as its data (R393). -/
def sendEventFrame (q : Word32) (e : Event) (s : State) : State :=
  if s.mgmt.beacon && odGet s 0x1100 1 ≠ 0 then
    odCount 0x1101 5 1 (mgmtSend 0x30
      (odHeader 0x30 0 (BitVec.ofNat 8 (odGet s 0x1100 1)) 0 0 0 0 32 q.toNat ++ eventBytes e) s)
  else s

/-- Send waiting management events while fewer than 8 are outstanding (R393). -/
def flushMgmt : Nat → State → State
  | 0, s => s
  | fuel + 1, s =>
    match s.mgmt.backlog with
    | [] => s
    | e :: rest =>
      if s.mgmt.sent.length < 8 && s.mgmt.beacon && odGet s 0x1100 1 ≠ 0 then
        let q := s.mgmt.evSeq
        flushMgmt fuel (sendEventFrame q e
          { s with mgmt := { s.mgmt with evSeq := q + 1, sent := s.mgmt.sent ++ [(q, e)], backlog := rest } })
      else s

/-- Post an event to the management port: a backlog of 256 (R393). -/
def postMgmtEvent (e : Event) (s : State) : State :=
  if s.mgmt.backlog.length < 256 then
    alertLevel (flushMgmt 257 { s with mgmt := { s.mgmt with backlog := s.mgmt.backlog ++ [e] } })
  else odCount 0x1101 6 1 s

/-- Post an event whose recipient is the management port; `panel` is 0xFF when it concerns no single panel. -/
def postMgmt (panel code src a b : Nat) (s : State) : State := postMgmtEvent (mkEvent code src panel a b s) s

/-- One event for both recipients: identical copies (R7). -/
def postBoth (p code src a b : Nat) (s : State) : State := postMgmt p code src a b (postPanel p code src a b s)

/-! ### Completions (R305) -/

/-- Body of a completion entry but for its PHASE bit. -/
def complBytes (recIdx hostTag type status tag event time : Nat) : Bytes :=
  toLe 4 recIdx ++ toLe 2 hostTag ++ toLe 1 type ++ toLe 1 status ++ toLe 4 tag ++ toLe 2 event ++ toLe 2 0 ++
    toLe 8 time ++ toLe 7 0

/-- Write waiting completions of ring (h, r) while it has room (R305) and none is kept by a translation fault (R414). -/
def flushRing (h r : Nat) : Nat → State → State
  | 0, s => s
  | fuel + 1, s =>
    let x := ringOf s h r
    match x.waitC with
    | [] => s
    | d :: rest =>
      if x.cEntries = 0 then updRing h r (fun x => { x with waitC := [] }) s
      else if (portOf s h).st = .hostlost || x.kept then s
      else if (x.cProd - x.cCons).toNat < x.cEntries.toNat then
        let phase := 1 - x.cProd.toNat / x.cEntries.toNat % 2
        match outWrite h (r / 16) (x.cBase.toNat + 32 * (x.cProd.toNat % x.cEntries.toNat)) (d.data ++ toLe 1 phase) s with
        | (false, s) => updRing h r (fun x => { x with kept := true }) s
        | (true, s) =>
          flushRing h r fuel (raiseVector h x.vec
            (updRing h r (fun x => { x with cProd := x.cProd + 1, waitC := rest }) s))
      else s

/-- A record completes: it is no longer open, and with CQE set it gets a completion entry. While the host is lost the port
keeps up to 4,096 completions (R310). -/
def completeRec (h r recIdx : Nat) (hostTag : Nat) (type : Nat) (cqe : Bool) (status tag event : Nat) (s : State) : State :=
  let s := updRing h r (fun x => { x with open_ := x.open_.erase recIdx }) s
  if !cqe then s
  else
    let d : HeldCompl := ⟨r, recIdx, complBytes recIdx hostTag type status tag event s.time⟩
    if (portOf s h).st = .hostlost then
      (if (portOf s h).held.length < 4096 then updPort h (fun p => { p with held := p.held ++ [d] }) s else s)
    else if (ringOf s h r).cEntries = 0 then s
    else flushRing h r 65 (updRing h r (fun x => { x with waitC := x.waitC ++ [d] }) s)

/-! ### Ending a kernel by abort (R74) -/

/-- Opcodes of the operations that wait on a knot. -/
def isKnotWait (i : Instr) : Bool :=
  match i with
  | .kwaitge .. | .kwaiteq .. | .karrive .. | .spaceWait .. | .dataWait .. => true
  | _ => false

/-- What an abort leaves in a core: started operations other than knot waits, and no dispatch. -/
def abortCore (x : Core) : Core :=
  { x with
    ended := true
    queues := (x.queues.map fun q =>
      (q.1, { q.2 with entries := q.2.entries.filter fun e => e.started && !isKnotWait e.cmd })).filter
        fun q => decide (q.2 ≠ ({} : Queue))
    remoteWait := none }

/-- Remote waits of a kernel that a queue pair has not yet sent are withdrawn (R203). -/
def withdrawWaits (kid : Nat) (q : Qp) : Qp :=
  { q with waiting := q.waiting.filter fun o =>
      !(o.kid == kid && o.pkt.hdr.op == 0x04 && (o.pkt.payload.getD 4 0 == 0x42 || o.pkt.payload.getD 4 0 == 0x43)) }

/-- Abort a kernel: its cores stop, operations not started are discarded, knot waits are abandoned, and its completion
will carry status 1 and the event's code (R74). A kernel that is already ending keeps its status. -/
def abortKernel (kid event : Nat) (s : State) : State :=
  match kernelBy s kid with
  | none => s
  | some k =>
    if k.phase = .ending then s else
    let cs := coresOf s kid
    let s := cs.foldl (fun s c => updCore c abortCore s) s
    let s := { s with waiters := s.waiters.filter fun w => !(w.fab.isNone && cs.contains w.core) }
    let s := updPanel k.panel (fun x => { x with faults := x.faults.filter (·.kid != kid) }) s
    let s := { s with qps := s.qps.map fun e => (e.1, withdrawWaits kid e.2) }
    odCount 0x2301 2 1 (updKernel kid (fun k => { k with phase := .ending, status := 1, event := BitVec.ofNat 16 event }) s)

/-- Post an event of a core about the kernel it runs, and abort that kernel. -/
def coreFault (c code src a b : Nat) (s : State) : State :=
  match kernelOnCore s c with
  | none => s
  | some k => abortKernel k.kid code (postPanel k.panel code src a b s)

/-- The usual form: the core is the source, parameter B the kernel tag. -/
def coreAbort (c code a : Nat) (s : State) : State := coreFault c code (coreBlock s c) a (tagOnCore s c) s

/-- Parameter A of event 0x2301 (Table 4.10): operation index, opcode, cause. -/
def opParam (idx opcode cause : Nat) : Nat := idx % 4096 + 2 ^ 16 * opcode + 2 ^ 24 * cause

/-- An access that R17 refuses: event 0x3001 and the kernel's end. -/
def regionAbort (c a : Nat) (s : State) : State := coreAbort c 0x3001 a s

/-- The spare's read of a poisoned word of the copy: the kernel is lost, the core is not (R370, case 2). The failed physical
core is the one that the remap left as the group's spare. -/
def poisonLoss (c : Nat) (s : State) : State :=
  let g := c / 8
  let a := 0x1000 + 9 * g + (groupOf s g).spare + 2 ^ 16 * c
  match kernelOnCore s c with
  | none => s
  | some k => abortKernel k.kid 0x1901 (postBoth k.panel 0x1901 (coreBlock s c) a (k.tag.toNat + 2 ^ 32 * 2) s)

/-- Abort every kernel of a panel. -/
def abortPanel (p event : Nat) (s : State) : State :=
  (s.kernels.filter (·.panel == p)).foldl (fun s k => abortKernel k.kid event s) s

/-! ### Replay suppression (R369) -/

/-- Apply an effect that the device makes outside the core exactly once: a replayed core's first effects are suppressed,
and each accepted one is counted in the replay register. -/
def onceEffect (c : Nat) (f : State → State) (s : State) : State :=
  if (coreOf s c).suppress = 0 then f (updCore c (fun x => { x with replay := x.replay + 1 }) s)
  else odCount 0x1901 6 1 (updCore c (fun x => { x with suppress := x.suppress - 1 }) s)

/-- The module's fabric ID, 0xFF while unset. -/
def fabricId (s : State) : Nat := odGet s 0x1100 2 % 256
def fabricSet (s : State) : Bool := odGet s 0x1100 2 < 256

/-- Is any kernel waiting, running or pre-empted. -/
def anyKernel (s : State) : Bool := !s.kernels.isEmpty
def panelKernels (s : State) (p : Nat) : Bool := s.kernels.any (·.panel == p)

end Sys2Proof.Machine
end

