-- ==== Sys2Proof/Machine/Operands.lean ====
section
/-! DEFINITION. Operand forms of stage-program operations: opcodes and queues (Tables 4.3, 4.5), core-store operands and
their checks (R73, R78), targets and gangs (R32, Table 4.6), knot operands (R193), and element access in the store. -/
namespace Sys2Proof.Machine

/-- Opcode of a stage-program operation (Table 4.5); 0 for commands that are none. -/
def opcodeOf (i : Instr) : Nat :=
  match i with
  | .endOp .. => 0x01
  | .loop .. => 0x02
  | .next .. => 0x03
  | .seta .. => 0x04
  | .adda .. => 0x05
  | .waitq .. => 0x06
  | .yield .. => 0x07
  | .commit .. => 0x08
  | .phase .. => 0x09
  | .stepclose .. => 0x0A
  | .load .. => 0x10
  | .pass .. => 0x11
  | .drain .. => 0x12
  | .nhold .. => 0x18
  | .nstream .. => 0x19
  | .ngraft1 .. => 0x1A
  | .ngraft2 .. => 0x1B
  | .vbin .. => 0x20
  | .vfma .. => 0x21
  | .vun .. => 0x22
  | .vred .. => 0x23
  | .vrow .. => 0x24
  | .vcvt .. => 0x25
  | .vsoft .. => 0x26
  | .vmask .. => 0x27
  | .vscan .. => 0x28
  | .vopt .. => 0x29
  | .fload .. => 0x30
  | .feval .. => 0x31
  | .fderiv .. => 0x32
  | .moveCopy .. => 0x38
  | .moveSwatchRead .. => 0x38
  | .moveSwatchWrite .. => 0x38
  | .moveTable .. => 0x38
  | .moveZero .. => 0x38
  | .moveSend .. => 0x38
  | .stream .. => 0x39
  | .kadd .. => 0x40
  | .kset .. => 0x41
  | .kwaitge .. => 0x42
  | .spaceWait .. => 0x42
  | .dataWait .. => 0x42
  | .kwaiteq .. => 0x43
  | .karrive .. => 0x44
  | .scommit .. => 0x48
  | .srelease .. => 0x49
  | _ => 0

/-- Opcodes of Table 4.5. -/
def listedOpcodes : List Nat :=
  [0x00, 0x01, 0x02, 0x03, 0x04, 0x05, 0x06, 0x07, 0x08, 0x09, 0x0A, 0x10, 0x11, 0x12, 0x18, 0x19, 0x1A, 0x1B, 0x20, 0x21, 0x22,
   0x23, 0x24, 0x25, 0x26, 0x27, 0x28, 0x29, 0x30, 0x31, 0x32, 0x38, 0x39, 0x40, 0x41, 0x42, 0x43, 0x44, 0x48, 0x49]

/-! ### Targets (Table 4.6) -/

/-- Gang width that a target code names; none for the refused code 7. -/
def targetWidth (t : Nat) : Option Nat :=
  if t < 4 then some 1 else if t < 6 then some 2 else if t = 6 then some 4 else none

/-- First array of a target. -/
def targetFirst (t : Nat) : Nat := if t < 4 then t else if t = 5 then 2 else 0

/-- Width of the mode that the kernel runs in (R32, R33): 1 native, 2 or 4 ganged. -/
def kernelWidth (s : State) (k : Kernel) : Nat :=
  if k.tesh then 4
  else match k.width with
    | 0 => (if odGet s 0x2100 1 = 0 then 1 else odGet s 0x2100 1)
    | 1 => 1
    | 2 => 2
    | _ => 4

/-! ### Core-store operands (R78) -/

/-- Address register; A0 reads 0. -/
def aReg (x : Core) (r : Nat) : Nat := if r = 0 then 0 else (sget 0 x.areg r).toNat

/-- Effective address of a CA, in bytes. -/
def caAddr (x : Core) (ca : BitVec 24) : Nat :=
  (aReg x (ca.toNat / 2 ^ 20) + ca.toNat % 2 ^ 20) % 2 ^ 20 * 8

/-- May an operation of a running kernel reach the `n` bytes at `a` of its store: below 6 MiB and outside the program
window (R73, R78). The window is the top of the store, so one bound serves both. -/
def caOk (a n : Nat) : Bool := a + n ≤ 0x5F_0000 && a < 0x60_0000

/-- The first operand, of a list of (address, length), that reaches out of bounds. -/
def badOperand (l : List (Nat × Nat)) : Option Nat := (l.find? fun e => e.2 ≠ 0 && !caOk e.1 e.2).map (·.1)

/-- Extent of `rows` rows of `len` bytes at a stride. -/
def strided (a rows stride len : Nat) : Nat × Nat := (a, if rows = 0 then 0 else (rows - 1) * stride + len)

/-- Bytes of the store of core c. -/
def storeRead (s : State) (c a n : Nat) : Bytes := readBytes s (coreStore c + a) n
def storeNat (s : State) (c a n : Nat) : Nat := readNat s (coreStore c + a) n
def storeWrite (c a : Nat) (b : Bytes) (s : State) : State := storeBytes (coreStore c + a) b s

/-- Element codes packed in a byte string (R46). -/
def unpackCodes (fmt : Byte) (n : Nat) (b : Bytes) : List Nat :=
  let w := elemBits fmt
  if w = 8 then (b.take n).map (·.toNat)
  else let v := leNat b; (List.range n).map fun i => v / 2 ^ (w * i) % 2 ^ w

/-- Pack element codes into bytes (R46). -/
def packCodes (fmt : Byte) (l : List Nat) : Bytes :=
  let w := elemBits fmt
  toLe ((l.length * w + 7) / 8) (l.foldr (fun c acc => c % 2 ^ w + 2 ^ w * acc) 0)

/-- Bytes that n elements of a format take. -/
def codeBytes (fmt : Byte) (n : Nat) : Nat := (n * elemBits fmt + 7) / 8

/-- binary32 words from bytes and back. -/
def wordsOf (b : Bytes) : Nat → List Word32
  | 0 => []
  | n + 1 => BitVec.ofNat 32 (leNat (b.take 4)) :: wordsOf (b.drop 4) n

def wordsBytes (l : List Word32) : Bytes := l.flatMap fun w => toLe 4 w.toNat

/-- `n` elements of a vector format at `a` of the store, each widened to binary32 exactly (R85). -/
def vecRead (s : State) (c : Nat) (fmt : Byte) (a n : Nat) : List Word32 :=
  (List.range n).map fun i =>
    let code := storeNat s c (a + i * vecBytes fmt) (vecBytes fmt)
    if fmt = 0x21 then BitVec.ofNat 32 code else rne32 (vecVal fmt code)

/-- Store binary32 results in a vector format, each rounded with RNE (R85). -/
def vecWrite (c : Nat) (fmt : Byte) (a : Nat) (l : List Word32) (s : State) : State :=
  storeWrite c a (l.flatMap fun w => toLe (vecBytes fmt) (vecPack fmt w)) s

/-- A vector format that the vector and function engines accept (R85). -/
def vecFmtOk (fmt : Byte) : Bool := fmt = 0x21 || fmt = 0x10 || fmt = 0x20

/-! ### Static checks at dispatch (R75, R82) -/

/-- Cause of event 0x2301 for a field that holds no listed value, or none. `w` is the kernel's gang width. -/
def fieldCause (w : Nat) (i : Instr) : Option Nat :=
  let tgt (t : Nat) : Option Nat :=
    match targetWidth t with
    | none => some 4
    | some g => if g = w then none else some 3
  let fmtc (f : Byte) : Option Nat := if vecFmtOk f then none else some 4
  let sub (n : BitVec 4) (top : Nat) (f : Byte) : Option Nat := if top < n.toNat then some 1 else fmtc f
  match i with
  | .seta _ _ r _ => if r = 0 then some 4 else none
  | .adda _ _ r _ => if r = 0 then some 4 else none
  | .phase _ _ p => if 5 < p.toNat then some 4 else none
  | .load _ _ f => tgt f.target.toNat
  | .pass _ _ f _ => tgt f.target.toNat
  | .drain _ _ f => match tgt f.target.toNat with
    | some x => some x
    | none => if f.dest = 3 then some 4 else none
  | .vbin _ _ f => sub f.subop 5 f.fmt
  | .vfma _ _ f => fmtc f.fmt
  | .vun _ _ f => sub f.subop 5 f.fmt
  | .vred _ _ f => sub f.subop 3 f.fmt
  | .vrow _ _ f => sub f.subop 3 f.fmt
  | .vcvt _ _ f => if f.fmt = 0x21 || f.fmt = 0x10 then none else some 4
  | .vsoft _ _ f => fmtc f.fmt
  | .vmask _ _ f => sub f.subop 1 f.fmt
  | .vscan _ _ f => fmtc f.fmt
  | .feval _ _ f => fmtc f.fmt
  | .fderiv _ _ f => fmtc f.fmt
  | _ => none

/-- Header field dep: 13 and 14 are refused (R75). -/
def depBad (h : OpHdr) : Bool := h.dep = 13 || h.dep = 14

/-! ### Knot operands (R191, R193) -/

/-- A knot address with the parts of Table 9.1. -/
def knotFab (a : Word32) : Nat := a.toNat / 2 ^ 24
def knotCore (a : Word32) : Nat := a.toNat / 2 ^ 16 % 256
def knotNum (a : Word32) : Nat := a.toNat % 256
/-- Bits [15:8] are zero and the logical core exists. -/
def knotAddrOk (a : Word32) : Bool := a.toNat / 2 ^ 8 % 256 == 0 && knotCore a < 128

/-- Index of a knot of this module. -/
def knotIdx (core n : Nat) : Nat := core * 256 + n

/-- The operand that the mode field forms (ABS and REG), modulo 2^`w`; none for a combination that is refused (R193). -/
def knotOperand (x : Core) (w : Nat) (value : Nat) (mode : BitVec 2) (reg : BitVec 6) (step : Bool) : Option Nat :=
  let st := if step then x.step.toNat else 0
  if mode = 0 then (if reg = 0 then some ((value + st) % 2 ^ w) else none)
  else if mode = 1 then (if reg.toNat < 16 then some ((value + aReg x reg.toNat + st) % 2 ^ w) else none)
  else none

end Sys2Proof.Machine
end

