-- ==== Sys2Proof/Machine/Convert.lean ====
section
/-! DEFINITION. Conversion of binary32 values to narrow tensors (R52–R57), scale records and layer records (R58, R59), and
the close of a layer's step (R60–R63). -/
namespace Sys2Proof.Machine

/-- A conversion descriptor (Table 4.7). -/
structure ConvDesc where
  target : Byte
  rounding : Nat
  source : Nat
  across : Bool
  stream : Nat
  recAddr : Nat
  scaleDst : BitVec 24
  gussetDst : BitVec 24
  stats : BitVec 24
deriving DecidableEq, Repr

def convDesc (b : Bytes) : ConvDesc :=
  { target := b.getD 0 0, rounding := fieldNat b 1 1, source := fieldNat b 2 1, across := bitOf (fieldNat b 3 1) 0,
    stream := fieldNat b 4 3, recAddr := fieldNat b 8 8, scaleDst := BitVec.ofNat 24 (fieldNat b 16 3),
    gussetDst := BitVec.ofNat 24 (fieldNat b 20 3), stats := BitVec.ofNat 24 (fieldNat b 24 3) }

/-- Is the target a block format of R53. -/
def blockTarget (t : Byte) : Bool := [0x02, 0x03, 0x04, 0x05, 0x0A, 0x0B, 0x0C].contains t.toNat

/-- The combinations of Table 3.3; `foot` is a drain's conversion. A rounding code above 2 names no mode of R52, so the conversion
is one that the table does not list (DESIGN CHOICE: no rule names its refusal). -/
def convAccepted (foot : Bool) (d : ConvDesc) : Bool :=
  d.rounding ≤ 2 &&
  if blockTarget d.target then
    (d.source = 1 && !d.across) || (d.source = 2 && !foot) || (d.source = 3 && d.recAddr ≠ 0)
  else if d.target = 0x01 then !foot && ((d.source = 1 && !d.across) || d.source = 2)
  else if d.target = 0x08 || d.target = 0x09 || d.target = 0x10 then d.source = 0 && !d.across
  else d.target = 0x20 && !foot && d.source = 0 && !d.across

/-- Whole blocks along rows, or across groups of rows (R52). -/
def convShapeOk (d : ConvDesc) (rows len : Nat) : Bool :=
  !hasScale d.target || (if d.across then rows % 32 = 0 else len % 32 = 0)

/-- Parameter A of event 0x2202. -/
def convParam (d : ConvDesc) : Nat := d.target.toNat + 2 ^ 8 * d.source + 2 ^ 16 * d.across.toNat

/-! ### Scale records (Table 3.4) -/

structure ScaleRec where
  fmt : Nat
  length : Nat
  head : Nat
  valid : Nat
  initial : Nat
  flags : Nat
  step : Nat
  h : Word32
  stepMax : Word32
  layer : Nat
  converted : Nat
  saturated : Nat
  underflowed : Nat
  history : List Word32
deriving DecidableEq, Repr

def scaleRecOf (b : Bytes) : ScaleRec :=
  { fmt := fieldNat b 4 1, length := fieldNat b 5 1, head := fieldNat b 6 1, valid := fieldNat b 7 1,
    initial := fieldNat b 8 1, flags := fieldNat b 9 1, step := fieldNat b 12 4,
    h := BitVec.ofNat 32 (fieldNat b 16 4), stepMax := BitVec.ofNat 32 (fieldNat b 20 4),
    layer := fieldNat b 24 8, converted := fieldNat b 32 8, saturated := fieldNat b 40 4,
    underflowed := fieldNat b 44 4, history := wordsOf (b.drop 64) 64 }

def scaleRec (s : State) (a : Nat) : ScaleRec := scaleRecOf (readBytes s a 320)

/-- The fields that the device writes, back in place. -/
def putScaleRec (a : Nat) (t : ScaleRec) (s : State) : State :=
  storeBytes (a + 64) (wordsBytes t.history)
    (storeBytes (a + 32) (toLe 8 t.converted ++ toLe 4 t.saturated ++ toLe 4 t.underflowed)
      (storeBytes (a + 12) (toLe 4 t.step ++ toLe 4 t.h.toNat ++ toLe 4 t.stepMax.toNat)
        (storeBytes (a + 6) (toLe 1 t.head ++ toLe 1 t.valid ++ toLe 1 t.initial ++ toLe 1 t.flags) s)))

/-- Not negative and finite. The record's −0.0 counts as not negative (DESIGN CHOICE: R58 does not say). -/
def fineMax (w : Word32) : Bool := finite32 w && (w = 0x8000_0000 || !w.getLsbD 31)

/-- The i-th most recent entry of a history ring of length L. -/
def recentSlot (head L i : Nat) : Nat := (head + 64 * L - 1 - i) % L

/-- Validity of a record whose effective length is L (R58). -/
def scaleRecOk (s : State) (a L : Nat) : Bool :=
  let t := scaleRec s a
  a % 64 = 0 && t.layer % 32 = 0 && t.flags < 2 && allZero (readBytes s (a + 10) 2) && allZero (readBytes s (a + 48) 16) &&
  t.length ≤ 64 && t.head < L && t.valid ≤ 64 && 2 ≤ t.fmt && t.fmt ≤ 0x0C && t.initial ≠ 0xFF &&
  fineMax t.h && fineMax t.stepMax &&
  (List.range (min t.valid L)).all fun i => fineMax (t.history.getD (recentSlot t.head L i) 0)

/-- Effective length of record a of panel p: its own, or the history length in force for it, which changes at the boundary that
next processes the record (R61, R69, Table 3.4). -/
def recLength (s : State) (p a : Nat) : Nat :=
  let n := readNat s (a + 5) 1
  if n ≠ 0 then n
  else match (panelOf s p).records.find? (·.1 == a) with
    | some (_, l) => l
    | none => s.historyLen

/-- Remember a record that a conversion names. -/
def noteRecord (p a : Nat) (s : State) : State :=
  if (panelOf s p).records.any (·.1 == a) then s
  else updPanel p (fun x => { x with records := x.records ++ [(a, s.historyLen)] }) s

/-! ### Scales (R53, R54) -/

/-- The largest finite magnitude of a list, as a binary32 code. -/
def maxMag (l : List Word32) : Word32 :=
  l.foldl (fun m w => if finite32 w && m.toNat < (w &&& 0x7FFF_FFFF).toNat then w &&& 0x7FFF_FFFF else m) 0

/-- Is a ≤ 2^E × m_f, for a finite binary32 magnitude a and the largest finite magnitude of the target's elements. -/
def fitsScale (target : Byte) (a : Word32) (twice : Bool) (E : Int) : Bool :=
  let mf : Nat × Int := match elemKind target with
    | some (.float _ _ _ mc) => match elemVal target mc with
      | .fin _ m e => (m, e)
      | _ => (0, 0)
    | _ => (127, -6)
  match f32val a with
  | .fin _ m e => magLe m (if twice then e + 1 else e) mf.1 (mf.2 + E)
  | _ => false

/-- The smallest exponent in [−127, 127] that fits, or 127. -/
def scaleExp (target : Byte) (a : Word32) (twice : Bool) : Int :=
  match (List.range 255).find? fun (i : Nat) => fitsScale target a twice ((i : Int) - 127) with
  | some i => (i : Int) - 127
  | none => 127

/-- The largest gusset g in 0–3 with a × 2^g ≤ 2^E × 6. -/
def gussetFor (a : Word32) (E : Int) : Nat :=
  match ([3, 2, 1] : List Nat).find? fun (g : Nat) => fitsScale 0x03 a false (E - (g : Int)) with
  | some g => g
  | none => 0

/-- T2's exponent: the largest E with 2^(E − 1/2) ≤ mean magnitude of the finite values, clamped (R54). -/
def t2Exp (l : List Word32) : Int :=
  let fin := l.filter finite32
  let sum := fin.foldl (fun acc w => fadd acc (fabs (f32val w))) (.fin false 0 0)
  match sum with
  | .fin _ m e =>
    if m = 0 then -127
    else match (List.range 255).find? fun (i : Nat) =>
        -- 2^(2E − 1) n² ≤ m² 2^(2e), with E = 127 − i
        magLe (fin.length * fin.length) (2 * (127 - (i : Int)) - 1) (m * m) (2 * e) with
      | some i => 127 - (i : Int)
      | none => -127
  | _ => -127

/-! ### Elements (R55) -/

def roundOf (mode : Nat) (r16 : Nat) : Round := if mode = 0 then .rne else if mode = 1 then .rtz else .sr r16

/-- Code of a value that is no NaN, scaled by 2^(−k), with whether it saturated. -/
def encodeElem (target : Byte) (k : Int) (r : Round) (x : FVal) : Nat × Bool :=
  match elemKind target, x with
  | some .t2, .fin neg m e =>
    let n := if e - k < 0 then roundShift r m (k - e).toNat false else m * pow2 (e - k)
    (if n = 0 then 0 else if neg then 2 else 1, false)
  | some .t2, .inf neg => (if neg then 2 else 1, false)
  | some .int8, x =>
    let top := if x.isNeg then 128 else 127
    match x with
    | .fin neg m e =>
      if magLe m (e - k) top (-6) then
        let n := if e - k + 6 < 0 then roundShift r m (k - e - 6).toNat false else m * pow2 (e - k + 6)
        (if neg then (256 - n) % 256 else n, false)
      else (if neg then 0x80 else 0x7F, true)
    | x => (if x.isNeg then 0x80 else 0x7F, true)
  | some (.float eb mb bias mc), x =>
    let sign (neg : Bool) (c : Nat) : Nat := if neg && c ≠ 0 then 2 ^ (eb + mb) + c else c
    match x with
    | .fin neg m e =>
      let fits := match elemVal target mc with
        | .fin _ mm me => magLe m (e - k) mm me
        | _ => false
      if fits then (sign neg (packMag mb (1 - (bias : Int) - mb) r m (e - k) false), false)
      else (sign neg mc, true)
    | x => (sign x.isNeg mc, true)
  | none, _ => (0, false)
  | _, _ => (0, false)

/-- Counts of R57 for one conversion, and the largest finite magnitude. -/
structure ConvCounts where
  converted : Nat := 0
  saturated : Nat := 0
  underflowed : Nat := 0
  nanBlocks : Nat := 0
  maxMag : Word32 := 0
deriving DecidableEq, Repr

def ConvCounts.add (a b : ConvCounts) : ConvCounts :=
  { converted := a.converted + b.converted, saturated := a.saturated + b.saturated,
    underflowed := a.underflowed + b.underflowed, nanBlocks := a.nanBlocks + b.nanBlocks,
    maxMag := if a.maxMag.toNat < b.maxMag.toNat then b.maxMag else a.maxMag }

/-- One block converted: element codes, scale byte, gusset byte and counts. `vals` holds each value with its index in the
output and `gs` the gusset of each of its sub-blocks. -/
structure ConvBlock where
  codes : List Nat
  scale : Byte
  gusset : Byte
  counts : ConvCounts
deriving DecidableEq, Repr

/-- Value at (row, column) of the rows being converted. -/
def cell (v : List (List Word32)) (r c : Nat) : Word32 := (v.getD r []).getD c 0

/-- Coordinates of element i of block (p, q): ALONG, row p and columns 32q…; ACROSS, rows 32p… and column q. -/
def blockCoord (across : Bool) (p q i : Nat) : Nat × Nat := if across then (32 * p + i, q) else (p, 32 * q + i)

/-- Coordinates of the part of a 32 × 32 tile, the one that holds block (p, q), that lies in an output of `rows` rows of `len`
values. -/
def tileCoords (across : Bool) (rows len p q : Nat) : List (Nat × Nat) :=
  let r0 := if across then 32 * p else p / 32 * 32
  let c0 := if across then q / 32 * 32 else 32 * q
  ((List.range 32).flatMap fun i => (List.range 32).map fun j => (r0 + i, c0 + j)).filter fun rc => rc.1 < rows && rc.2 < len

/-- Values of the tile, or of its sub-block s (R53); values that the output does not have are none of them. -/
def tileVals (v : List (List Word32)) (len : Nat) (across : Bool) (p q : Nat) (sub : Option Nat) : List Word32 :=
  ((tileCoords across v.length len p q).filter fun rc => match sub with
    | none => true
    | some t => (if across then rc.1 % 32 / 8 else rc.2 % 32 / 8) == t).map fun rc => cell v rc.1 rc.2

/-- Exponent and gussets of block (p, q) under its scale source. -/
def blockScale (d : ConvDesc) (r : ScaleRec) (v : List (List Word32)) (len p q : Nat) : Int × List Nat :=
  let vals := (List.range 32).map fun i => cell v (blockCoord d.across p q i).1 (blockCoord d.across p q i).2
  let tile := if d.source = 2 then tileVals v len d.across p q none else vals
  if d.target = 0x01 then (t2Exp tile, [0, 0, 0, 0])
  else if d.source = 3 then
    ((if r.valid = 0 then (r.initial : Int) - 127 else scaleExp d.target r.h true), [0, 0, 0, 0])
  else
    let E := scaleExp d.target (maxMag tile) false
    if d.target = 0x03 then
      (E, (List.range 4).map fun t =>
        gussetFor (maxMag (if d.source = 2 then tileVals v len d.across p q (some t) else (vals.drop (8 * t)).take 8)) E)
    else (E, [0, 0, 0, 0])

/-- r16 of the value at (row, column) (R56). -/
def r16At (seed : Word64) (d : ConvDesc) (len row col : Nat) : Nat := srBits seed d.stream (row * len + col)

/-- Convert block (p, q) of a block format (R53–R57). -/
def convBlock (seed : Word64) (d : ConvDesc) (r : ScaleRec) (v : List (List Word32)) (len p q : Nat) : ConvBlock :=
  let (E, gs) := blockScale d r v len p q
  let co := (List.range 32).map fun i => blockCoord d.across p q i
  let ws := co.map fun rc => cell v rc.1 rc.2
  let gbyte := gs.foldr (fun g acc => g + 4 * acc) 0
  if ws.any isNan32 then
    { codes := List.replicate 32 0, scale := 0xFF, gusset := BitVec.ofNat 8 gbyte,
      counts := { converted := if d.target = 0x01 then 0 else 32, nanBlocks := 1,
                  maxMag := if d.target = 0x01 then 0 else maxMag ws } }
  else
    let es := (List.range 32).map fun i =>
      let rc := co.getD i (0, 0)
      let w := ws.getD i 0
      (encodeElem d.target (E - (gs.getD (i / 8) 0 : Nat)) (roundOf d.rounding (r16At seed d len rc.1 rc.2)) (f32val w), w)
    { codes := es.map (·.1.1), scale := BitVec.ofInt 8 (E + 127), gusset := BitVec.ofNat 8 gbyte,
      counts := if d.target = 0x01 then {} else
        { converted := 32, saturated := (es.filter (·.1.2)).length,
          underflowed := (es.filter fun e => e.1.1 = 0 && finite32 e.2 && !(f32val e.2).isZero).length,
          maxMag := maxMag ws } }

/-- Convert one value of a format without blocks: plain FP8 under unit scale, or an IEEE conversion (R55). -/
def convPlain (seed : Word64) (d : ConvDesc) (len row col : Nat) (w : Word32) : Nat × ConvCounts :=
  let rd := roundOf d.rounding (r16At seed d len row col)
  if d.target = 0x10 then (packIeee 8 7 rd (f32val w), {})
  else if d.target = 0x20 then (packIeee 5 10 rd (f32val w), {})
  else if isNan32 w then (0x7F, { converted := 1, nanBlocks := 1 })
  else
    let (c, sat) := encodeElem d.target 0 rd (f32val w)
    (c, { converted := 1, saturated := sat.toNat,
          underflowed := (c = 0 && finite32 w && !(f32val w).isZero : Bool).toNat, maxMag := maxMag [w] })

/-- A whole conversion: codes row by row, scale and gusset bytes by (row or group, block or column), and counts. -/
structure ConvOut where
  codes : List (List Nat)
  scales : List (List Byte)
  gussets : List (List Byte)
  counts : ConvCounts
deriving DecidableEq, Repr

def convert (seed : Word64) (d : ConvDesc) (r : ScaleRec) (v : List (List Word32)) (len : Nat) : ConvOut :=
  let rows := v.length
  if hasScale d.target then
    let np := if d.across then rows / 32 else rows
    let nq := if d.across then len else len / 32
    let bs := (List.range np).map fun p => (List.range nq).map fun q => convBlock seed d r v len p q
    let none' : ConvBlock := ⟨[], 0, 0, {}⟩
    { codes := (List.range rows).map fun i => (List.range len).map fun j =>
        if d.across then (((bs.getD (i / 32) []).getD j none').codes).getD (i % 32) 0
        else (((bs.getD i []).getD (j / 32) none').codes).getD (j % 32) 0
      scales := bs.map fun l => l.map (·.scale)
      gussets := if d.target = 0x03 then bs.map fun l => l.map (·.gusset) else []
      counts := bs.foldl (fun a l => l.foldl (fun a b => a.add b.counts) a) {} }
  else
    let cs := (List.range rows).map fun i => (List.range len).map fun j => convPlain seed d len i j (cell v i j)
    { codes := cs.map fun l => l.map (·.1), scales := [], gussets := [],
      counts := cs.foldl (fun a l => l.foldl (fun a b => a.add b.2) a) {} }

/-! ### Where the result goes (R87) -/

/-- Store rows of bytes at a pitch. -/
def storeRows (c a pitch : Nat) : List Bytes → State → State
  | [], s => s
  | b :: bs, s => storeRows c (a + pitch) pitch bs (storeWrite c a b s)

/-- Exact sum of squares of a row, rounded once. -/
def rowSquares (l : List Word32) : Word32 :=
  rne32 (l.foldl (fun acc w => fadd acc (fmul (f32val w) (f32val w))) (.fin false 0 0))

/-- The 16-byte statistics record. -/
def statsBytes (o : ConvCounts) (v : List (List Word32)) : Bytes :=
  toLe 4 (maxMag v.flatten).toNat ++ toLe 4 o.saturated ++ toLe 4 o.underflowed ++
    toLe 4 (match v.map rowSquares with
      | [] => (0 : Word32)
      | x :: xs => xs.foldl add32 x).toNat

/-- Operands of a conversion besides its source: extents to check (R78). `pitch` is the row pitch of the elements, `sp`
that of the scale bytes of ALONG blocks (DESIGN CHOICE, see the log). -/
def convExtents (x : Core) (d : ConvDesc) (dst rows len pitch sp : Nat) : List (Nat × Nat) :=
  let nb := if d.across then rows / 32 * len else 0
  [strided dst rows pitch (codeBytes d.target len)] ++
  (if hasScale d.target then
    [if d.across then (caAddr x d.scaleDst, nb) else strided (caAddr x d.scaleDst) rows sp (len / 32)] else []) ++
  (if d.target = 0x03 then
    [if d.across then (caAddr x d.gussetDst, nb) else strided (caAddr x d.gussetDst) rows sp (len / 32)] else []) ++
  (if d.stats = 0 then [] else [(caAddr x d.stats, 16)])

/-- Write a converted tensor: elements, scale bytes, gusset bytes, statistics. -/
def convStore (c : Nat) (x : Core) (d : ConvDesc) (o : ConvOut) (v : List (List Word32)) (dst len pitch sp : Nat)
    (s : State) : State :=
  let s := storeRows c dst pitch (o.codes.map (packCodes d.target)) s
  let s := if hasScale d.target then storeRows c (caAddr x d.scaleDst) (if d.across then len else sp) o.scales s else s
  let s := if d.target = 0x03 then storeRows c (caAddr x d.gussetDst) (if d.across then len else sp) o.gussets s else s
  if d.stats = 0 then s else storeWrite c (caAddr x d.stats) (statsBytes o.counts v) s

/-- Add a conversion's counts to the module counters; only open panels count there (R69). -/
def countConv (p : Nat) (o : ConvCounts) (s : State) : State :=
  if secure s p then s
  else odCount 0x2201 1 o.converted (odCount 0x2201 2 o.saturated
    (odCount 0x2201 3 o.underflowed (odCount 0x2201 4 o.nanBlocks s)))

/-- Add them to the named scale record (R57, R60). -/
def contribute (a : Nat) (o : ConvCounts) (s : State) : State :=
  let t := scaleRec s a
  putScaleRec a { t with
    converted := (t.converted + o.converted) % 2 ^ 64, saturated := (t.saturated + o.saturated) % 2 ^ 32,
    underflowed := (t.underflowed + o.underflowed) % 2 ^ 32,
    flags := if o.saturated = 0 then t.flags else 1,
    stepMax := if (t.stepMax &&& 0x7FFF_FFFF).toNat < o.maxMag.toNat then o.maxMag else t.stepMax } s

/-- What stops or holds a conversion before it starts. -/
inductive ConvGate where
  | go
  | wait
  | refuse (code a : Nat)
  | region (a : Nat)
deriving DecidableEq, Repr

/-- The record that operation `idx` of core c finds at a: a replay finds it as the operation found it first, whatever the record
has become (R66, R369). -/
def seenRec (s : State) (c idx a : Nat) : Option Bytes :=
  ((coreOf s c).seenLeft.find? fun e => e.idx == idx && e.addr == a).map (·.data)

/-- Operation `idx` of core c has found the record b at a. -/
def noteSeen (c idx a : Nat) (b : Bytes) (s : State) : State :=
  updCore c (fun x => { x with
    seen := x.seen ++ [⟨idx, a, b⟩], seenLeft := x.seenLeft.eraseP fun e => e.idx == idx && e.addr == a }) s

/-- The checks of a conversion in a kernel of panel p (R52, R58, R60). A replayed one passed them before. -/
def convGate (s : State) (p c : Nat) (x : Core) (idx : Nat) (foot : Bool) (d : ConvDesc) (rows len : Nat) : ConvGate :=
  if !convAccepted foot d || !convShapeOk d rows len then .refuse 0x2202 (convParam d)
  else if d.recAddr = 0 || (seenRec s c idx d.recAddr).isSome then .go
  else if d.recAddr % 64 ≠ 0 then .refuse 0x2204 d.recAddr
  else if !grants s p false d.recAddr 320 || !grants s p true d.recAddr 320 then .region d.recAddr
  else if !scaleRecOk s d.recAddr (recLength s p d.recAddr) then .refuse 0x2204 d.recAddr
  else if d.source = 3 && (scaleRec s d.recAddr).step < x.step.toNat then .wait
  else .go

/-- The conversion is for an older step than its record's (R60). -/
def staleConv (x : Core) (d : ConvDesc) (r : ScaleRec) : Bool := d.recAddr ≠ 0 && x.step.toNat < r.step

/-- Rows of free values, of the shape of `v`. -/
def openRows (v : List (List Word32)) (s : State) : List (List Word32) :=
  v.mapIdx fun i row => row.mapIdx fun j _ => openWord 1 (i * 2 ^ 24 + j) s

/-- Carry out a conversion of `v` into the store of core c. A conversion for an older step than its record's is a host-made
error (R60): what it converts is free. -/
def convRun (c p : Nat) (x : Core) (idx : Nat) (d : ConvDesc) (v : List (List Word32)) (dst len pitch sp : Nat) (s : State) :
    State :=
  let b := (seenRec s c idx d.recAddr).getD (readBytes s d.recAddr 320)
  let r := scaleRecOf b
  let o := convert x.seed d r (if staleConv x d r then openRows v s else v) len
  let s := if staleConv x d r then taint p s else s
  let s := countConv p o.counts (convStore c x d o v dst len pitch sp s)
  if d.recAddr = 0 then s
  else
    let s := noteSeen c idx d.recAddr b s
    if isNarrow d.target then onceEffect c (contribute d.recAddr o.counts) (noteRecord p d.recAddr s) else s

/-! ### Closing a step (R61–R63) -/

/-- The record's part of the close, for effective length L; `old` is the length that the ring had until now, by which its
entries stand in order. -/
def closeRecord (step old L : Nat) (t : ScaleRec) : ScaleRec :=
  let t :=
    if bitOf t.flags 0 then
      { t with history := List.replicate L t.stepMax ++ t.history.drop L, head := 0, valid := L, h := maxMag [t.stepMax] }
    else
      let older := (List.range (min t.valid (old - 1))).map fun i => t.history.getD (recentSlot t.head old i) 0
      let n := min (t.valid + 1) L
      { t with history := t.history.set t.head t.stepMax, head := (t.head + 1) % L, valid := n
               h := maxMag ((t.stepMax :: older).take n) }
  { t with converted := 0, saturated := 0, underflowed := 0, stepMax := 0, flags := 0, step := (step + 1) % 2 ^ 32 }

/-- f > threshold for f = saturated / converted (0 when nothing was converted). -/
def aboveThreshold (sat conv : Nat) (thr : Word32) : Bool :=
  conv ≠ 0 && match f32val thr with
    | .fin _ m e => !magLe sat 0 (m * conv) e
    | _ => false

/-- Records of panel p that point to the layer record at y: those that its conversions have named, and every other valid record
that lies where the panel may write. The spec does not say how the device finds them (DESIGN CHOICE, see the log). -/
def layerRecords (s : State) (p y : Nat) : List Nat :=
  let named := ((panelOf s p).records.map (·.1)).filter fun a => readNat s (a + 24) 8 == y
  let found := ((s.mem.map (·.1)).filter fun k => k % 64 == 4).map fun k => k - 4
  named ++ found.filter fun a => !(named.any fun b => overlap a 320 b 320) && readNat s (a + 24) 8 == y &&
    grants s p true a 320 && scaleRecOk s a (recLength s p a)

/-- Close one record and remember the length now in force. -/
def closeOne (p step : Nat) (s : State) (a : Nat) : State :=
  let old := recLength s p a
  let n := readNat s (a + 5) 1
  let L := if n ≠ 0 then n else odGet s 0x2200 2
  let s := updPanel p (fun x => { x with records := x.records.map fun e => if e.1 == a then (a, L) else e }) s
  putScaleRec a (closeRecord step old L (scaleRec s a)) s

/-- R61–R63 for layer record y in a kernel of panel p at `step`. -/
def closeStep (p y step src : Nat) (s : State) : State :=
  let rs := layerRecords s p y
  let conv := (readNat s y 8 + (rs.map fun a => (scaleRec s a).converted).foldl (· + ·) 0) % 2 ^ 64
  let sat := (readNat s (y + 8) 8 + (rs.map fun a => (scaleRec s a).saturated).foldl (· + ·) 0) % 2 ^ 64
  let s := { rs.foldl (closeOne p step) s with historyLen := odGet s 0x2200 2 }
  let above := aboveThreshold sat conv (BitVec.ofNat 32 (odGet s 0x2200 3))
  let left := readNat s (y + 20) 1
  let flags := readNat s (y + 21) 1
  let force := bitOf flags 0
  let host := odGet s 0x2200 1 = 1
  let left' := if host then left else if above then odGet s 0x2200 4 else left - 1
  let fall := if host then force else (0 < left') || force
  let s := if bitOf flags 1 && !secure s p then odCount 0x2201 6 1 s else s
  let s := storeBytes y (toLe 8 0 ++ toLe 8 0 ++ toLe 4 0 ++ toLe 1 left' ++ toLe 1 (force.toNat + 2 * fall.toNat) ++
    toLe 2 0 ++ toLe 4 ((step + 1) % 2 ^ 32)) s
  if host && above then
    postPanel p 0x2201 src (readNat s (y + 28) 2 + 2 ^ 32 * step) sat s
  else s

/-- The module counter of reserved codes: only open panels count there (R69), and a replay counts no code again (R49, R66). -/
def countCodes (c p n : Nat) (s : State) : State :=
  if secure s p then s
  else if (coreOf s c).reservedSkip = 0 then odCount 0x2201 5 n (updCore c (fun x => { x with reserved := x.reserved + 1 }) s)
  else updCore c (fun x => { x with reservedSkip := x.reservedSkip - 1 }) s

/-- T2 reserved codes read: the module counter of an open panel, and the layer record that the kernel's header names
(R49, R59). -/
def countReserved (c p n : Nat) (s : State) : State :=
  if n = 0 then s else
    let s := countCodes c p n s
    match kernelOnCore s c with
    | none => s
    | some k =>
      let y := readNat s (k.header + 40) 8
      if y = 0 || !grants s p true y 32 then s
      else onceEffect c (fun s => storeBytes (y + 22) (toLe 2 (min 0xFFFF (readNat s (y + 22) 2 + n))) s) s

end Sys2Proof.Machine
end

