-- ==== Sys2Proof/Machine/Arrays.lean ====
section
/-! DEFINITION. What a LOAD, a PASS, a DRAIN and the needle operations do when they start (R21–R41, R83), the rerun of a
check mismatch (R35), and the failure of a core (R36, R367 step 1, R370, R400). -/
namespace Sys2Proof.Machine

/-- What starting an operation gives: it started (`ready` when it may retire); it went as far as rows `rowsDone` or the rows
`got` and waits to go on; it must wait; or it was refused and its kernel aborted. -/
inductive Start where
  | started (ready : Bool) (s : State)
  | partly (rowsDone : Nat) (got : List (List Word32)) (s : State)
  | hold
  | stop (s : State)
deriving DecidableEq, Repr

/-! ### A core fails -/

/-- A core that fails under Table 17.1: with a usable spare it stops until the hub remaps it (R367), or until its host says
so (R400); without one it is lost (R370). -/
def coreFail (c : Nat) (s : State) : State :=
  let x := coreOf s c
  if x.failed || x.awaitHost || x.lost then s
  else
    let src := coreBlock s c
    let a := src + 2 ^ 16 * c
    let p := ownerOfCore s c
    let post (code b : Nat) (s : State) : State := match p with
      | some p => postBoth p code src a b s
      | none => postMgmt 0xFF code src a b s
    if !(groupOf s (c / 8)).spareUsable then
      let s := post 0x1901 (tagOnCore s c + 2 ^ 32 * 1) s
      let s := match kernelOnCore s c with
        | some k => abortKernel k.kid 0x1901 s
        | none => s
      updGroup (c / 8) (fun g => { g with unusable := g.unusable ++ [g.phys.getD (c % 8) 0] })
        (updCore c (fun x => { x with lost := true, queues := [], moves := [] }) s)
    else if odGet s 0x1900 3 = 1 then
      updCore c (fun x => { x with awaitHost := true }) (post 0x1903 (tagOnCore s c) s)
    else updCore c (fun x => { x with failed := true }) s

/-! ### Operand pairs (Table 2.1) -/

/-- Class of a format: 0 T2, 1 F4, 2 F8, 3 BF16. -/
def fmtClass (f : Byte) : Option Nat :=
  match f.toNat with
  | 0x01 => some 0
  | 0x02 | 0x03 | 0x04 | 0x05 => some 1
  | 0x08 | 0x09 | 0x0A | 0x0B | 0x0C => some 2
  | 0x10 => some 3
  | _ => none

/-- K per pass, and the m that a COLUMN output row widens by. -/
def pairShape (sf tf : Byte) : Option (Nat × Nat) :=
  match fmtClass sf, fmtClass tf with
  | some 0, some 1 => some (512, 4)
  | some 0, some 2 => some (256, 2)
  | some 1, some 1 => some (256, 2)
  | some 1, some 2 => some (128, 1)
  | some 2, some 1 => some (128, 1)
  | some 2, some 2 => some (128, 1)
  | some 3, some 3 => some (128, 1)
  | _, _ => none

/-- Bytes of one streamed row of n elements: elements, then scale bytes, then gusset bytes (R83). -/
def rowBytes (f : Byte) (n : Nat) : Nat :=
  codeBytes f n + (if hasScale f then (n + 31) / 32 else 0) + (if f = 0x03 then (n + 31) / 32 else 0)

def arrOf (x : Core) (n : Nat) : Arr := sget {} x.arrays n
def setArr (n : Nat) (a : Arr) (x : Core) : Core := { x with arrays := sset {} x.arrays n a }
def updArr (c n : Nat) (f : Arr → Arr) (s : State) : State := updCore c (fun x => setArr n (f (arrOf x n)) x) s

/-- The arrays of a target (Table 4.6). -/
def targetArrays (t : Nat) : List Nat := (List.range ((targetWidth t).getD 0)).map (targetFirst t + ·)

/-! ### LOAD -/

/-- Is a load square: in each K-block the scale, and each gusset, equal across every aligned group of 32 columns (R25). -/
def loadSquare (k : Nat) (scales gussets : Bytes) : Bool :=
  let same (b : Bytes) : Bool := (List.range (k / 32)).all fun i => (List.range 4).all fun g =>
    let l := (b.drop (128 * i + 32 * g)).take 32
    l.all (· == l.headD 0)
  same scales && same gussets

/-- The stationary operand as it stands in the store. -/
def readLoad (s : State) (c : Nat) (sf tf : Byte) (k elem stride scale : Nat) : Buffer :=
  let n := if hasScale sf then 4 * k else 0
  let sc := storeRead s c scale n
  let gu := if sf = 0x03 then storeRead s c (scale + n) n else []
  { loaded := true, sfmt := sf, tfmt := tf, rows := k,
    elems := (List.range k).flatMap fun i => storeRead s c (elem + i * stride) (codeBytes sf 128)
    scales := sc, gussets := gu, square := loadSquare k sc gu, src := elem, stride := stride, scaleSrc := scale }

/-- T2 reserved codes of a load (R49). -/
def reservedCodes (sf : Byte) (b : Bytes) : Nat :=
  if sf = 0x01 then ((unpackCodes 0x01 (4 * b.length) b).filter (· == 3)).length else 0

/-- LOAD: writes the inactive buffer of every array of its target (R22, R83). -/
def startLoad (c p : Nat) (x : Core) (f : LoadF) (s : State) : Start :=
  match pairShape f.sfmt f.tfmt with
  | none => .stop (coreFault c 0x2102 (arrayBlock s c (targetFirst f.target.toNat)) (f.sfmt.toNat + 256 * f.tfmt.toNat)
      (tagOnCore s c) s)
  | some (k, _) =>
    let elem := caAddr x f.elem
    let scale := caAddr x f.scale
    let stride := 8 * f.stride.toNat
    let n := (if hasScale f.sfmt then 4 * k else 0) + (if f.sfmt = 0x03 then 4 * k else 0)
    match badOperand [strided elem k stride (codeBytes f.sfmt 128), (scale, n)] with
    | some a => .stop (coreAbort c 0x2302 a s)
    | none =>
      let b := readLoad s c f.sfmt f.tfmt k elem stride scale
      let put (a : Arr) : Arr := if a.active then { a with buf0 := b } else { a with buf1 := b }
      let s := (targetArrays f.target.toNat).foldl (fun s n => updArr c n put s) s
      .started true (countReserved c p (reservedCodes f.sfmt b.elems) s)

/-! ### Order on bank rows (R28, R30, R31, R40) -/

/-- Arrays that a target's rows are spread over, at least 1. -/
def gangOf (t : Nat) : Nat := max (targetArrays t).length 1

/-- Array and bank row of streamed row r of a target at a bank base (R32). -/
def rowPlace (t base r : Nat) : Nat × Nat := ((targetArrays t).getD (r % gangOf t) 0, base + r / gangOf t)

/-- The streamed row of a target at a bank base that bank row b of array n holds, if it is one of `m` rows. -/
def rowAt (t base m n b : Nat) : Option Nat :=
  (List.range m).find? fun r => rowPlace t base r == (n, b)

def rowInfo (x : Core) (n b : Nat) : RowInfo := sget {} (arrOf x n).rows b

/-- Operations that were dispatched before number `seq` and have not started, or have more rows to go. -/
def waitingBefore (x : Core) (seq : Nat) : List QEntry :=
  (x.queues.flatMap (·.2.entries)).filter fun e => !e.started && e.seq < seq

/-- Held rows that a needle operation works on: those of the last NHOLD still waiting before it, or those in the buffer. -/
def heldRowsAt (x : Core) (seq : Nat) : Nat :=
  ((waitingBefore x seq).filterMap fun e => match e.cmd with
    | .nhold _ _ f => some (f.rows1.toNat + 1)
    | _ => none).getLastD x.held.rows

/-- A row suppressed by a check mismatch whose rerun has not landed it (R35). -/
def suppressed (x : Core) (n b : Nat) : Bool :=
  (List.range 4).any fun a => (arrOf x a).held.any fun h =>
    h.rows.any fun r => rowPlace h.f.target.toNat h.f.base.toNat r == (n, b)

/-- Has this waiting operation bank row b of array n still to write. The needle's add to a FUSE row comes after the row's LAST
write, so it is none of the writes that a pass waits for before that. -/
def stillWrites (x : Core) (n b : Nat) (e : QEntry) : Bool :=
  match e.cmd with
  | .pass _ _ f _ =>
    match rowAt f.target.toNat f.base.toNat (f.rows1.toNat + 1) n b with
    | some r => e.rowsDone ≤ r
    | none => false
  | .nstream _ _ f _ => f.array.toNat == n && f.base.toNat ≤ b && b < f.base.toNat + heldRowsAt x e.seq
  | .ngraft2 _ _ f _ => f.array.toNat == n && f.base.toNat ≤ b && b < f.base.toNat + heldRowsAt x e.seq && (rowInfo x n b).fuse
  | _ => false

/-- Is a write of bank row b of array n outstanding that was dispatched before number `seq` (R28, R35, R40). -/
def unwritten (x : Core) (seq n b : Nat) : Bool :=
  suppressed x n b || (waitingBefore x seq).any (stillWrites x n b)

/-- Has a drain that was dispatched before number `seq` bank row b of array n still to read (R30 item 3). -/
def undrained (x : Core) (seq n b : Nat) : Bool :=
  (waitingBefore x seq).any fun e => match e.cmd with
    | .drain _ _ f =>
      match rowAt f.target.toNat f.base.toNat (f.rows1.toNat + 1) n b with
      | some r => e.got.length ≤ r
      | none => false
    | _ => false

/-- May the operation of number `seq` not yet write bank row b of array n: an earlier write is outstanding, or a drain of what
the row holds as final, or will hold after the needle's add. -/
def rowBlocked (x : Core) (seq n b : Nat) : Bool :=
  unwritten x seq n b || (((rowInfo x n b).final || (rowInfo x n b).fuse) && undrained x seq n b)

/-! ### PASS -/

/-- The active buffer. -/
def activeBuf (a : Arr) : Buffer := if a.active then a.buf1 else a.buf0

/-- Element codes of a buffer, row by row. -/
def bufRows (b : Buffer) : List (List Nat) :=
  (List.range b.rows).map fun k => unpackCodes b.sfmt 128 ((b.elems.drop (k * codeBytes b.sfmt 128)).take (codeBytes b.sfmt 128))

/-- Stationary block b of column j, for a ROW pass. -/
def statBlock (u : Buffer) (rows : List (List Nat)) (b j : Nat) : Block :=
  { fmt := u.sfmt, scale := if hasScale u.sfmt then u.scales.getD (128 * b + j) 0 else 127,
    gusset := u.gussets.getD (128 * b + j) 0,
    codes := (List.range 32).map fun i => (rows.getD (32 * b + i) []).getD j 0 }

/-- Stationary block of row k over columns 32g to 32g + 31, for a COLUMN pass; its one gusset serves all four sub-blocks. -/
def statBlockT (u : Buffer) (rows : List (List Nat)) (k g : Nat) : Block :=
  let i := 128 * (k / 32) + 32 * g
  { fmt := u.sfmt, scale := if hasScale u.sfmt then u.scales.getD i 0 else 127,
    gusset := BitVec.ofNat 8 (85 * gussetOf (u.gussets.getD i 0) (k % 32 / 8)),
    codes := (List.range 32).map fun j => (rows.getD k []).getD (32 * g + j) 0 }

/-- Block b of a streamed row of n elements. -/
def streamBlock (f : Byte) (n : Nat) (row : Bytes) (b : Nat) : Block :=
  let e := codeBytes f n
  { fmt := f, scale := if hasScale f then row.getD (e + b) 0 else 127,
    gusset := if f = 0x03 then row.getD (e + (n + 31) / 32 + b) 0 else 0,
    codes := (List.range 32).map fun i => (unpackCodes f n (row.take e)).getD (32 * b + i) 0 }

/-- Block sums added in ascending order of reduction index (R28), with the number of NaN blocks. -/
def accumBlocks (acc : Word32) : List (Block × Block) → Word32 × Nat
  | [] => (acc, 0)
  | (a, b) :: l =>
    let r := accumBlocks (accumulate acc (blockValue a b)) l
    (r.1, r.2 + (blockNan a b).toNat)

/-- One output row of a pass: entries 0 to w − 1 from the entries `old`, and its NaN blocks. -/
def passRow (u : Buffer) (f : PassF) (k m : Nat) (row : Bytes) (old : Nat → Word32) : List (Word32 × Nat) :=
  let rows := bufRows u
  if f.column then
    let sb := (List.range 4).map (streamBlock f.tfmt 128 row)
    (List.range (128 * m)).map fun o => accumBlocks (old o)
      ((List.range 4).map fun g => (statBlockT u rows o g, sb.getD g ⟨0, 0, 0, []⟩))
  else
    let sb := (List.range (k / 32)).map (streamBlock f.tfmt k row)
    (List.range 128).map fun j => accumBlocks (old j)
      ((List.range (k / 32)).map fun b => (statBlock u rows b j, sb.getD b ⟨0, 0, 0, []⟩))

/-- Store entries from index i. -/
def putEntries (i : Nat) : List Word32 → Sparse Word32 → Sparse Word32
  | [], b => b
  | w :: ws, b => putEntries (i + 1) ws (sset 0 b i w)

/-- Run streamed row r of a pass in array n of core c: bank entries and what the foot knows of the row. -/
def runRow (c p n : Nat) (u : Buffer) (f : PassF) (src k m r g : Nat) (s : State) : State :=
  let len := if f.column then 128 else k
  let w := if f.column then 128 * m else 128
  let row := storeRead s c (src + r * (8 * f.stride.toNat)) (rowBytes f.tfmt len)
  let br := f.base.toNat + r / g
  let bank := (arrOf (coreOf s c) n).bank
  let out := passRow u f k m row (fun j => if f.start then 0 else sget 0 bank (br * w + j))
  let nans := out.foldl (fun a e => a + e.2) 0
  let s := if secure s p then s else odCount 0x2201 4 nans s
  updArr c n (fun a => { a with
    bank := putEntries (br * w) (out.map (·.1)) a.bank
    rows := sset {} a.rows br { width := w, final := f.last && !f.fuse, fuse := f.last && f.fuse }
    before := { row := br, info := sget {} a.rows br, first := br * w,
                entries := (List.range w).map fun j => sget 0 bank (br * w + j) } :: a.before }) s

/-- Run a list of rows of a pass over the arrays of its target. -/
def runRows (c p : Nat) (us : List (Nat × Buffer)) (f : PassF) (src k m g : Nat) : List Nat → State → State
  | [], s => s
  | r :: rs, s =>
    let e := us.getD (r % g) (0, {})
    runRows c p us f src k m g rs (runRow c p e.1 e.2 f src k m r g s)

/-- A suppressed row is not written, and is not final before its rerun lands it (R35). -/
def suppressRow (c t base : Nat) (s : State) (r : Nat) : State :=
  updArr c (rowPlace t base r).1 (fun a =>
    { a with rows := smod {} a.rows (rowPlace t base r).2 fun i => { i with final := false, fuse := false } }) s

/-- The buffers that a pass reads: those active in its arrays, after the swap if it has still to make it. -/
def passBufs (x : Core) (f : PassF) (begun : Bool) : List (Nat × Buffer) :=
  (targetArrays f.target.toNat).map fun n =>
    let a := arrOf x n
    (n, activeBuf { a with active := if f.swap && !begun then !a.active else a.active })

/-- Why a pass is refused, lowest event code first (R413): event code, source and parameter A (R23, R25, R27, R43, R78, R83).
A buffer that no LOAD has filled holds no format pair, so no pass reads it: cause 6 of event 0x2301, as for another pair
(DESIGN CHOICE: the spec states no refusal for it). -/
def passRefusal (s : State) (c : Nat) (x : Core) (f : PassF) (idx : Nat) (us : List (Nat × Buffer)) : Option (Nat × Nat × Nat) :=
  let src := arrayBlock s c (targetFirst f.target.toNat)
  let M := f.rows1.toNat + 1
  let g := gangOf f.target.toNat
  if f.column && us.any fun u => u.2.loaded && !u.2.square then some (0x2101, src, (us.headD (0, {})).2.src)
  else match pairShape f.sfmt f.tfmt with
  | none => some (0x2102, src, f.sfmt.toNat + 256 * f.tfmt.toNat)
  | some (k, m) =>
    if (if f.column then 512 / m else 512) < f.base.toNat + (M + g - 1) / g then some (0x2103, src, f.base.toNat + M)
    else if us.any fun u => !u.2.loaded || u.2.sfmt ≠ f.sfmt || u.2.tfmt ≠ f.tfmt then
      some (0x2301, coreBlock s c, opParam idx 0x11 6)
    else (badOperand [strided (caAddr x f.src) M (8 * f.stride.toNat) (rowBytes f.tfmt (if f.column then 128 else k))]).map
      fun a => (0x2302, coreBlock s c, a)

/-- The rows of a pass that may be admitted end here: at the first whose bank row an earlier operation still has to write or to
read (R30). -/
def admitEnd (x : Core) (f : PassF) (seq from' : Nat) : Nat :=
  ((List.range (f.rows1.toNat + 1)).find? fun r =>
    let b := rowPlace f.target.toNat f.base.toNat r
    from' ≤ r && rowBlocked x seq b.1 b.2).getD (f.rows1.toNat + 1)

/-- PASS (R23–R28, R30, R32, R35). Rows are admitted in order while nothing holds their bank rows; rows that mismatch are
suppressed, and the pass waits for its rerun. -/
def startPass (c p : Nat) (x : Core) (f : PassF) (mis : List Nat) (e : QEntry) (s : State) : Start :=
  let t := f.target.toNat
  let first := targetFirst t
  let ns := targetArrays t
  let M := f.rows1.toNat + 1
  let begun := 0 < e.rowsDone
  let us := passBufs (coreOf s c) f begun
  if !(arrOf (coreOf s c) first).held.isEmpty then .hold
  else match passRefusal s c x f e.idx us with
  | some (code, src, a) => .stop (coreFault c code src a (tagOnCore s c) s)
  | none =>
    let (k, m) := (pairShape f.sfmt f.tfmt).getD (128, 1)
    let stop := admitEnd (coreOf s c) f e.seq e.rowsDone
    if stop ≤ e.rowsDone then .hold
    else
      let s := if begun then s
        else ns.foldl (fun s n => updArr c n (fun a => { a with active := if f.swap then !a.active else a.active, before := [] }) s) s
      let a := caAddr x f.src
      let rows := (List.range stop).filter (e.rowsDone ≤ ·)
      let s := runRows c p us f a k m (gangOf t) (rows.filter fun r => !mis.contains r) s
      let bad := rows.filter mis.contains
      if bad.isEmpty then (if stop = M then .started true s else .partly stop [] s)
      else
        let s := bad.foldl (suppressRow c t f.base.toNat) s
        let s := odCount 0x2101 1 bad.length (updArr c first (fun y => { y with
          held := [{ f := f, src := a, buf := (us.headD (0, {})).2, rows := bad, attempts := 1 }] }) s)
        if stop = M then .started false s else .partly stop [] s

/-- What a retired pass counts (Table 2.8, Table 5.6). -/
def countPass (f : PassF) (s : State) : State :=
  let s := odCount 0x2103 1 1 s
  if f.column then odCount 0x2401 1 1 (odCount 0x2401 2 (f.rows1.toNat + 1) s) else s

/-! ### CHECK_RERUN (R35, R36, R37) -/

/-- The pass of a queue that waits for its rerun may retire. -/
def passReady (q : Queue) : Queue :=
  { q with entries := q.entries.map fun e =>
      match e.cmd with
      | .pass .. => if e.started then { e with ready := true } else e
      | _ => e }

/-- The bank rows that the failing pass has overwritten stand as they did before it (R36). -/
def undoPass (a : Arr) : Arr :=
  a.before.foldl (fun a b => { a with
    bank := putEntries b.first b.entries a.bank, rows := sset {} a.rows b.row b.info }) { a with before := [] }

/-- The rerun of the held rows of array n: operands are read again, rows that match land, and a row that mismatches for the
`arrays.check_attempts`-th time in a row makes the mismatch persistent. A core that has stopped reruns nothing. -/
def doCheckRerun (c n : Nat) (mis : List Nat) (s : State) : State :=
  let y := coreOf s c
  match (if y.failed || y.awaitHost || y.lost then [] else (arrOf y n).held), panelOnCore s c with
  | h :: _, some p =>
    match pairShape h.f.sfmt h.f.tfmt with
    | none => s
    | some (k, m) =>
      let t := h.f.target.toNat
      let ns := targetArrays t
      let u := readLoad s c h.buf.sfmt h.buf.tfmt h.buf.rows h.buf.src h.buf.stride h.buf.scaleSrc
      let good := h.rows.filter fun r => !mis.contains r
      let bad := h.rows.filter mis.contains
      let s := odCount 0x2101 2 h.rows.length (odCount 0x2101 1 bad.length s)
      let reload (a : Arr) : Arr := if a.active then { a with buf1 := u } else { a with buf0 := u }
      let s := ns.foldl (fun s i => updArr c i reload s) s
      let s := runRows c p (ns.map fun i => (i, u)) h.f h.src k m (gangOf t) good s
      if bad.isEmpty then
        updCore c (fun x => { x with queues := smod {} x.queues n passReady })
          (updArr c n (fun a => { a with held := [] }) s)
      else
        let s := updArr c n (fun a => { a with held := [{ h with rows := bad, attempts := h.attempts + 1 }] }) s
        if odGet s 0x2100 2 ≤ h.attempts + 1 then
          coreFail c (odCount 0x2101 3 1 (ns.foldl (fun s i => updArr c i undoPass s) s))
        else s
  | _, _ => s

/-! ### DRAIN (R31, R82, R86, R96) -/

/-- May the drain of number `seq` read row r: it is final, and no earlier write of it is outstanding. -/
def drainable (x : Core) (t base seq r : Nat) : Bool :=
  let b := rowPlace t base r
  (rowInfo x b.1 b.2).final && !unwritten x seq b.1 b.2

/-- The entries of row r. -/
def drainRow (x : Core) (t base w r : Nat) : List Word32 :=
  let b := rowPlace t base r
  (List.range w).map fun j => sget 0 (arrOf x b.1).bank (b.2 * w + j)

/-- The checks of a conversion of `rows` rows of `len` values whose descriptor lies at `da`, lowest event code first (R413): its
combination and its record (R52, R58), `mixed` (parameter A of event 0x2301), its operands (R78), its record's region
(R17); then the wait of a DELAYED one (R60); then `run` goes on. -/
def convStart (c p : Nat) (x : Core) (foot : Bool) (idx da rows len : Nat) (mixed : Option Nat)
    (ext : ConvDesc → List (Nat × Nat)) (s : State) (run : ConvDesc → Start) : Start :=
  match badOperand [(da, 32)] with
  | some a => .stop (match mixed with
    | some m => coreAbort c 0x2301 m s
    | none => coreAbort c 0x2302 a s)
  | none =>
    let d := convDesc (storeRead s c da 32)
    match convGate s p c x idx foot d rows len with
    | .refuse code a => .stop (coreAbort c code a s)
    | g =>
      match mixed with
      | some m => .stop (coreAbort c 0x2301 m s)
      | none =>
        match badOperand (ext d) with
        | some a => .stop (coreAbort c 0x2302 a s)
        | none =>
          match g with
          | .region a => .stop (regionAbort c a s)
          | .wait => .hold
          | _ => run d

/-- A DRAIN that has read its rows up to `stop` of M, those of `got`: with all of them it has its effect; with no new one it waits;
else it goes on later. -/
def readOn (stop M d : Nat) (got : List (List Word32)) (s : State) (effect : State → State) : Start :=
  if stop = M then .started true (effect s) else if stop = d then .hold else .partly 0 got s

/-- The drain begins when its first row is final, which is when it can be refused. It reads each row once that is final, and
delivers when it has all of them. -/
def startDrain (c p : Nat) (x : Core) (f : DrainF) (e : QEntry) (s : State) : Start :=
  let y := coreOf s c
  let t := f.target.toNat
  let M := f.rows1.toNat + 1
  let base := f.base.toNat
  let g := gangOf t
  let src := arrayBlock s c (targetFirst t)
  let d := e.got.length
  let at' (r : Nat) : RowInfo := rowInfo y (rowPlace t base r).1 (rowPlace t base r).2
  let w := if d = 0 then (at' 0).width else (e.got.headD []).length
  let dst := caAddr x f.dst
  let pitch := 8 * f.stride.toNat
  let limit (n : Nat) : Bool := n < base + (M + g - 1) / g
  if limit 512 || (0 < d || drainable y t base e.seq 0) && limit (512 / (w / 128)) then
    .stop (coreFault c 0x2103 src (base + M) (tagOnCore s c) s)
  else if d = 0 && !drainable y t base e.seq 0 then .hold
  else
    let stop := ((List.range M).find? fun r => d ≤ r && !drainable y t base e.seq r).getD M
    let rows := (List.range stop).filter (d ≤ ·)
    let mixed := if rows.any fun r => (at' r).width ≠ w then some (opParam e.idx 0x12 7) else none
    let got := e.got ++ rows.map (drainRow y t base w)
    if f.dest = 0 then
      convStart c p x true e.idx (caAddr x f.desc) M w mixed (fun k => convExtents x k dst M w pitch pitch) s
        fun k => readOn stop M d got s (convRun c p x e.idx k got dst w pitch pitch)
    else
      match mixed with
      | some m => .stop (coreAbort c 0x2301 m s)
      | none =>
        match (if f.dest = 1 then badOperand [strided dst M pitch (4 * w)] else none) with
        | some a => .stop (coreAbort c 0x2302 a s)
        | none =>
          readOn stop M d got s fun s =>
            if f.dest = 1 then storeRows c dst pitch (got.map wordsBytes) s
            else updCore c (fun y => { y with drained := y.drained ++ [⟨M, w, got.flatten⟩] }) s

/-! ### The needle (R39–R41) -/

/-- Formats that may be held: every F4 or F8 class, and BF16. -/
def heldOk (f : Byte) : Bool :=
  match fmtClass f with
  | some k => 1 ≤ k
  | none => false

/-- Formats that may be streamed: T2 as well. -/
def needleOk (f : Byte) : Bool := (fmtClass f).isSome

/-- A needle operation that names another format is not started (R39). Parameter A holds the held format in byte 0 and the
streamed one in byte 1. The spec does not say what it holds where one of them is not there, nor the source of an operation that
names no array: NHOLD has 0 in byte 1, NGRAFT2 has 0x10 (BF16, as which h is held) in byte 0, and NHOLD and NGRAFT1 name the
core (DESIGN CHOICE); NSTREAM and NGRAFT2 name their array (R43). -/
def needleRefuse (c src : Nat) (held streamed : Byte) (s : State) : Start :=
  .stop (coreFault c 0x2102 src (held.toNat + 256 * streamed.toNat) (tagOnCore s c) s)

/-- NHOLD: fill the held-row buffer from the store. -/
def startNHold (c : Nat) (x : Core) (f : NHoldF) (s : State) : Start :=
  if !heldOk f.fmt then needleRefuse c (coreBlock s c) f.fmt 0 s
  else
    let rows := f.rows1.toNat + 1
    let len := f.len1.toNat + 1
    let a := caAddr x f.src
    let pitch := 8 * f.stride.toNat
    match badOperand [strided a rows pitch (rowBytes f.fmt len)] with
    | some b => .stop (coreAbort c 0x2302 b s)
    | none => .started true (updCore c (fun y => { y with held :=
        { fmt := f.fmt, rows := rows, len := len
          data := (List.range rows).flatMap fun r => storeRead s c (a + r * pitch) (rowBytes f.fmt len) } }) s)

/-- A streamed operand: element codes by reduction row, scale bytes and gusset bytes. -/
structure NStreamed where
  rows : List (List Nat)
  scales : Bytes
  gussets : Bytes
deriving DecidableEq, Repr

/-- Scale bytes of a streamed operand, one for each 32 reduction rows and column, and gusset bytes after them (R83). -/
def nScales (f : Byte) (K n : Nat) : Nat := if hasScale f then (K + 31) / 32 * n else 0
def nGussets (f : Byte) (K n : Nat) : Nat := if f = 0x03 then (K + 31) / 32 * n else 0

/-- Bytes of a streamed operand of K reduction rows of n elements that a channel brings: dense rows, scales, gussets. -/
def nBytes (f : Byte) (K n : Nat) : Nat := K * codeBytes f n + nScales f K n + nGussets f K n

/-- A streamed operand from its rows and from the scale and gusset bytes behind them. -/
def nParse (f : Byte) (K n : Nat) (row : Nat → Bytes) (tail : Bytes) : NStreamed :=
  { rows := (List.range K).map fun i => unpackCodes f n (row i)
    scales := tail.take (nScales f K n), gussets := (tail.drop (nScales f K n)).take (nGussets f K n) }

/-- Extents of a streamed operand in the store: its rows, and from row K's place on its scale and gusset bytes, as a LOAD's
operand has them (DESIGN CHOICE, see the log). -/
def nExtent (x : Core) (f : Byte) (K n : Nat) (src : NSrcF) : List (Nat × Nat) :=
  let a := caAddr x src.ca
  let pitch := 8 * src.stride.toNat
  if src.channel then [] else [strided a K pitch (codeBytes f n), (a + K * pitch, nScales f K n + nGussets f K n)]

/-- Take the streamed operand from the store, or from a channel once it is all there. -/
def nTake (c : Nat) (x : Core) (f : Byte) (K n : Nat) (src : NSrcF) (s : State) : Option (NStreamed × State) :=
  if src.channel then
    let ch := src.ca.toNat % 4
    let m := nBytes f K n
    let w := codeBytes f n
    let have' := sget [] (coreOf s c).chans ch
    if have'.length < m then none
    else some (nParse f K n (fun i => (have'.drop (i * w)).take w) ((have'.take m).drop (K * w)),
      updCore c (fun y => { y with chans := sset [] y.chans ch (have'.drop m) }) s)
  else
    let a := caAddr x src.ca
    let pitch := 8 * src.stride.toNat
    some (nParse f K n (fun i => storeRead s c (a + i * pitch) (codeBytes f n))
      (storeRead s c (a + K * pitch) (nScales f K n + nGussets f K n)), s)

/-- T2 reserved codes of a streamed operand (R49). -/
def nReserved (f : Byte) (d : NStreamed) : Nat :=
  if f = 0x01 then ((d.rows.flatMap id).filter (· == 3)).length else 0

/-- Block b of column j of a streamed operand. -/
def nBlock (f : Byte) (n : Nat) (d : NStreamed) (b j : Nat) : Block :=
  { fmt := f, scale := if hasScale f then d.scales.getD (b * n + j) 0 else 127, gusset := d.gussets.getD (b * n + j) 0
    codes := (List.range 32).map fun i => (d.rows.getD (32 * b + i) []).getD j 0 }

/-- Block b of held row r in a reduction of K elements. Elements of the row past the reduction are not multiplied: they enter
the reduction's last block as zero codes (DESIGN CHOICE: the spec gives no reduction that ends within a block). -/
def heldBlock (h : HeldRows) (K r b : Nat) : Block :=
  let n := rowBytes h.fmt h.len
  let k := streamBlock h.fmt h.len ((h.data.drop (r * n)).take n) b
  { k with codes := k.codes.mapIdx fun i v => if 32 * b + i < K then v else 0 }

/-- Output (r, j) of a needle operation: the block sums added to `old` in ascending order, and the NaN blocks. -/
def needleSum (hb : Nat → Nat → Block) (f : Byte) (K n : Nat) (d : NStreamed) (r j : Nat) (old : Word32) : Word32 × Nat :=
  accumBlocks old ((List.range ((K + 31) / 32)).map fun b => (hb r b, nBlock f n d b j))

/-- Add n outputs to each of `rows` bank rows from `base` on. `fin` says whether a row is then final. The needle's rows have up
to 128 columns (R40), so they lie in the bank as rows of 128 entries and have that width from then on, also where a COLUMN pass
of wider rows wrote them (DESIGN CHOICE: the spec gives no other place). -/
def needleAdd (c p arr base rows n : Nat) (fin : RowInfo → Bool) (sum : Nat → Nat → Word32 → Word32 × Nat)
    (s : State) : State :=
  (List.range rows).foldl (fun s r =>
    let bank := (arrOf (coreOf s c) arr).bank
    let out := (List.range n).map fun j => sum r j (sget 0 bank ((base + r) * 128 + j))
    let t := updArr c arr (fun a => { a with
      bank := putEntries ((base + r) * 128) (out.map (·.1)) a.bank
      rows := sset {} a.rows (base + r) { width := 128, final := fin (sget {} a.rows (base + r)), fuse := false } }) s
    if secure s p then t else odCount 0x2201 4 (out.foldl (fun a e => a + e.2) 0) t) s

/-- The residue check of a needle operation that mismatches `n` times in a row: each mismatch reruns it, until it is
persistent (R35, R36, R40). Each attempt counts one mismatch and one rerun, whatever rows it covers (DESIGN CHOICE: the counts
are of rows, and the spec does not say what a row of a needle operation is). -/
def needleCheck (c n : Nat) (go : State → State) (s : State) : Start :=
  if n = 0 then .started true (go s)
  else
    let k := odGet s 0x2100 2
    if k ≤ n then .stop (coreFail c (odCount 0x2101 3 1 (odCount 0x2101 2 (k - 1) (odCount 0x2101 1 k s))))
    else .started true (go (odCount 0x2101 2 n (odCount 0x2101 1 n s)))

/-- NSTREAM: the held rows times the streamed operand, into bank rows of one array, in the order of R28 among the passes and
drains of those rows. A reduction longer than the held rows takes zeros for what they lack, and without held rows there is no
bank row to write: neither stops the operation (DESIGN CHOICE: the spec names neither). -/
def startNStream (c p : Nat) (x : Core) (f : NStreamF) (mis : Nat) (e : QEntry) (s : State) : Start :=
  let y := coreOf s c
  let h := y.held
  let K := f.red1.toNat + 1
  let n := f.cols1.toNat + 1
  let src := arrayBlock s c f.array.toNat
  if !needleOk f.fmt then needleRefuse c src h.fmt f.fmt s
  else if 512 < f.base.toNat + h.rows then .stop (coreFault c 0x2103 src (f.base.toNat + h.rows) (tagOnCore s c) s)
  else
    match badOperand (nExtent x f.fmt K n f.src) with
    | some a => .stop (coreAbort c 0x2302 a s)
    | none =>
      if (List.range h.rows).any fun r =>
          let b := f.base.toNat + r
          unwritten y e.seq f.array.toNat b || ((rowInfo y f.array.toNat b).final && undrained y e.seq f.array.toNat b) then .hold
      else match nTake c x f.fmt K n f.src s with
      | none => .hold
      | some (d, s) => needleCheck c mis (fun s =>
          needleAdd c p f.array.toNat f.base.toNat h.rows n (fun _ => f.final)
            (fun r j old => needleSum (heldBlock h K) f.fmt K n d r j (if f.start then 0 else old))
            (countReserved c p (nReserved f.fmt d) s)) s

/-- NGRAFT1: h := X·A into the result store, 64 entries for each held row. -/
def startNGraft1 (c p : Nat) (x : Core) (f : NGraft1F) (mis : Nat) (s : State) : Start :=
  let h := (coreOf s c).held
  let K := f.red1.toNat + 1
  let n := f.rank1.toNat + 1
  if !needleOk f.fmt then needleRefuse c (coreBlock s c) h.fmt f.fmt s
  else
    match badOperand (nExtent x f.fmt K n f.src) with
    | some a => .stop (coreAbort c 0x2302 a s)
    | none =>
      match nTake c x f.fmt K n f.src s with
      | none => .hold
      | some (d, s) => needleCheck c mis (fun s =>
          let s := countReserved c p (nReserved f.fmt d) s
          let out := (List.range h.rows).flatMap fun r => (List.range n).map fun j =>
            (64 * r + j, needleSum (heldBlock h K) f.fmt K n d r j 0)
          let t := updCore c (fun y => { y with hres := out.foldl (fun m e => sset 0 m e.1 e.2.1) y.hres }) s
          if secure s p then t else odCount 0x2201 4 (out.foldl (fun a e => a + e.2.2) 0) t) s

/-- Block b of row r of the result store, rounded to BF16. -/
def graftBlock (m : Sparse Word32) (rank r b : Nat) : Block :=
  { fmt := 0x10, scale := 127, gusset := 0
    codes := (List.range 32).map fun i =>
      if 32 * b + i < rank then packIeee 8 7 .rne (f32val (sget 0 m (64 * r + 32 * b + i))) else 0 }

/-- NGRAFT2: h·B added to the FUSE rows once their LAST pass has written them, which makes them final. The rounded h is held
beside the rows of NHOLD, which stay and whose number is that of h's rows; B may have any format that the needle streams (R39),
not only the BF16 and F8 that R41 names (DESIGN CHOICE, both). -/
def startNGraft2 (c p : Nat) (x : Core) (f : NGraft2F) (mis : Nat) (e : QEntry) (s : State) : Start :=
  let y := coreOf s c
  let h := y.held
  let K := f.rank1.toNat + 1
  let n := f.cols1.toNat + 1
  let src := arrayBlock s c f.array.toNat
  if !needleOk f.fmt then needleRefuse c src 0x10 f.fmt s
  else if 512 < f.base.toNat + h.rows then .stop (coreFault c 0x2103 src (f.base.toNat + h.rows) (tagOnCore s c) s)
  else
    match badOperand (nExtent x f.fmt K n f.src) with
    | some a => .stop (coreAbort c 0x2302 a s)
    | none =>
      if (List.range h.rows).any fun r =>
          let b := f.base.toNat + r
          !(rowInfo y f.array.toNat b).fuse || unwritten y e.seq f.array.toNat b then .hold
      else match nTake c x f.fmt K n f.src s with
      | none => .hold
      | some (d, s) => needleCheck c mis (fun s =>
          needleAdd c p f.array.toNat f.base.toNat h.rows n (fun _ => true)
            (fun r j old => needleSum (graftBlock y.hres K) f.fmt K n d r j old)
            (countReserved c p (nReserved f.fmt d) s)) s

end Sys2Proof.Machine
end

