-- ==== Sys2Proof/Machine/Net.lean ====
section
/-! DEFINITION. The sending side of Ashlinks and queue pairs: links by number, routes in the torus (R252–R255, R372), flits
and credits (R247–R250), Ethernet selection (R259), the transport's sending window (R274, R276, R277, R281) and the
packets that the device makes itself (R279, R280, R284). -/
namespace Sys2Proof.Machine

/-! ### Links -/

def linkOf (s : State) (l : Nat) : Link := sget {} s.links l
def updLink (l : Nat) (f : Link → Link) (s : State) : State := { s with links := smod {} s.links l f }

/-- Raise the counter at byte offset `o` of Table 11.10. -/
def linkCount (l o n : Nat) (s : State) : State :=
  if n = 0 then s else updLink l (fun x => { x with ctr := sset 0 x.ctr o ((sget 0 x.ctr o + n) % 2 ^ 64) }) s

def linkEmit (l : Nat) (x : LinkOut) (s : State) : State := updLink l (fun k => { k with out := k.out ++ [x] }) s

def native (s : State) : Bool := odGet s 0x3100 1 == 0

/-- Size of dimension i of the torus (R252). -/
def torusDim (s : State) (i : Nat) : Nat := odGet s 0x3100 2 / 256 ^ i % 256

/-- Weight of dimension i in a fabric ID. -/
def torusStride (s : State) (i : Nat) : Nat :=
  if i = 0 then 1 else if i = 1 then torusDim s 0 else torusDim s 0 * torusDim s 1

/-- Coordinate of fabric ID f in dimension i. -/
def coord (s : State) (i f : Nat) : Nat := f / torusStride s i % max (torusDim s i) 1

/-- The fabric ID one step from f in direction d (Table 11.6). -/
def neighbour (s : State) (f d : Nat) : Nat :=
  let i := d / 2
  let k := max (torusDim s i) 1
  let c := coord s i f
  f - c * torusStride s i + ((c + (if d % 2 = 0 then 1 else k - 1)) % k) * torusStride s i

/-- Is the link disabled (R246): by `ashlink.enable`, or for want of a direction. -/
def linkDisabled (s : State) (l : Nat) : Bool :=
  odGet s 0x3101 (l + 1) == 0 || (native s && torusDim s (l % 6 / 2) ≤ 1)

/-- May the link carry a packet: the management class also runs in QUARANTINE. -/
def linkUp (s : State) (mgmt : Bool) (l : Nat) : Bool :=
  (linkOf s l).st = .up || (mgmt && (linkOf s l).st = .quarantine)

def dirUp (s : State) (mgmt : Bool) (d : Nat) : Bool := (List.range 4).any fun t => linkUp s mgmt (6 * t + d)

/-! ### Routes (R253, R372) -/

/-- The direction of the shorter way in dimension i; a tie goes to +. -/
def shorter (s : State) (i own dst : Nat) : Nat :=
  let k := max (torusDim s i) 1
  let δ := (coord s i dst + k - coord s i own) % k
  if δ ≤ k - δ then 2 * i else 2 * i + 1

/-- Direction of the next hop by dimension order, with whether it is a detour: the first unresolved dimension with a usable
direction. A packet that arrived in a dimension goes on the way it came. -/
def orderedDir (s : State) (mgmt : Bool) (own dst : Nat) (arrived : Option Nat) : Option (Nat × Bool) :=
  (List.range 3).findSome? fun i =>
    if coord s i own = coord s i dst then none
    else
      let d0 := shorter s i own dst
      let d := match arrived with
        | some a => if a / 2 = i then (if a % 2 = 0 then a + 1 else a - 1) else d0
        | none => d0
      let opp := if d % 2 = 0 then d + 1 else d - 1
      if dirUp s mgmt d then some (d, d != d0)
      else if dirUp s mgmt opp then some (opp, true)
      else none

/-- Sub-class of a hop in direction d for a packet from `src` (R253): 1 once the dateline is crossed or the hop detours. -/
def subClass (s : State) (own src d : Nat) (detour : Bool) : Nat :=
  let i := d / 2
  let k := max (torusDim s i) 1
  let c := coord s i own
  let c0 := coord s i src
  if detour || (d % 2 = 0 && (c + 1 = k || c < c0)) || (d % 2 = 1 && (c = 0 || c0 < c)) then 1 else 0

/-- The link of direction d on tile t, or the next one up in cyclic tile order. -/
def tileLink (s : State) (mgmt : Bool) (d t : Nat) : Option Nat :=
  ((List.range 4).map fun i => 6 * ((t + i) % 4) + d).find? (linkUp s mgmt)

/-- The lowest link of direction d that carries management. -/
def lowLink (s : State) (d : Nat) : Option Nat := ((List.range 4).map fun t => 6 * t + d).find? (linkUp s true)

/-! ### Packets on the wire (R251, R257) -/

/-- The 32 header bytes (Table 11.5). -/
def hdrBytes (h : PktHdr) : Bytes :=
  toLe 1 (h.ver.toNat + 16 * h.cls.toNat) ++ toLe 1 h.op.toNat ++
  toLe 1 (h.first.toNat + 2 * h.last.toNat + 4 * h.trail.toNat + 8 * h.enc.toNat + 16 * h.ece.toNat) ++
  toLe 1 (h.keySlot.toNat + 16 * h.panel.toNat) ++ toLe 1 h.dstFab.toNat ++ toLe 1 h.srcFab.toNat ++
  toLe 2 h.dstQp.toNat ++ toLe 2 h.srcQp.toNat ++ toLe 2 h.len.toNat ++ toLe 4 h.psn.toNat ++ toLe 4 h.msg.toNat ++
  toLe 4 h.off.toNat ++ toLe 8 h.nonce.toNat

/-- Zeros to a multiple of 16 bytes. -/
def pad16 (b : Bytes) : Bytes := padTo ((b.length + 15) / 16 * 16) b

/-- A packet on a native link: header, payload and tag, CRC-32, zeros. -/
def wireBytes (p : Packet) : Bytes :=
  let b := hdrBytes p.hdr ++ p.payload ++ p.tag
  pad16 (b ++ toLe 4 (crc32 b).toNat)

/-- The same when only its first k bytes were ready: zeros for the rest, zeros for a tag, and the inverse of the CRC-32 of those
bytes (R257). -/
def stompedBytes (p : Packet) (k : Nat) : Bytes :=
  let b := padTo (32 + p.payload.length) ((hdrBytes p.hdr ++ p.payload).take k) ++ List.replicate p.tag.length 0
  pad16 (b ++ toLe 4 (~~~(crc32 b)).toNat)

/-- Length of a packet on a native link, and its flits. -/
def wireLen (p : Packet) : Nat := (32 + p.payload.length + p.tag.length + 4 + 15) / 16 * 16
def flitsOf (p : Packet) : Nat := (wireLen p + 239) / 240

/-- The bytes of a piece. -/
def Piece.bytes (x : Piece) : Bytes :=
  (((match x.stomp with
    | some k => stompedBytes x.pkt k
    | none => wireBytes x.pkt).drop x.start).take x.len)

/-! ### Flits and credits (R247–R250) -/

/-- A link-control message from byte 8 of its flit on (R247). -/
def ctlBytes (m : LinkCtl) : Bytes :=
  match m with
  | .ident m => [1] ++ toLe 1 m.fabric.toNat ++ toLe 1 m.link.toNat ++ toLe 1 m.unassigned.toNat ++ toLe 4 0 ++ padTo 32 m.digest
  | .speedReq t => [2] ++ toLe 1 t.toNat
  | .speedAck t q => [3] ++ toLe 1 t.toNat ++ toLe 2 q.toNat
  | .speedRefuse t => [4] ++ toLe 1 t.toNat
  | .retrain => [5]

/-- The link header (Table 11.3) with an ACK value. -/
def flitHeader (f : Flit) (ack : BitVec 12) : Nat :=
  f.seq.toNat * 2 ^ 52 + ack.toNat * 2 ^ 40 + f.type * 2 ^ 38 + f.cvc * 2 ^ 36 + f.cpanel * 2 ^ 32 + f.ccount * 2 ^ 24 +
    f.vc * 2 ^ 22 + f.panel * 2 ^ 18 + f.start * 2 ^ 14 + f.sub * 2 ^ 13

/-- The 256 bytes of a flit. -/
def flitBytes (f : Flit) (ack : BitVec 12) : Bytes :=
  let body := match f.msg with
    | some m => ctlBytes m
    | none => f.parts.flatMap Piece.bytes
  let b := toLe 8 (flitHeader f ack) ++ padTo 240 body
  b ++ toLe 8 (crc64 b).toNat

/-- Buffer in flits of one sub-class of a channel, and flits reserved per 64th (Table 11.4). -/
def vcBuffer (vc : Nat) : Nat := if vc = 0 then 256 else if vc = 1 then 384 else if vc = 2 then 48 else 16
def vcReserve (vc : Nat) : Nat := if vc = 0 then 4 else if vc = 1 then 6 else 0

def chanKey (vc sub panel : Nat) : Nat := (vc * 2 + sub) * 16 + panel

/-- Flits that panel p may still send in a sub-class (R250). -/
def mayFlits (s : State) (l vc sub panel : Nat) : Nat :=
  let x := linkOf s l
  let resv (q : Nat) : Nat := vcReserve vc * odGet s (panelIdx q 0) 6
  let own (q : Nat) : Nat := sget 0 x.inFlight (chanKey vc sub q)
  let beyond := (List.range 16).foldl (fun n q => n + (own q - resv q)) 0
  let total := (List.range 16).foldl (fun n q => n + resv q) 0
  (resv panel - own panel) + ((vcBuffer vc - total) - beyond)

/-- A flit takes credits of one channel and panel from those that the link owes, at most 255; the next flit takes what is left
(R249). -/
def creditFlit (x : Link) (f : Flit) : Flit × Link :=
  match x.owed.find? (·.2 ≠ 0) with
  | none => (f, x)
  | some (k, n) =>
    ({ f with cvc := k / 16, cpanel := k % 16, ccount := min n 255 }, { x with owed := sset 0 x.owed k (n - min n 255) })

/-- A flit leaves. Its ACK names the last flit received good and in order. -/
def emitFlit (l : Nat) (f : Flit) (s : State) : State :=
  linkCount l 0 1 (linkEmit l (.flit f ((linkOf s l).rxExpect - 1)) s)

/-- A DATA or LINKCTL flit takes the next number and stays in the replay buffer, its credits with it. -/
def sendNumbered (l : Nat) (f : Flit) (s : State) : State :=
  let r := creditFlit (linkOf s l) { f with seq := (linkOf s l).txSeq }
  emitFlit l r.1 (updLink l (fun _ => { r.2 with txSeq := r.2.txSeq + 1, replay := r.2.replay ++ [r.1] }) s)

/-- An IDLE (1) or NAK (2) flit: it shows the next number to be sent. -/
def sendPlainFlit (l type : Nat) (s : State) : State :=
  let r := creditFlit (linkOf s l) { type := type, seq := (linkOf s l).txSeq }
  emitFlit l r.1 (updLink l (fun _ => r.2) s)

/-- Pieces that one flit takes from the packets of a stream (channel, sub-class, panel) in order, `room` bytes at most: the pieces,
the packets that end, and what still waits. -/
def fillFlit (key : Nat × Nat × Nat) : Nat → List LinkWait → List Piece × List LinkWait × List LinkWait
  | _, [] => ([], [], [])
  | room, w :: ws =>
    if room = 0 || (w.vc, w.sub, w.pkt.hdr.panel.toNat) ≠ key then
      let r := fillFlit key room ws
      (r.1, r.2.1, w :: r.2.2)
    else
      let left := wireLen w.pkt - w.sent
      let n := min left room
      let piece : Piece := ⟨w.pkt, w.id, w.sent, n, w.stomp⟩
      let r := fillFlit key (room - n) ws
      if n = left then (piece :: r.1, { w with sent := 0 } :: r.2.1, r.2.2)
      else (piece :: r.1, r.2.1, { w with sent := w.sent + n } :: r.2.2)

/-- START: the 16-byte unit at which the first packet that starts in the flit begins, 15 for none. -/
def startUnit : Nat → List Piece → Nat
  | _, [] => 15
  | n, x :: xs => if x.start = 0 then n / 16 else startUnit (n + x.len) xs

/-- Packets have been sent whole: counters (Table 11.10), the cut-through count, and the last one of them. -/
def sentWhole (l : Nat) (ends : List LinkWait) (s : State) : State :=
  linkCount l 16 (ends.foldl (fun n w => n + w.pkt.payload.length) 0)
    (updLink l (fun x => { x with
      ctPackets := x.ctPackets + ends.length, last := match ends.getLast? with | some w => some w | none => x.last }) s)

/-- Send the next flit of a stream. -/
def sendStream (l : Nat) (key : Nat × Nat × Nat) (s : State) : State :=
  let r := fillFlit key 240 (linkOf s l).backlog
  let k := chanKey key.1 key.2.1 key.2.2
  let s := updLink l (fun x => { x with backlog := r.2.2, inFlight := sset 0 x.inFlight k (sget 0 x.inFlight k + 1) }) s
  sentWhole l r.2.1 (sendNumbered l
    { type := 0, seq := 0, vc := key.1, panel := key.2.2, start := startUnit 0 r.1, sub := key.2.1, parts := r.1, ends := r.2.1 } s)

/-! ### Ethernet frames (R258–R260) -/

/-- Own MAC and IPv6 address of link l. -/
def linkMac (l : Nat) : BitVec 48 := Config.baseMac + BitVec.ofNat 48 l
def ifaceAddr (s : State) (f l : Nat) : BitVec 128 :=
  BitVec.ofNat 128 (odGet s 0x3100 0xB * 2 ^ 64 + 0x4D51_0000_0000_0000 + f * 256 + l)
def linkAddr (s : State) (l : Nat) : BitVec 128 := ifaceAddr s (fabricId s) l

/-- The PFC class of a channel: 0 data, 1 control. -/
def pfcClass (vc : Nat) : Nat := if vc < 2 then 0 else 1

/-- Priority of a class: 0 data, 1 control. -/
def pcpOf (s : State) (cls : Nat) : Nat := if cls = 0 then odGet s 0x3100 0xD else odGet s 0x3100 0xE

/-- The 802.1Q tag that every frame of the module carries. -/
def vlanTag (s : State) (cls : Nat) : Bytes := beBytes 2 0x8100 ++ beBytes 2 (pcpOf s cls * 2 ^ 13 + odGet s 0x3100 0xC % 2 ^ 12)

/-- The Internet checksum of UDP over 16-bit words; a sum of 0 is sent as 0xFFFF (RFC 768). -/
def udpSum (b : Bytes) : Nat :=
  let t := ((pieces 2 (b.length / 2 + 1) (padTo ((b.length + 1) / 2 * 2) b)).map beNat).foldl (· + ·) 0
  let t := t % 2 ^ 16 + t / 2 ^ 16
  let t := t % 2 ^ 16 + t / 2 ^ 16
  if t = 0xFFFF then 0xFFFF else 0xFFFF - t

/-- UDP source port of a packet (Table 11.8). -/
def udpSource (p : Packet) : Nat :=
  0xC000 + (if p.hdr.cls = 1 then (p.hdr.srcQp.toNat + p.hdr.off.toNat / 4096) % 16384 else p.hdr.srcQp.toNat)

/-- The frame of a packet on link l (Table 11.8) without its FCS. Multi-byte fields of the standards' headers stand most significant
byte first (PRESUMED: the standards' order). -/
def frameBody (s : State) (l : Nat) (p : Packet) : Bytes :=
  let data := hdrBytes p.hdr ++ p.payload ++ p.tag
  let n := 8 + data.length
  let src := beBytes 16 (linkAddr s l).toNat
  let dst := beBytes 16 (ifaceAddr s p.hdr.dstFab.toNat l).toNat
  let ports := beBytes 2 (udpSource p) ++ beBytes 2 (odGet s 0x3100 0xA) ++ beBytes 2 n
  let sum := udpSum (src ++ dst ++ beBytes 4 n ++ beBytes 4 17 ++ ports ++ [0, 0] ++ data)
  beBytes 6 (odGet s 0x3102 (l + 1) % 2 ^ 48) ++ beBytes 6 (linkMac l).toNat ++ vlanTag s (pfcClass p.hdr.cls.toNat) ++
    beBytes 2 0x86DD ++ beBytes 4 (6 * 2 ^ 28 + 2 * 2 ^ 20) ++ beBytes 2 n ++ [17, 64] ++ src ++ dst ++
    ports ++ beBytes 2 sum ++ data

/-- A frame that ran dry after k bytes of its body ends there with the inverse of its FCS (R257). -/
def cutFrame (b : Bytes) (k : Nat) : Bytes := b.take k ++ toLe 4 (~~~(crc32 (b.take k))).toNat

/-- Send one packet of an Ethernet link. -/
def sendFrame (l : Nat) (w : LinkWait) (s : State) : State :=
  sentWhole l [w] (linkCount l 0 1 (linkEmit l (.frame (frameBytes (frameBody s l w.pkt))) s))

/-- Does the digest table quarantine a fabric ID in Ethernet mode (R264). -/
def ethBlocked (s : State) (f : Nat) : Bool := (sget [] s.digests f).headD 0 == 2

/-! ### What a link may send -/

/-- May a packet leave now, but for credits and PFC: every class on a link that is UP, management in QUARANTINE too, and in Ethernet
mode only management to a quarantined device. -/
def mayLeave (s : State) (l : Nat) (w : LinkWait) : Bool :=
  linkUp s (w.vc == 3) l && (native s || w.vc == 3 || !ethBlocked s w.pkt.hdr.dstFab.toNat)

/-- Is the stream of a packet held: for want of a credit (native), or by PFC. -/
def heldBack (s : State) (l : Nat) (w : LinkWait) : Bool :=
  if native s then mayFlits s l w.vc w.sub w.pkt.hdr.panel.toNat = 0 else sget 0 (linkOf s l).paused (pfcClass w.vc) ≠ 0

/-- A ready flit waits for a credit or PFC from now on, or no longer: the ns it waited are counted (Table 11.10). -/
def noteWait (l : Nat) (held : Bool) (s : State) : State :=
  match (linkOf s l).waitSince, held with
  | none, true => updLink l (fun x => { x with waitSince := some s.time }) s
  | some t, false => linkCount l 112 (s.time - t) (updLink l (fun x => { x with waitSince := none }) s)
  | _, _ => s

/-- Numbered flits may leave: fewer than 1,024 are unacknowledged, and no speed change that this end asked for is under way (R248,
R256). -/
def mayNumber (x : Link) : Bool := x.replay.length < 1024 && x.speedAsked.isNone

/-- Send what the link may send now, flit by flit or frame by frame, the first packet first; a stream that is held lets others pass. -/
def drainLink (l : Nat) : Nat → State → State
  | 0, s => s
  | fuel + 1, s =>
    let x := linkOf s l
    match x.backlog.find? fun w => mayLeave s l w && !heldBack s l w with
    | none => noteWait l (x.backlog.any fun w => mayLeave s l w) s
    | some w =>
      if !native s then
        drainLink l fuel (sendFrame l w (updLink l (fun x => { x with backlog := x.backlog.erase w }) s))
      else if mayNumber x then drainLink l fuel (sendStream l (w.vc, w.sub, w.pkt.hdr.panel.toNat) s)
      else s

/-- Link-control messages that waited for room in the replay buffer. -/
def drainCtl (l : Nat) : Nat → State → State
  | 0, s => s
  | fuel + 1, s =>
    match (linkOf s l).ctlWait with
    | [] => s
    | m :: ms =>
      if (linkOf s l).replay.length < 1024 then
        drainCtl l fuel (sendNumbered l { type := 3, seq := 0, msg := some m } (updLink l (fun x => { x with ctlWait := ms }) s))
      else s

/-- Does the link carry flits or frames at all. -/
def linkRuns (x : Link) : Bool := x.st = .config || x.st = .up || x.st = .quarantine

def pumpLink (l : Nat) (s : State) : State :=
  if !linkRuns (linkOf s l) then s
  else
    let s := drainCtl l (linkOf s l).ctlWait.length s
    drainLink l ((linkOf s l).backlog.foldl (fun n w => n + flitsOf w.pkt) 1) s

/-- A packet waits at a link, under the number that the link gives it. -/
def waitOn (l : Nat) (p : Packet) (vc sub src : Nat) (s : State) : State :=
  updLink l (fun x => { x with
    backlog := x.backlog ++ [{ pkt := p, vc := vc, sub := sub, src := src, id := x.packets }], packets := x.packets + 1 }) s

def queueOn (l : Nat) (p : Packet) (vc sub src : Nat) (s : State) : State := pumpLink l (waitOn l p vc sub src s)

/-- A LINKCTL message takes the next number, once the replay buffer has room (R248). -/
def sendLinkctl (l : Nat) (m : LinkCtl) (s : State) : State :=
  drainCtl l ((linkOf s l).ctlWait.length + 1) (updLink l (fun x => { x with ctlWait := x.ctlWait ++ [m] }) s)

/-! ### Leaving the device -/

/-- The panels that hold a QP to a fabric ID. -/
def panelsTo (s : State) (dst : Nat) : List Nat :=
  (List.range 16).filter fun p => s.qps.any fun q => q.2.st ≠ .free && q.2.owner = p && q.2.remFab = dst

/-- No path to a fabric ID in any class: event 0x3102, once until a path returns (R372, Table 11.11). -/
def postNoPath (src dst : Nat) (s : State) : State :=
  if s.noPath.contains dst then s
  else
    let s := postMgmt 0xFF 0x3102 src dst 0 { s with noPath := s.noPath ++ [dst] }
    (panelsTo s dst).foldl (fun s p => postPanel p 0x3102 src dst 0 s) s

/-- Links of the allowed directions of a sprayed packet on which its panel may send, most free credits first (R254). -/
def sprayLink (s : State) (own : Nat) (p : Packet) : Option Nat :=
  let dst := p.hdr.dstFab.toNat
  let dirs := (List.range 6).filter fun d =>
    let i := d / 2
    let k := max (torusDim s i) 1
    coord s i own ≠ coord s i dst &&
      (d = shorter s i own dst || 2 * ((coord s i dst + k - coord s i own) % k) = k)
  let ls := (List.range 24).filter fun l =>
    dirs.contains (l % 6) && linkUp s false l && mayFlits s l 1 0 p.hdr.panel.toNat ≠ 0
  let used (l : Nat) : Nat := (List.range 16).foldl (fun n q => n + sget 0 (linkOf s l).inFlight (chanKey 1 0 q)) 0
  ls.foldl (fun b l => match b with
    | none => some l
    | some m => if used l < used m then some l else some m) none

/-- Ashlink block ID (Table 1.5). -/
def linkBlock (l : Nat) : Nat := 0x6000 + l

/-- A packet by dimension order on tile t (native). `arrived` is the link it came in on. Event 0x3102 says that no class has a path:
management may have one over links in QUARANTINE. -/
def sendOrdered (vc t : Nat) (arrived : Option Nat) (p : Packet) (s : State) : State :=
  let own := fabricId s
  let dst := p.hdr.dstFab.toNat
  let mgmt := vc = 3
  let dir := arrived.map (· % 6)
  match orderedDir s mgmt own dst dir with
  | none => if (orderedDir s true own dst dir).isNone then postNoPath (linkBlock 0) dst s else s
  | some (d, detour) =>
    let s := { s with noPath := s.noPath.filter (· != dst) }
    match (if mgmt then lowLink s d else tileLink s false d (t % 4)) with
    | none => s
    | some l =>
      let s := odCount 0x1901 8 (if detour || (!mgmt && l ≠ 6 * (t % 4) + d) then 1 else 0) s
      queueOn l p vc (if vc = 1 then 0 else subClass s own p.hdr.srcFab.toNat d detour) t s

/-- A sprayed packet at tile t: on the best link, or waiting for one (R254). -/
def sendSprayed (t : Nat) (p : Packet) (s : State) : State :=
  match sprayLink s (fabricId s) p with
  | some l => queueOn l p 1 0 t s
  | none => { s with sprayWait := s.sprayWait ++ [(t, p)] }

/-- Try every sprayed packet that waits again. -/
def retrySprayed (s : State) : State :=
  s.sprayWait.foldl (fun s e => sendSprayed e.1 e.2 s) { s with sprayWait := [] }

/-- A packet of this device leaves on a link of its class (R253, R254, R259); `core` is the logical core that a control packet
names as its source. -/
def netSend (core : Nat) (p : Packet) (s : State) : State :=
  let cls := p.hdr.cls.toNat
  let t := if cls = 2 then core else p.hdr.srcQp.toNat
  if native s then
    (if cls = 1 then sendSprayed (t % 4) p s else sendOrdered cls t none p s)
  else
    let ups := (List.range 24).filter (linkUp s (cls == 3))
    if ups.isEmpty then (if (List.range 24).any (linkUp s true) then s else postNoPath (linkBlock 0) p.hdr.dstFab.toNat s)
    else
      let l := ups.getD (if cls = 1 then (t + p.hdr.off.toNat / 4096) % ups.length else t % ups.length) 0
      queueOn l p cls 0 t { s with noPath := s.noPath.filter (· != p.hdr.dstFab.toNat) }

/-! ### The configuration digest (R263) -/

def digestedEntries : List (Nat × Nat) :=
  [(0x2600, 5), (0x2600, 6), (0x3100, 1), (0x3100, 2), (0x3100, 3), (0x3100, 0xA), (0x3100, 0xB), (0x3100, 0xC),
   (0x3100, 0xD), (0x3100, 0xE), (0x3100, 0xF)]

def configDigest (s : State) : Bytes :=
  sha256 ([0x47, 0x4A, 0x43, 0x44] ++ toLe 4 s.startup.fwVersion.toNat ++ toLe 4 (odGet s 0x2200 5) ++
    toLe 4 digestedEntries.length ++
    digestedEntries.flatMap fun e => toLe 2 e.1 ++ toLe 1 e.2 ++ [0] ++ toLe 8 (odGet s e.1 e.2))

/-! ### Queue pairs -/

def qpOf (s : State) (q : Nat) : Qp := sget {} s.qps q
def updQp (q : Nat) (f : Qp → Qp) (s : State) : State := { s with qps := smod {} s.qps q f }

/-- Messaging counters count the QPs of open panels (R287). -/
def msgCount (p sub n : Nat) (s : State) : State := if secure s p then s else odCount 0x3206 sub n s

/-- The Ashlink complex that holds a QP's context: source of events 0x3201–0x3203. -/
def qpBlock (q : Nat) : Nat := linkBlock (6 * (q % 4))

/-- The READY CONTROL QP of panel p to fabric ID f. -/
def controlQp (s : State) (p f : Nat) : Option Nat :=
  (s.qps.find? fun q => q.2.st = .ready && q.2.control && q.2.owner = p && q.2.remFab = f).map (·.1)

/-- The 96-bit nonce of R237, from the header. -/
def nonceBytes (h : PktHdr) : Bytes :=
  toLe 8 h.nonce.toNat ++ [0, 0] ++ toLe 1 (h.keySlot.toNat + 16 * h.panel.toNat) ++ toLe 1 h.srcFab.toNat

/-- A header of QP q. -/
def qpHdr (s : State) (q op cls : Nat) (payload : Bytes) : PktHdr :=
  let x := qpOf s q
  { ver := 1, cls := BitVec.ofNat 2 cls, op := BitVec.ofNat 8 op, first := true, last := true, trail := false, enc := false,
    ece := false, keySlot := 0, panel := BitVec.ofNat 4 x.owner, dstFab := BitVec.ofNat 8 x.remFab,
    srcFab := BitVec.ofNat 8 (fabricId s), dstQp := BitVec.ofNat 12 x.remQp, srcQp := BitVec.ofNat 12 q,
    len := BitVec.ofNat 16 payload.length, psn := 0, msg := 0, off := 0, nonce := 0 }

/-- Seal a packet of a secure panel under the LINK slot of its QP (R237, R251); none when the slot's counter is spent. -/
def sealPkt (q : Nat) (pkt : Packet) (s : State) : Option (Packet × State) :=
  let x := qpOf s q
  if !secure s x.owner then some (pkt, s)
  else
    let P := panelOf s x.owner
    let k := sget {} P.keys x.keySlot
    if 2 ^ 48 ≤ k.packet then none
    else
      let h := { pkt.hdr with
        enc := true, keySlot := BitVec.ofNat 4 x.keySlot
        nonce := BitVec.ofNat 64 (2 ^ 48 * sget 0 P.epochs x.keySlot + k.packet) }
      let c := gcmSeal k.key (nonceBytes h) (hdrBytes h) pkt.payload
      some ({ pkt with hdr := h, payload := c.1, tag := c.2 },
        updPanel x.owner (fun P => { P with keys := sset {} P.keys x.keySlot { k with packet := k.packet + 1 } }) s)

/-- A SEND MOVE whose message can no longer be delivered counts as complete, so that its aborted kernel can end. -/
def dropSend (c m : Nat) (s : State) : State :=
  updCore c (fun x => { x with moves := x.moves.map fun v => if v.id == m then { v with done := true } else v }) s

/-- A packet of a SEND, as against a KNOT or WAKE. -/
def OutPkt.ofSend (o : OutPkt) : Bool := o.pkt.hdr.op = 0x01 && !o.dead

/-- A SEND MOVE that still gathers its message for QP q. -/
def Move.gathersFor (q : Nat) (m : Move) : Bool := !m.handed && !m.done && m.send.any (·.qp == q)

/-- Kernels of the SENDs in flight on QP q: packets queued or sent, and moves accepted that still gather. -/
def qpKernels (s : State) (q : Nat) : List Nat :=
  ((((qpOf s q).unacked ++ (qpOf s q).waiting).filter (·.ofSend)).map (·.kid) ++
    s.cores.flatMap fun e => (e.2.moves.filter (·.gathersFor q)).map (·.kid)).eraseDups.filter (· != 0)

/-- The moves that gather a message for QP q come to no packet. -/
def endGathering (q : Nat) (x : Core) : Core :=
  { x with moves := x.moves.map fun m => if m.gathersFor q then { m with done := true } else m }

/-- End every SEND in flight on a QP (R270, R281). -/
def endSends (q event : Nat) (s : State) : State :=
  let x := qpOf s q
  let ks := qpKernels s q
  let s := (s.cores.map (·.1)).foldl (fun s c => updCore c (endGathering q) s) s
  let s := ks.foldl (fun s k => abortKernel k event s) s
  let s := ((x.unacked ++ x.waiting).filter (·.ofSend)).foldl (fun s o => dropSend o.core o.move s) s
  updQp q (fun x => { x with unacked := [], waiting := [] }) s

/-- Address of receive entry n (R272). -/
def recvEntry (x : Qp) (n : Nat) : Nat := x.ring + 32 * (n % max x.entries 1)

/-- Status byte of a receive entry. -/
def setRecvStatus (x : Qp) (n st : Nat) (s : State) : State := writeBytes (recvEntry x n + 24) (toLe 1 st) s

/-- A QP enters ERROR (R281): kernels end, the entry in progress takes its status, event 0x3201. -/
def qpError (q cause status msg psn : Nat) (s : State) : State :=
  let x := qpOf s q
  if x.st ≠ .ready then s
  else
    let s := updQp q (fun x => { x with st := .error }) s
    let s := endSends q 0x3201 s
    let s := x.inMsgs.foldl (fun s m => setRecvStatus x m.id.toNat status s) s
    let s := updQp q (fun x => { x with inMsgs := [] }) s
    postPanel x.owner 0x3201 (qpBlock q) (q + 2 ^ 16 * cause) (msg + 2 ^ 32 * psn) s

/-- Is an ordered SEND that core c issued before its move number `n` to fabric ID f not yet acknowledged (R283): packets of it are
left, or it still gathers its message. -/
def sendOpen (s : State) (p c f n : Nat) : Bool :=
  s.qps.any fun q => q.2.st = .ready && q.2.owner = p && !q.2.control && q.2.remFab = f &&
    (((q.2.unacked ++ q.2.waiting).any fun o => o.ofSend && o.core = c && o.pkt.hdr.cls = 0 && o.move ≠ 0 && o.move < n) ||
      (coreOf s c).moves.any fun m => m.id < n && m.gathersFor q.1 && m.send.any (!·.sprayed))

/-- May the packet at the head of QP q's queue be sent: a message that does not lie 64 or more above the reported prefix (R277), a
knot operation behind the ordered sends that its core issued before it (R283). -/
def headMaySend (s : State) (x : Qp) (o : OutPkt) : Bool :=
  x.unacked.length < 256 &&
  (if x.control then o.pkt.hdr.op ≠ 0x04 || !sendOpen s x.owner o.core x.remFab o.after
   else !o.pkt.hdr.first || (o.pkt.hdr.msg - x.remPrefix).toNat < 64 || 2 ^ 31 ≤ (o.pkt.hdr.msg - x.remPrefix).toNat)

/-- The packet counter of QP q's key slot is spent: every QP that names the slot enters ERROR (R237). -/
def spentKey (q msg psn : Nat) (s : State) : State :=
  let x := qpOf s q
  ((s.qps.filter fun e => e.2.owner = x.owner && e.2.keySlot = x.keySlot).map (·.1)).foldl
    (fun s e => qpError e 6 2 (if e = q then msg else 0) (if e = q then psn else 0) s) s

/-- Send waiting packets of QP q while the window allows. -/
def pumpQp (q : Nat) : Nat → State → State
  | 0, s => s
  | fuel + 1, s =>
    let x := qpOf s q
    match x.waiting with
    | [] => s
    | o :: rest =>
      if x.st ≠ .ready || !headMaySend s x o then s
      else
        let pkt := { o.pkt with hdr := { o.pkt.hdr with psn := x.sendPsn } }
        match sealPkt q pkt s with
        | none => spentKey q pkt.hdr.msg.toNat pkt.hdr.psn.toNat s
        | some (pkt, s) =>
          pumpQp q fuel (msgCount x.owner 1 1 (netSend o.src pkt
            (updQp q (fun x => { x with
              sendPsn := x.sendPsn + 1, waiting := rest, unacked := x.unacked ++ [{ o with pkt := pkt }] }) s)))

/-- Give every QP of a panel a turn. -/
def pumpPanel (p : Nat) (s : State) : State :=
  (s.qps.filter fun q => q.2.owner = p && !q.2.waiting.isEmpty).foldl (fun s q => pumpQp q.1 256 s) s

/-! ### The context cache (R282) -/

def qpTable (s : State) (p q : Nat) : Nat := odGet s 0x3201 (p + 1) + 1024 * q

/-- A context that may not be evicted. -/
def qpPinned (s : State) (q : Nat) (x : Qp) : Bool :=
  !x.unacked.isEmpty || !x.waiting.isEmpty || !x.inMsgs.isEmpty || (s.waiters.any fun w => w.fab.isSome && w.qp = q) ||
    s.cores.any fun e => e.2.moves.any (·.gathersFor q)

/-- The context leaves the cache: it is written to its slot, or to the host (R282). The device part's contents are not
stated. -/
def evictQp (q : Nat) (s : State) : State :=
  let x := qpOf s q
  let p := x.owner
  let (b, s) := freshBytes 960 s
  let ctx := readBytes s (qpTable s p q) 64 ++ b
  let s := updQp q (fun x => { x with cached := false, saved := ctx }) { s with cacheOrder := s.cacheOrder.filter (· != q) }
  let s := msgCount p 7 1 s
  if odGet s 0x3200 1 = 0 then storeBytes (qpTable s p q + 64) b s
  else
    let a := odGet s 0x3204 (p + 1) + 1024 * q
    (outWrite (windowOf a).1 (windowOf a).2.1 a ctx s).2

/-- Is there room for one more context, after an eviction if need be: the state with that room. -/
def cacheRoom (s : State) : Option State :=
  if s.cacheOrder.length < 512 then some s
  else (s.cacheOrder.reverse.find? fun q => !qpPinned s q (qpOf s q)).map fun q => evictQp q s

/-- The context is used: it is now the most recently used one, and is brought into the cache when there is room. -/
def touchQp (q : Nat) (s : State) : State :=
  if (qpOf s q).cached then { s with cacheOrder := q :: s.cacheOrder.filter (· != q) }
  else
    match cacheRoom s with
    | none => s
    | some s => updQp q (fun x => { x with cached := true, restoring := false }) { s with cacheOrder := q :: s.cacheOrder }

/-- Hand a packet of QP q to the transport. The context comes into the cache, if it is not there and there is room: its wait costs time
only. -/
def qpSend (q : Nat) (o : OutPkt) (s : State) : State :=
  pumpQp q 256 (touchQp q (updQp q (fun x => { x with waiting := x.waiting ++ [o] }) s))

/-- An acknowledgement or NAK: on the control class, without a number of its own, addressed to the QP it answers. -/
def sendPlain (q op : Nat) (ece : Bool) (payload : Bytes) (s : State) : State :=
  let pkt : Packet := { hdr := { qpHdr s q op 2 payload with ece := ece }, ce := false, payload := payload, tag := [] }
  match sealPkt q pkt s with
  | none => spentKey q 0 0 s
  | some (pkt, s) => netSend 0 pkt s

/-- Bytes of the 256-bit bitmap of PSNs e to e + 255. -/
def bitmapBytes (e : BitVec 24) (l : List (BitVec 24)) : Bytes :=
  (List.range 32).map fun i => BitVec.ofNat 8 ((List.range 8).foldl (fun n j =>
    n + if l.contains (e + BitVec.ofNat 24 (8 * i + j)) then 2 ^ j else 0) 0)

/-- Send an ACK (Table 12.7). -/
def sendAck (q : Nat) (s : State) : State :=
  let x := qpOf s q
  sendPlain q 0x02 x.ece (toLe 4 x.expPsn.toNat ++ toLe 4 x.rxPrefix.toNat ++ bitmapBytes x.expPsn x.bitmap ++ toLe 8 0)
    (updQp q (fun x => { x with sinceAck := 0, ackDue := false, ece := false }) s)

/-- Send a NAK (Table 12.6). -/
def sendNak (q code : Nat) (psn : BitVec 24) (s : State) : State :=
  msgCount (qpOf s q).owner 5 1 (sendPlain q 0x03 false (toLe 4 code ++ toLe 4 psn.toNat ++ toLe 8 0) s)

/-- A WAKE on CONTROL QP q: result 0 satisfied, 1 ORPHANED, 2 refused. -/
def sendWake (q addr result core count : Nat) (s : State) : State :=
  let b := toLe 4 addr ++ toLe 1 result ++ toLe 7 0 ++ toLe 1 core ++ toLe 3 0 ++ toLe 4 count ++ toLe 12 0
  qpSend q { pkt := { hdr := qpHdr s q 0x05 2 b, ce := false, payload := b, tag := [] }, core := 128, move := 0, kid := 0, resends := 0
             nak := 0, backoffUs := 0, src := core, addr := addr } s

/-- A KNOT packet of core c (Table 12.9). -/
def sendKnot (q c addr op value count tag kid : Nat) (s : State) : State :=
  let b := toLe 4 addr ++ toLe 1 op ++ [0] ++ toLe 6 value ++ toLe 1 c ++ toLe 3 0 ++ toLe 4 count ++ toLe 4 tag ++ toLe 8 0
  qpSend q { pkt := { hdr := qpHdr s q 0x04 2 b, ce := false, payload := b, tag := [] }, core := c, move := 0, kid := kid, resends := 0
             nak := 0, backoffUs := 0, src := c, addr := addr, after := (coreOf s c).nextMove } s

end Sys2Proof.Machine
end

