-- ==== Sys2Proof/Machine/Knots.lean ====
section
/-! DEFINITION. Knots and spools (R191–R208): the operations on a knot word, its waiters, who may reach it, poison, the
spool records, and what the knot operations of a stage program do when they start. -/
namespace Sys2Proof.Machine

/-! ### Knots -/

def knotOf (s : State) (i : Nat) : Knot := sget {} s.knots i
def setKnot (i : Nat) (k : Knot) (s : State) : State := { s with knots := sset {} s.knots i k }

/-- Index of the knot that a knot address of this module names. -/
def knotAt (a : Word32) : Nat := knotIdx (knotCore a) (knotNum a)

/-- The knot address of knot index i. -/
def knotAddr (s : State) (i : Nat) : Nat := fabricId s * 2 ^ 24 + i / 256 * 2 ^ 16 + i % 256

/-- The panel that owns a knot. -/
def knotPanel (s : State) (i : Nat) : Option Nat := ownerOfCore s (i / 256)

/-- Restore knots: 248–255 of a panel's lowest logical core (R191). -/
def isRestoreKnot (s : State) (i : Nat) : Bool :=
  match knotPanel s i with
  | some p => i / 256 = lowCore s p && 248 ≤ i % 256
  | none => false

/-- Who signals a knot. -/
structure Signaller where
  fab : Nat
  core : Nat
  tag : Nat
  panel : Nat
deriving DecidableEq, Repr

/-- Is a wait satisfied (Table 9.2). -/
def waitMet (k : Knot) (op v : Nat) : Bool :=
  if op = 0x43 then k.value.toNat = v
  else if op = 0x44 then
    let d := (k.gen.toNat + 2 ^ 16 - v % 2 ^ 16) % 2 ^ 16
    1 ≤ d && d ≤ 32767
  else v ≤ k.value.toNat

/-- The operation at the head of queue 12 may retire. -/
def knotReady (x : Core) : Core :=
  { x with queues := smod {} x.queues 12 fun q => { q with entries := match q.entries with
      | e :: es => (if e.started then { e with ready := true } else e) :: es
      | [] => [] } }

/-- Release a satisfied waiter: the local operation may retire, a remote one is woken (R200). -/
def releaseWaiter (w : Waiter) (s : State) : State :=
  match w.fab with
  | none => updCore w.core knotReady s
  | some _ => sendWake w.qp (knotAddr s w.knot) 0 w.core w.count s

/-- Evaluate the waiters of knot i (R192). -/
def evalWaiters (i : Nat) (s : State) : State :=
  let k := knotOf s i
  let met (w : Waiter) : Bool := w.knot == i && waitMet k w.op w.value
  (s.waiters.filter met).foldl (fun s w => releaseWaiter w s) { s with waiters := s.waiters.filter fun w => !met w }

/-- An operation was applied to knot i: count it and name its signaller. -/
def signKnot (g : Signaller) (k : Knot) : Knot :=
  { k with sigFab := BitVec.ofNat 8 g.fab, sigCore := g.core, sigTag := BitVec.ofNat 32 g.tag, sigPanel := g.panel
           ops := k.ops + 1 }

def applyKadd (i v : Nat) (g : Signaller) (s : State) : State :=
  let k := knotOf s i
  evalWaiters i (odCount 0x2807 1 1 (setKnot i (signKnot g { k with value := k.value + BitVec.ofNat 48 v }) s))

/-- KSET: a poisoned knot is cleared, its generation and its count of operations start again at 0. -/
def applyKset (i v : Nat) (g : Signaller) (s : State) : State :=
  let k := knotOf s i
  let k' := signKnot g { k with value := BitVec.ofNat 48 v }
  let k' := if k.poisoned then { k' with poisoned := false, gen := 0, ops := 0 } else k'
  evalWaiters i (odCount 0x2807 1 1 (setKnot i k' s))

/-- Barrier rounds that are complete (R194), at most `fuel`. -/
def barrierRounds (n : Nat) : Nat → Nat × Nat × Nat → Nat × Nat × Nat
  | 0, st => st
  | fuel + 1, (a, e, g) =>
    if 0 < n && n ≤ a then barrierRounds n fuel (e, 0, (g + 1) % 2 ^ 16) else (a, e, g)

/-- KARRIVE with effective generation g (R194); `p` is the issuing panel, whose results a host-made error affects. -/
def applyArrive (i g p : Nat) (sg : Signaller) (s : State) : State :=
  let k := knotOf s i
  let v := k.value.toNat
  let n := v / 2 ^ 32
  let a := v / 2 ^ 16 % 2 ^ 16
  let e := v % 2 ^ 16
  let G := k.gen.toNat
  let early := g = (G + 1) % 2 ^ 16
  let bad := g ≠ G && !early
  let a := if g = G then (a + 1) % 2 ^ 16 else a
  let e := if g ≠ G && early then (e + 1) % 2 ^ 16 else e
  let r := barrierRounds n 3 (a, e, G)
  let s := if bad then odCount 0x2807 6 1 s else s
  let s := if bad || n = 0 || n < e then taint p s else s
  evalWaiters i (odCount 0x2807 1 1 (setKnot i
    (signKnot sg { k with value := BitVec.ofNat 48 (n * 2 ^ 32 + r.1 * 2 ^ 16 + r.2.1), gen := BitVec.ofNat 16 r.2.2 }) s))

/-! ### Poison (R202) -/

/-- A waiter completes ORPHANED. -/
def orphanWaiter (w : Waiter) (s : State) : State :=
  let s := odCount 0x2807 5 1 s
  match w.fab with
  | none => coreFault w.core 0x2802 (coreBlock s w.core) (knotAddr s w.knot) (tagOnCore s w.core) s
  | some _ => sendWake w.qp (knotAddr s w.knot) 1 w.core w.count s

/-- Poison every knot of a list of logical cores. -/
def poisonCores (cs : List Nat) (s : State) : State :=
  let hit (w : Waiter) : Bool := cs.contains (w.knot / 256)
  (s.waiters.filter hit).foldl (fun s w => orphanWaiter w s)
    { s with knots := s.knots.filter fun k => !cs.contains (k.1 / 256), waiters := s.waiters.filter fun w => !hit w }

def panelCores (s : State) (p : Nat) : List Nat := (List.range 128).filter fun c => bitOf (panelGroups s p) (c / 8)

/-- Restore knots are cleared and set to 0 (R202). -/
def clearRestoreKnots (p : Nat) (s : State) : State :=
  (List.range 8).foldl (fun s i => setKnot (knotIdx (lowCore s p) (248 + i)) { poisoned := false } s) s

/-- An operation of core c on a poisoned knot completes ORPHANED. -/
def orphanOp (c addr : Nat) (s : State) : State :=
  coreFault c 0x2802 (coreBlock s c) addr (tagOnCore s c) (odCount 0x2807 5 1 s)

/-! ### Operations that the device issues itself (R202, item 4) -/

/-- A KADD or KSET of the device on a knot of this module: discarded, with event 0x2804, on a poisoned knot. -/
def deviceKnot (src : Nat) (set : Bool) (addr : Word32) (v : Nat) (s : State) : State :=
  if !knotAddrOk addr then s
  else
    let i := knotAt addr
    if (knotOf s i).poisoned then
      match knotPanel s i with
      | some p => postPanel p 0x2804 src addr.toNat (2 ^ 32) s
      | none => s
    else
      let g : Signaller := ⟨fabricId s, 0, 0, (knotPanel s i).getD 0⟩
      if set then applyKset i v g s else applyKadd i v g s

/-! ### Relocation (R319) -/

/-- Lowest and highest core group of a kernel's home span. -/
def homeSpan (k : Kernel) : Nat × Nat :=
  (k.home.foldl (fun a c => min a (c / 8)) 15, k.home.foldl (fun a c => max a (c / 8)) 0)

/-- Is core group g in the home span of a kernel that was shifted. -/
def shifted (k : Kernel) (g : Nat) : Bool := k.shift ≠ 0 && (homeSpan k).1 ≤ g && g ≤ (homeSpan k).2

def shiftCore (k : Kernel) (c : Nat) : Nat := if shifted k (c / 8) then ((c : Int) + 8 * k.shift).toNat else c

/-- A knot address as kernel k's knot units use it. -/
def shiftKnot (s : State) (k : Kernel) (a : Word32) : Word32 :=
  if knotFab a = fabricId s && shifted k (knotCore a / 8) then
    BitVec.ofNat 32 (a.toNat - knotCore a * 2 ^ 16 + shiftCore k (knotCore a) * 2 ^ 16)
  else a

/-- A device address as kernel k's movers use it: core-store slots of the home span move by 9 slots a group. -/
def shiftAddr (k : Kernel) (a : Nat) : Nat :=
  if storeBase ≤ a && a < storeEnd && shifted k ((a - storeBase) / slotSize / 9) then
    ((a : Int) + 9 * k.shift * slotSize).toNat
  else a

def shiftKnotOn (s : State) (c : Nat) (a : Word32) : Word32 :=
  match kernelOnCore s c with
  | some k => shiftKnot s k a
  | none => a

def shiftAddrOn (s : State) (c a : Nat) : Nat :=
  match kernelOnCore s c with
  | some k => shiftAddr k a
  | none => a

/-! ### Who may reach a knot (R195, R196) -/

/-- Does the owner's grant list allow panel p the operation on knot i: bit 48 ADD, 49 SET, 50 WAIT (Table 9.4). -/
def grantAllows (s : State) (o p i bit : Nat) : Bool :=
  panelOpen s p && secure s p == secure s o &&
  (panelOf s o).grants.any fun e =>
    e.2.toNat % 2 ^ 32 = knotAddr s i && bitOf e.2.toNat bit && bitOf e.2.toNat (32 + p)

/-- May a kernel of panel p reach knot i of this module. -/
def knotAllowed (s : State) (p i bit : Nat) : Bool :=
  match knotPanel s i with
  | none => false
  | some o => o = p || (!isRestoreKnot s i && grantAllows s o p i bit)

/-- Event 0x2803 and the kernel's end. -/
def knotRefuse (c addr spool cause : Nat) (s : State) : State :=
  coreFault c 0x2803 (coreBlock s c) (addr + 2 ^ 32 * spool + 2 ^ 40 * cause) (tagOnCore s c) s

/-- Where an operation goes: refused, to a knot of this module, or on a CONTROL QP. -/
inductive KnotRoute where
  | refuse (cause : Nat)
  | here (i : Nat)
  | away (qp : Nat)
deriving DecidableEq, Repr

/-- Route of an operation of panel p, with the grant bit it needs (R195). -/
def knotRoute (s : State) (p : Nat) (addr : Word32) (bit : Nat) : KnotRoute :=
  let away := knotFab addr ≠ fabricId s
  let badField := addr.toNat / 2 ^ 8 % 256 ≠ 0 || (!away && 128 ≤ knotCore addr)
  if away then
    match controlQp s p (knotFab addr) with
    | none => .refuse 1
    | some q => if badField then .refuse 2 else .away q
  else if knotCore addr < 128 && !knotAllowed s p (knotAt addr) bit then .refuse 1
  else if badField then .refuse 2
  else .here (knotAt addr)

/-- A KADD or KSET that the device issues for panel p on a knot that p named in a record or an entry: under the rights of p (R195),
else event 0x2803 with the issuing block as source. No queue pair carries an operation of the device's own, so a knot of another
device is refused as well (DESIGN CHOICE: the spec states neither). -/
def panelKnot (p src : Nat) (set : Bool) (addr : Word32) (v : Nat) (s : State) : State :=
  match knotRoute s p addr (if set then 49 else 48) with
  | .refuse cause => postPanel p 0x2803 src (addr.toNat + 2 ^ 40 * cause) 0 s
  | .away _ => postPanel p 0x2803 src (addr.toNat + 2 ^ 40) 0 s
  | .here _ => deviceKnot src set addr v s

/-- Cause of a refusal when the mode field forms no operand: the lowest that applies (R193, R413). A wait in a spool's mode names
no knot, so its knot-address field must be zero. -/
def modeCause (s : State) (p : Nat) (addr : Word32) (bit : Nat) (spoolWait : Bool) : Nat :=
  if spoolWait then (if addr = 0 then 3 else 2)
  else match knotRoute s p addr bit with
    | .refuse cause => cause
    | _ => 3

/-- Send a remote operation: the core's count on the QP rises by one (R283). -/
def remoteOp (q c addr op v : Nat) (s : State) : State :=
  let n := (sget 0 (coreOf s c).remote q + 1) % 2 ^ 32
  let s := updCore c (fun x => { x with remote := sset 0 x.remote q n }) s
  sendKnot q c addr op v n (tagOnCore s c) (coreOf s c).kid s

def coreSignaller (s : State) (c p : Nat) : Signaller := ⟨fabricId s, c, tagOnCore s c, p⟩

/-- Stage-program operations on a restore knot are host-made errors (R160). -/
def taintRestore (p i : Nat) (s : State) : State := if isRestoreKnot s i then taint p s else s

/-- KADD and KSET (R192, R195, R202). -/
def startKnotOp (c p : Nat) (x : Core) (f : KnotF) (set : Bool) (s : State) : Start :=
  let a := shiftKnotOn s c f.knot
  match knotOperand x 48 f.value.toNat f.mode f.reg f.step with
  | none => .stop (knotRefuse c a.toNat 0 (modeCause s p a (if set then 49 else 48) false) s)
  | some v =>
    match knotRoute s p a (if set then 49 else 48) with
    | .refuse cause => .stop (knotRefuse c a.toNat 0 cause s)
    | .away q => .started true (remoteOp q c a.toNat (if set then 0x41 else 0x40) v s)
    | .here i =>
      let s := taintRestore p i s
      if (knotOf s i).poisoned && !(set && knotPanel s i = some p) then .stop (orphanOp c a.toNat s)
      else .started true (onceEffect c (if set then applyKset i v (coreSignaller s c p)
        else applyKadd i v (coreSignaller s c p)) s)

/-- Start waiting on a knot of this module, or go on at once. -/
def waitHere (c i op mode v : Nat) (s : State) : Start :=
  if waitMet (knotOf s i) op v then .started true s
  else .started false { s with waiters := s.waiters ++
    [{ knot := i, fab := none, core := c, op := op, mode := mode, value := v, qp := 0, count := 0, since := s.time }] }

/-- KWAITGE and KWAITEQ. -/
def startKnotWait (c p : Nat) (x : Core) (f : KnotF) (eq : Bool) (s : State) : Start :=
  let a := shiftKnotOn s c f.knot
  let op := if eq then 0x43 else 0x42
  match knotOperand x 48 f.value.toNat f.mode f.reg f.step with
  | none => .stop (knotRefuse c a.toNat 0 (modeCause s p (if 2 ≤ f.mode.toNat then f.knot else a) 50 (!eq && 2 ≤ f.mode.toNat)) s)
  | some v =>
    match knotRoute s p a 50 with
    | .refuse cause => .stop (knotRefuse c a.toNat 0 cause s)
    | .away q => .started false (updCore c (fun x => { x with remoteWait := some 2 }) (remoteOp q c a.toNat op v s))
    | .here i =>
      let s := taintRestore p i s
      if (knotOf s i).poisoned then .stop (orphanOp c a.toNat s) else waitHere c i op f.mode.toNat v s

/-- KARRIVE (R194). -/
def startArrive (c p : Nat) (x : Core) (f : ArriveF) (s : State) : Start :=
  let a := shiftKnotOn s c f.knot
  match knotOperand x 16 f.gen.toNat f.mode f.reg f.step with
  | none => .stop (knotRefuse c a.toNat 0 (modeCause s p a 50 false) s)
  | some g =>
    match knotRoute s p a 50 with
    | .refuse cause => .stop (knotRefuse c a.toNat 0 cause s)
    | .away q =>
      .started false (updCore c (fun x => { x with remoteWait := some 2 }) (remoteOp q c a.toNat 0x44 g s))
    | .here i =>
      let s := taintRestore p i s
      if (knotOf s i).poisoned then .stop (orphanOp c a.toNat s)
      else waitHere c i 0x44 f.mode.toNat g (onceEffect c (applyArrive i g p (coreSignaller s c p)) s)

/-! ### Spools (R205–R208) -/

/-- A spool record (Table 9.7). -/
structure SpoolRec where
  magic : Nat
  depth : Nat
  entry : Nat
  producer : Nat
  consumer : Nat
  base : Nat
  pKnot : Word32
  cKnot : Word32
  pc : Nat
  rc : Nat
deriving DecidableEq, Repr

def spoolAddr (s : State) (p n : Nat) : Nat := odGet s 0x2806 (p + 1) + 128 * n

/-- The record as it stands in the table. -/
def spoolRaw (s : State) (p n : Nat) : SpoolRec :=
  let b := readBytes s (spoolAddr s p n) 48
  { magic := fieldNat b 0 4, depth := fieldNat b 4 4, entry := fieldNat b 8 4, producer := fieldNat b 12 1
    consumer := fieldNat b 13 1, base := fieldNat b 16 8, pKnot := BitVec.ofNat 32 (fieldNat b 24 4)
    cKnot := BitVec.ofNat 32 (fieldNat b 28 4), pc := fieldNat b 32 8, rc := fieldNat b 40 8 }

/-- The record with the shift of the kernel of panel p whose home holds its producer (R319). -/
def spoolRec (s : State) (p n : Nat) : SpoolRec :=
  let r := spoolRaw s p n
  match s.kernels.find? fun k => k.panel == p && k.phase != .waiting && k.home.contains r.producer with
  | none => r
  | some k => { r with
      producer := shiftCore k r.producer, consumer := shiftCore k r.consumer, base := shiftAddr k r.base
      pKnot := shiftKnot s k r.pKnot, cKnot := shiftKnot s k r.cKnot }

/-- Is a knot address a knot of panel p on this device. -/
def ownKnot (s : State) (p : Nat) (a : Word32) : Bool :=
  knotFab a = fabricId s && knotAddrOk a && knotPanel s (knotAt a) == some p

/-- Does an area lie in the store of core c, or in a DIRECT way of panel p on tile t. -/
def inStoreOf (c a n : Nat) : Bool := within a n (coreStore c) (coreStore c + storeSize - 1)
def inDirectOf (s : State) (p t a n : Nat) : Bool :=
  (directWays s p t).any fun w =>
    within a n (tbBase + t * 0x400_0000 + w * 0x30_0000) (tbBase + t * 0x400_0000 + w * 0x30_0000 + 0x2F_FFFF)

/-- Validity of a spool record (R205). -/
def spoolOk (s : State) (p n : Nat) : Bool :=
  let r := spoolRec s p n
  inOwnCrown s p (spoolAddr s p n) 128 && r.magic = 0x5053_4A47 && 2 ≤ r.depth && r.depth ≤ 65536 &&
  64 ≤ r.entry && r.entry ≤ 1048576 && r.entry % 64 = 0 && r.producer < 128 && r.consumer < 128 &&
  r.producer / 32 = r.consumer / 32 && ownerOfCore s r.producer == some p && ownerOfCore s r.consumer == some p &&
  (inStoreOf r.producer r.base (r.depth * r.entry) || inStoreOf r.consumer r.base (r.depth * r.entry) ||
    inDirectOf s p (r.producer / 32) r.base (r.depth * r.entry)) &&
  ownKnot s p r.pKnot && ownKnot s p r.cKnot

def spoolRefuse (c spool cause : Nat) (s : State) : State := knotRefuse c 0 spool cause s

/-- SPACE and DATA waits: the threshold on the consumer or the producer knot. -/
def startSpoolWait (c p : Nat) (x : Core) (spool k : Nat) (space : Bool) (s : State) : Start :=
  let r := spoolRec s p spool
  if !spoolOk s p spool then .stop (spoolRefuse c spool 4 s)
  else if (if space then r.producer else r.consumer) ≠ c then .stop (spoolRefuse c spool 5 s)
  else
    let kn := if space then r.cKnot else r.pKnot
    let v := if space then sget 0 x.spoolP spool + k - r.depth else sget 0 x.spoolC spool + k
    if (knotOf s (knotAt kn)).poisoned then .stop (orphanOp c kn.toNat s)
    else waitHere c (knotAt kn) 0x42 (if space then 2 else 3) v s

/-- KWAITGE: a wait on a knot, or in mode SPACE or DATA with a knot address of zero a wait on a spool (R193). -/
def startWaitGe (c p : Nat) (x : Core) (f : KnotF) (s : State) : Start :=
  if 2 ≤ f.mode.toNat && f.knot = 0 && !f.step then startSpoolWait c p x f.reg.toNat f.value.toNat (f.mode = 2) s
  else startKnotWait c p x f false s

/-- Set a knot to the greater of its value and v. -/
def raiseKnot (i v : Nat) (g : Signaller) (s : State) : State :=
  applyKset i (max (knotOf s i).value.toNat v) g s

/-- The high-water mark: the largest P − F seen. -/
def markHigh (s : State) (p n : Nat) : State :=
  let r := spoolRec s p n
  let occ := (knotOf s (knotAt r.pKnot)).value.toNat - (knotOf s (knotAt r.cKnot)).value.toNat
  let a := spoolAddr s p n + 64
  if readNat s a 4 < occ then storeBytes a (toLe 4 occ) s else s

/-- SCOMMIT (R206). -/
def startScommit (c p : Nat) (spool k : Nat) (s : State) : Start :=
  let r := spoolRec s p spool
  if !spoolOk s p spool then .stop (spoolRefuse c spool 4 s)
  else if r.producer ≠ c then .stop (spoolRefuse c spool 5 s)
  else if (knotOf s (knotAt r.pKnot)).poisoned then .stop (orphanOp c r.pKnot.toNat s)
  else
    let n := sget 0 (coreOf s c).spoolP spool + k
    let s := updCore c (fun x => { x with spoolP := sset 0 x.spoolP spool n }) s
    .started true (onceEffect c (fun s => markHigh (raiseKnot (knotAt r.pKnot) n (coreSignaller s c p) s) p spool) s)

/-- SRELEASE (R206). -/
def startSrelease (c p : Nat) (spool k : Nat) (s : State) : Start :=
  if !spoolOk s p spool then .stop (spoolRefuse c spool 4 s)
  else if (spoolRec s p spool).consumer ≠ c then .stop (spoolRefuse c spool 5 s)
  else
    let s := updCore c (fun x => { x with spoolC := sset 0 x.spoolC spool (sget 0 x.spoolC spool + k) }) s
    .started true (onceEffect c id s)

/-- Spools of panel p that core c takes part in. -/
def spoolsOf (s : State) (p c : Nat) : List Nat :=
  (List.range 64).filter fun n => spoolOk s p n && ((spoolRec s p n).producer = c || (spoolRec s p n).consumer = c)

/-- One spool at a COMMIT or END of core c: Pc or Rc, then F (R206). -/
def saveSpool (c p : Nat) (s : State) (n : Nat) : State :=
  let r := spoolRec s p n
  let x := coreOf s c
  let pc := if r.producer = c then sget 0 x.spoolP n else r.pc
  let rc := if r.consumer = c then sget 0 x.spoolC n else r.rc
  let s := storeBytes (spoolAddr s p n + 32) (toLe 8 pc ++ toLe 8 rc) s
  if (knotOf s (knotAt r.cKnot)).poisoned then
    postPanel p 0x2804 (coreBlock s c) r.cKnot.toNat (2 ^ 32) s
  else if (knotOf s (knotAt r.cKnot)).value.toNat < min rc pc then
    raiseKnot (knotAt r.cKnot) (min rc pc) (coreSignaller s c p) s
  else s

def saveSpools (c p : Nat) (s : State) : State := (spoolsOf s p c).foldl (saveSpool c p) s

/-- Counts loaded at kernel start and at replay (R206, R208). -/
def loadSpools (c p : Nat) (s : State) : State :=
  (spoolsOf s p c).foldl (fun s n =>
    let r := spoolRec s p n
    updCore c (fun x => { x with
      spoolP := sset 0 x.spoolP n (if r.producer = c then r.pc else sget 0 x.spoolP n)
      spoolC := sset 0 x.spoolC n (if r.consumer = c then r.rc else sget 0 x.spoolC n) }) s)
    (updCore c (fun x => { x with spoolP := [], spoolC := [] }) s)

/-! ### Inspection (R204) -/

/-- A waiter's 16 bytes (Table 9.6). -/
def waiterBytes (s : State) (w : Waiter) : Bytes :=
  toLe 6 w.value ++ toLe 1 w.core ++ toLe 1 (w.fab.getD (fabricId s)) ++ toLe 1 w.op ++ toLe 1 w.mode ++ toLe 2 0 ++
    toLe 4 ((s.time - w.since) / 1000000)

/-- The inspection record of knot address a for panel p. -/
def inspectBytes (s : State) (p : Nat) (a : Word32) : Bytes :=
  let i := knotAt a
  let readable := knotFab a = fabricId s && knotAddrOk a &&
    (knotPanel s i == some p || match knotPanel s i with
      | some o => grantAllows s o p i 50
      | none => false)
  if !readable then toLe 10 0 ++ [0xFF] ++ toLe 149 0
  else
    let k := knotOf s i
    let ws := s.waiters.filter (·.knot == i)
    toLe 6 k.value.toNat ++ toLe 2 k.gen.toNat ++ toLe 2 ws.length ++ toLe 1 k.poisoned.toNat ++ [0] ++
      toLe 1 k.sigFab.toNat ++ toLe 1 k.sigCore ++ toLe 2 0 ++
      toLe 4 (if k.sigPanel = p && k.sigFab.toNat = fabricId s then k.sigTag.toNat else 0) ++ toLe 4 0 ++ toLe 8 k.ops ++
      padTo 128 ((ws.take 8).flatMap (waiterBytes s))

end Sys2Proof.Machine
end

