-- ==== Sys2Proof/Machine/Restore.lean ====
section
/-! DEFINITION. What happens when a read returns bad data (R148, R152, R157–R161): the runs of a transfer (R172), swatches,
parity rows, restores, regeneration and the loss of a line. -/
namespace Sys2Proof.Machine

/-! ### Runs of a descriptor (R172) -/

def Desc.runs (d : Desc) : Nat := d.n1 * d.n2 * d.n3 * d.n4
def Desc.total (d : Desc) : Nat := d.runs * d.n0

/-- Extents and strides of dimensions 1 to 4. -/
def Desc.dims (d : Desc) : List (Nat × Int × Bool) :=
  [(d.n1, d.st1, d.sides.getLsbD 0), (d.n2, d.st2, d.sides.getLsbD 1), (d.n3, d.st3, d.sides.getLsbD 2),
   (d.n4, d.st4, d.sides.getLsbD 3)]

/-- Cursor of run L: (i1, i2, i3, i4). -/
def Desc.cursor (d : Desc) (L : Nat) : List Nat :=
  [L % d.n1, L / d.n1 % d.n2, L / d.n1 / d.n2 % d.n3, L / d.n1 / d.n2 / d.n3]

/-- Source and destination offsets of a run: strided on one side, dense on the other. -/
def runOffsets (n0 : Nat) : List ((Nat × Int × Bool) × Nat) → (Int × Int) × (Nat × Nat) → Int × Int
  | [], (st, _) => st
  | ((n, stride, onDst), i) :: l, ((s, t), (ms, md)) =>
    if onDst then runOffsets n0 l ((s + n0 * (i * ms : Nat), t + i * stride), (ms * n, md))
    else runOffsets n0 l ((s + i * stride, t + n0 * (i * md : Nat)), (ms, md * n))

/-- Source and destination addresses of run L. -/
def Desc.run (d : Desc) (L : Nat) : Int × Int :=
  let o := runOffsets d.n0 (d.dims.zip (d.cursor L)) ((0, 0), (1, 1))
  ((d.src : Int) + o.1, (d.dst : Int) + o.2)

/-! ### Swatches (R152) -/

/-- Geometry of Table 7.2: rows, payload bytes used, scale bytes, gusset bytes, payload slot, annex. -/
structure Swatch where
  rows : Nat
  used : Nat
  scales : Nat
  gussets : Nat
  slot : Nat
  annex : Nat
deriving DecidableEq, Repr

def swatchOf (fmt : Byte) : Option Swatch :=
  match fmt.toNat with
  | 0x01 => some ⟨480, 15360, 1920, 0, 16384, 2048⟩
  | 0x02 => some ⟨256, 16384, 1024, 0, 16384, 2048⟩
  | 0x03 => some ⟨224, 14336, 896, 896, 16384, 2048⟩
  | 0x04 | 0x05 => some ⟨160, 15360, 640, 0, 16384, 1024⟩
  | 0x0A | 0x0B | 0x0C => some ⟨128, 16384, 512, 0, 16384, 1024⟩
  | 0x08 | 0x09 => some ⟨128, 16384, 0, 0, 16384, 1024⟩
  | 0x10 => some ⟨128, 32768, 0, 0, 32768, 1024⟩
  | _ => none

def Swatch.size (g : Swatch) : Nat := g.slot + g.annex

/-- CRC-32 of a swatch (Table 7.3). -/
def swatchCrc (g : Swatch) (b : Bytes) : Word32 :=
  crc32 (b.take g.used ++ (b.drop g.slot).take (g.annex - 64) ++ (b.drop (g.slot + g.annex - 64)).take 28)

/-- Does a swatch of n bytes pass R153: known format of that size, CRC good, POISON clear. -/
def swatchGood (b : Bytes) : Bool :=
  match swatchOf ((b.drop (b.length - 64)).getD 0 0) with
  | none => false
  | some g =>
    let tail := b.drop (b.length - 64)
    g.size = b.length && !(tail.getD 1 0).getLsbD 0 && fieldNat tail 28 4 = (swatchCrc g b).toNat

/-- Is n the size of some format's swatch. -/
def swatchSize (n : Nat) : Bool := [18432, 17408, 33792].contains n

/-! ### Regeneration entries (R159) -/

structure Regen where
  copy : Nat
  count : Nat
  step : Nat
  master : Nat
  din : Nat
  dout : Nat
  shadow : Nat
  knot : Word32
  fmt : Byte
  rounding : Nat
deriving DecidableEq, Repr

def regenAt (s : State) (a : Nat) : Regen :=
  let b := readBytes s a 64
  { copy := fieldNat b 0 8, count := fieldNat b 8 4, step := fieldNat b 12 4, master := fieldNat b 16 8
    din := fieldNat b 24 4, dout := fieldNat b 28 4, shadow := fieldNat b 32 8, knot := BitVec.ofNat 32 (fieldNat b 40 4)
    fmt := BitVec.ofNat 8 (fieldNat b 44 1), rounding := fieldNat b 45 1 }

/-- The entry of panel p that covers address a, with the swatch it falls in. An entry of the table that lies outside the panel's
grants is no entry (R17; DESIGN CHOICE: the look-up itself posts no event). -/
def regenFor (s : State) (p a : Nat) : Option (Regen × Swatch × Nat) :=
  (List.range (odGet s 0x2608 (p + 1))).findSome? fun i =>
    let at_ := odGet s 0x2607 (p + 1) + 64 * i
    let e := regenAt s at_
    match swatchOf e.fmt with
    | none => none
    | some g =>
      if grants s p false at_ 64 && e.copy ≤ a && a < e.copy + e.count * g.size then some (e, g, (a - e.copy) / g.size) else none

/-- Is the entry current: its update knot shows exactly its step. -/
def regenCurrent (s : State) (p : Nat) (e : Regen) : Bool :=
  ownKnot s p e.knot && (knotOf s (knotAt e.knot)).value.toNat == e.step

/-! ### The way a unit is restored -/

inductive RestorePath where
  | rebuild
  | regenerate
  | lost (cause : Nat)
deriving DecidableEq, Repr

/-- R158: reconstruction, else regeneration, else loss with its cause. Where the copy's port can keep nothing, a regenerated
swatch has no place to go back to, so the way is not open (DEDUCED). -/
def restorePath (s : State) (p u : Nat) (swatch : Bool) : RestorePath :=
  let root := rootBase ≤ u && u < rootEnd
  if root && !swatch && canRebuild s u then .rebuild
  else
    match if portKeepsNone s u then none else regenFor s p u with
    | some (e, _, _) =>
      if 2 ≤ e.rounding then .lost 5 else if regenCurrent s p e then .regenerate else .lost 4
    | none => .lost (if root && s.root.mode = 0 then 1 else if root && !swatch then 2 else 3)

/-- The panel that owns the memory at an address: its stack, or the ROOT entry that covers it. -/
def memOwner (s : State) (a : Nat) : Option Nat :=
  if a < crownEnd then ownerOfGroup s (a / stackSize)
  else if rootBase ≤ a && a < rootEnd then
    match (List.range 16).find? fun p => panelLive s p && (panelOf s p).regions.any fun e =>
        e.2.valid && e.2.kind == 2 && e.2.base ≤ a && a ≤ e.2.limit with
    | some p => some p
    | none => ownerOfRoot s (rootPortOf s a)
  else none

/-- Block that reports a unit: Crown stack or Root port. -/
def unitBlock (s : State) (u : Nat) : Nat :=
  if u < crownEnd then 0x4000 + u / stackSize else 0x5000 + rootPortOf s u

/-! ### Ends of a restore -/

/-- Set a restore knot of panel p (R160). -/
def setRestoreKnot (p i v : Nat) (s : State) : State :=
  let k := knotIdx (lowCore s p) (248 + i)
  evalWaiters k (setKnot k { knotOf s k with value := BitVec.ofNat 48 v, poisoned := false } s)

/-- A free restore knot. -/
def freeRestoreKnot (s : State) (p : Nat) : Option Nat :=
  (List.range 8).find? fun i => !s.restores.any fun r => r.panel == p && r.knot == some i

def restoreKnotAddr (s : State) (p i : Nat) : Nat := knotAddr s (knotIdx (lowCore s p) (248 + i))

/-- Give a free restore knot to the oldest restore of panel p that has none; in host-assisted mode ask the host (R161). -/
def grantRestoreKnot (p : Nat) (s : State) : State :=
  match s.restores.find? (fun r => r.panel == p && r.knot.isNone), freeRestoreKnot s p with
  | some r, some i =>
    let s := setRestoreKnot p i 0 { s with restores := s.restores.map fun q => if q = r then { q with knot := some i } else q }
    if r.host then
      postPanel p 0x2604 (unitBlock s r.line) r.line (restoreKnotAddr s p i) s
    else s
  | _, _ => s

/-- Moves parked on unit u, with their core. -/
def parkedOn (s : State) (u : Nat) : List (Nat × Move) :=
  s.cores.flatMap fun e => (e.2.moves.filter fun m => m.parked == some u).map fun m => (e.1, m)

/-- Release the moves parked on unit u. With `keep` they hold the reconstructed data of a line whose port stays down. -/
def unpark (u : Nat) (keep : Bool) (x : Core) : Core :=
  { x with moves := x.moves.map fun m =>
      if m.parked == some u then { m with parked := none, served := if keep then u :: m.served else m.served } else m }

/-- A line of a port that is down has been reconstructed: the streamer of panel p and the table engines hold it too. -/
def serveOthers (u p : Nat) (s : State) : State :=
  { updPanel p (fun x => { x with streamer := x.streamer.map fun t => { t with served := u :: t.served } }) s with
    tables := s.tables.map fun e => if e.2.owner = some p then (e.1, { e.2 with served := u :: e.2.served }) else e }

/-- Consumers of unit u are released; its restore knot shows v. -/
def endRestore (u v : Nat) (s : State) : State :=
  match s.restores.find? (·.line == u) with
  | none => s
  | some r =>
    let keep := v == 1 && portGone s u
    let s := (s.cores.map (·.1)).foldl (fun s c => updCore c (unpark u keep) s)
      { s with restores := s.restores.filter fun q => q.line != u }
    let s := if keep then serveOthers u r.panel s else s
    let s := match r.knot with
      | some i => setRestoreKnot r.panel i v s
      | none => s
    grantRestoreKnot r.panel s

/-- A SWATCH-WRITE whose source is lost marks the swatch at its destination (R188): POISON is written as any byte of the move
is, and left out where the move may not write it. -/
def poisonSwatch (c : Nat) (m : Move) (s : State) : State :=
  if m.d.kind ≠ 2 then s
  else
    let run := (m.d.run (min m.landed (m.d.total - 1) / m.d.n0)).2
    let a := shiftAddrOn s c run.toNat + m.d.n0 - 63
    match panelOnCore s c with
    | none => s
    | some p =>
      if run < 0 || !grants s p true a 1 || (lostPartly s a 1).isSome then s
      else if hostBase ≤ a then
        match translate (windowOf a).1 (windowOf a).2.1 (windowOf a).2.2 s with
        | (.ok bus, s) => portSend (windowOf a).1 (.write bus [1]) s
        | (.fault _, s) => s
      else writeBytes a [1] s

/-- Add a unit to the lost ones. -/
def addLost (u : Nat) (s : State) : State :=
  if s.lostLines.contains u then s else { s with lostLines := s.lostLines ++ [u] }

/-- Abort the kernels of every consumer parked on a unit. -/
def abortParked (u code : Nat) (s : State) : State :=
  (parkedOn s u).foldl (fun s e => abortKernel e.2.kid code (poisonSwatch e.1 e.2 s)) s

/-- A line is lost (R158 step 3). -/
def loseUnit (u p cause : Nat) (s : State) : State :=
  let s := abortParked u 0x2601 (odCount 0x2601 8 1 (addLost u s))
  endRestore u 2 (postPanel p 0x2601 (unitBlock s u) u cause s)

/-- Restores of panel p that hold a restore knot and that no way is open to end as losses; the knots that they free let later
ones go on (R160). -/
def settleRestores (p : Nat) : Nat → State → State
  | 0, s => s
  | fuel + 1, s =>
    match s.restores.findSome? fun r =>
        if r.panel == p && r.knot.isSome && !r.host then
          match restorePath s p r.line r.swatch with
          | .lost cause => some (r.line, cause)
          | _ => none
        else none with
    | some (u, cause) => settleRestores p fuel (loseUnit u p cause s)
    | none => s

/-- A restore ends with value v, and what that lets go on. -/
def finishRestore (u p v : Nat) (s : State) : State :=
  let s := endRestore u v s
  settleRestores p (s.restores.length + 1) s

/-- A read failed on unit u (R157): its restore begins. -/
def readFail (u : Nat) (swatch : Bool) (s : State) : State :=
  if s.restores.any (·.line == u) || s.lostLines.contains u then s
  else
    match memOwner s u with
    | none => s
    | some p =>
      let s := grantRestoreKnot p { s with restores := s.restores ++ [⟨u, p, none, swatch, odGet s 0x2600 3 == 1⟩] }
      settleRestores p (s.restores.length + 1) s

/-! ### What a reader meets -/

/-- The first unit of [a, a + n) on which a read must wait, and whether it is lost. -/
def readBlock (s : State) (a n : Nat) : Option (Nat × Bool) :=
  match s.restores.find? (fun r => overlap a n r.line (unitLen r.line)) with
  | some r => some (r.line, false)
  | none => (lostIn s a n).map fun u => (u, true)

/-- The unit of the areas on which a consumer must wait, and whether it is lost; a line of a port that is down begins its restore
now. `served` are lines that the consumer holds already. -/
def readMeets (served : List Nat) (areas : List (Nat × Nat)) (s : State) : Option (Nat × Bool) × State :=
  match areas.findSome? fun e =>
      ((s.restores.filter fun r => !served.contains r.line).find? fun r => overlap e.1 e.2 r.line (unitLen r.line)).map
        (·.line, false) |>.or ((lostIn s e.1 e.2).bind fun u => if served.contains u then none else some (u, true)) with
  | some x => (some x, s)
  | none =>
    match areas.findSome? fun e => (goneLines s e.1 e.2).find? fun u => !served.contains u with
    | some u =>
      let s := readFail u false s
      (some (u, s.lostLines.contains u), s)
    | none => (none, s)

/-- What a reader meets that R157 does not name as a consumer (a snapshot, a MODEL record's copy, a collective): it is not parked,
and lines of a port that is down are reconstructed as it reads them (DESIGN CHOICE). -/
def hubMeets (areas : List (Nat × Nat)) (s : State) : Option (Nat × Bool) × State :=
  match areas.findSome? fun e => readBlock s e.1 e.2 with
  | some x => (some x, s)
  | none =>
    let gone := areas.flatMap fun e => goneLines s e.1 e.2
    match gone.find? fun u => !canRebuild s u with
    | some u =>
      let s := readFail u false s
      (some (u, s.lostLines.contains u), s)
    | none => (none, odCount 0x2601 6 gone.length s)

/-! ### Regeneration -/

/-- One element of swatch i of a copy: its code, from the master and the annex (R55, R159). -/
def regenCode (s : State) (e : Regen) (g : Swatch) (annex i r j : Nat) : Nat :=
  let t := (e.dout + 127) / 128
  let row := i / max t 1 * g.rows + r
  let col := i % max t 1 * 128 + j
  if e.din ≤ row || e.dout ≤ col then 0
  else
    let w := BitVec.ofNat 32 (readNat s (e.master + 4 * (row * e.dout + col)) 4)
    let rd := roundOf e.rounding 0
    if e.fmt = 0x10 then packIeee 8 7 rd (f32val w)
    else if !hasScale e.fmt then (if isNan32 w then 0x7F else (encodeElem e.fmt 0 rd (f32val w)).1)
    else
      let sc := (readNat s (annex + 128 * (r / 32) + j) 1)
      let gu := if e.fmt = 0x03 then gussetOf (BitVec.ofNat 8 (readNat s (annex + g.scales + 128 * (r / 32) + j) 1)) (r % 32 / 8) else 0
      if sc = 0xFF then 0 else (encodeElem e.fmt ((sc : Int) - 127 - (gu : Nat)) rd (f32val w)).1

/-- The regenerated swatch. -/
def regenBytes (s : State) (e : Regen) (g : Swatch) (i : Nat) : Bytes :=
  let annex := e.shadow + i * g.annex
  padTo g.slot ((List.range g.rows).flatMap fun r =>
    packCodes e.fmt ((List.range 128).map fun j => regenCode s e g annex i r j)) ++ readBytes s annex g.annex

/-- The rows of the master that swatch i is made of, as areas. -/
def masterAreas (e : Regen) (g : Swatch) (i : Nat) : List (Nat × Nat) :=
  let t := max ((e.dout + 127) / 128) 1
  (List.range g.rows).filterMap fun r =>
    let row := i / t * g.rows + r
    let n := min 128 (e.dout - i % t * 128)
    if e.din ≤ row then none else some (e.master + 4 * (row * e.dout + i % t * 128), 4 * n)

/-- The annex of swatch i. -/
def annexArea (e : Regen) (g : Swatch) (i : Nat) : Nat × Nat := (e.shadow + i * g.annex, g.annex)

/-- First area that a regeneration reads and cannot: lost data, or a port that is down with no row to rebuild from. A shadow
annex that cannot be read counts as the master (DESIGN CHOICE: the rule names the master only). -/
def masterFails (s : State) (e : Regen) (g : Swatch) (i : Nat) : Option Nat :=
  ((masterAreas e g i ++ [annexArea e g i]).find? fun a =>
    (lostIn s a.1 a.2).isSome || (goneLines s a.1 a.2).any fun u => !canRebuild s u).map (·.1)

/-- First area that a regeneration reads or writes outside the panel's grants (R17). -/
def regenRegion (s : State) (p : Nat) (e : Regen) (g : Swatch) (i : Nat) : Option Nat :=
  match (masterAreas e g i ++ [annexArea e g i]).find? fun a => !grants s p false a.1 a.2 with
  | some a => some a.1
  | none => if grants s p true (e.copy + i * g.size) g.size then none else some (e.copy + i * g.size)

/-- The unit under restore is lost to its consumers, with an event of another code than 0x2601. -/
def failRegen (u p code a b : Nat) (s : State) : State :=
  finishRestore u p 2 (postPanel p code (unitBlock s u) a b (abortParked u code (addLost u s)))

/-- A regeneration ends (R159): the swatch is written back, or its master is lost. An access outside the panel's grants ends it as
R17 says; no kernel issued it, so the event's tag is 0 (DESIGN CHOICE). -/
def doRegenerate (u : Nat) (s : State) : State :=
  match s.restores.find? (fun r => r.line == u && !r.host && r.knot.isSome) with
  | none => s
  | some r =>
    match restorePath s r.panel u r.swatch, regenFor s r.panel u with
    | .regenerate, some (e, g, i) =>
      match regenRegion s r.panel e g i with
      | some a => failRegen u r.panel 0x3001 a 0 s
      | none =>
        match masterFails s e g i with
        | some m => failRegen u r.panel 0x2602 (e.copy + i * g.size) m s
        | none =>
          let areas := masterAreas e g i ++ [annexArea e g i]
          let gone := (areas.flatMap fun a => goneLines s a.1 a.2).eraseDups
          let s := areas.foldl (fun s a => noteRead a.1 a.2 s) (odCount 0x2601 6 gone.length s)
          finishRestore u r.panel 1 (odCount 0x2601 7 1 (writeBytes (e.copy + i * g.size) (regenBytes s e g i) s))
    | .lost cause, _ => let s := loseUnit u r.panel cause s; settleRestores r.panel (s.restores.length + 1) s
    | _, _ => s

/-- A reconstruction ends (R158): the line is good, or the next way is taken. -/
def doReconstruct (u : Nat) (s : State) : State :=
  match s.restores.find? (fun r => r.line == u && !r.host && r.knot.isSome) with
  | none => s
  | some r =>
    match restorePath s r.panel u r.swatch with
    | .rebuild => finishRestore u r.panel 1 (odCount 0x2601 6 1 { s with lostLines := s.lostLines.filter (· != u) })
    | .regenerate => s
    | .lost cause => let s := loseUnit u r.panel cause s; settleRestores r.panel (s.restores.length + 1) s

end Sys2Proof.Machine
end

