-- ==== Sys2Proof/Machine/Mover.lean ====
section
/-! DEFINITION. The mover (R171–R188): descriptors and their checks, requests, merging, delivery, completion records, faults
in host windows, and retirement. A request lands in the step that issues it (any order is allowed, R178), so no tag and no
tracker entry is ever held from one step to the next (R176). -/
namespace Sys2Proof.Machine

/-! ### Descriptors (Table 8.1) -/

def signed40 (v : Nat) : Int := (BitVec.ofNat 40 v).toInt

/-- The descriptor at address `a` of core c's store. -/
def readDesc (s : State) (c a : Nat) : Desc × Nat :=
  let b := storeRead s c a 64
  let f := fieldNat b 12 1
  let sb := fieldNat b 31 1
  ({ addr := a, src := fieldNat b 0 6, dst := fieldNat b 6 6, kind := f % 16, records := bitOf f 4, nomerge := bitOf f 5
     resume := bitOf f 6, chunk := fieldNat b 13 1, xfer := fieldNat b 14 2, n0 := fieldNat b 16 3 + 1
     n1 := fieldNat b 19 3 + 1, n2 := fieldNat b 22 3 + 1, n3 := fieldNat b 25 3 + 1, n4 := fieldNat b 28 3 + 1
     sides := BitVec.ofNat 4 sb, st1 := signed40 (fieldNat b 32 5), st2 := signed40 (fieldNat b 37 5)
     st3 := signed40 (fieldNat b 42 5), st4 := signed40 (fieldNat b 47 5) }, sb)

/-- The cursor's indices (bytes 52–63). -/
def readCursor (s : State) (c a : Nat) : List Nat :=
  (List.range 4).map fun i => storeNat s c (a + 52 + 3 * i) 3

/-- Run index of a cursor; none when an index is outside its count. -/
def cursorRun (d : Desc) (cur : List Nat) : Option Nat :=
  let i := cur.getD 0 0
  let j := cur.getD 1 0
  let k := cur.getD 2 0
  let l := cur.getD 3 0
  if i < d.n1 && j < d.n2 && k < d.n3 && l < d.n4 then some (i + d.n1 * (j + d.n2 * (k + d.n3 * l))) else none

def Desc.chunks (d : Desc) : Nat := (d.runs + 2 ^ d.chunk - 1) / 2 ^ d.chunk

/-- Does an address lie in the host windows. -/
def inHost (a : Int) : Bool := decide ((hostBase : Int) ≤ a) && decide (a < (hostEnd : Int))

/-- Port of an address in the host windows. -/
def portOfAddr (a : Nat) : Nat := (windowOf a).1

/-- Does the destination run lie in the windows of the port of address `a` (R181). -/
def runInPort (a : Nat) (dst : Int) (n : Nat) : Bool :=
  let lo : Int := ((hostBase + portOfAddr a * 2 ^ 43 : Nat) : Int)
  decide (lo ≤ dst) && decide (dst + n ≤ lo + 2 ^ 43)

/-- Entry `mover.record_base` of panel p and port h. -/
def recordBase (s : State) (p h : Nat) : Nat := odGet s 0x2705 (4 * p + h + 1)

/-- Where a resumed transfer starts (R174): the cursor's run when the flags and the cursor are sound. -/
def resumeRun (s : State) (c : Nat) (d : Desc) (status : Nat) : Option Nat :=
  if !d.resume then some 0
  else if !bitOf status 4 && !bitOf status 5 then none
  else match cursorRun d (readCursor s c d.addr) with
    | some L => if L % 2 ^ d.chunk = 0 then some L else none
    | none => none

/-- Cause of event 0x2703, if the descriptor is refused (R173, R174, R181). -/
def descCause (s : State) (c p : Nat) (d : Desc) (status : Nat) (stream : Bool) : Option Nat :=
  let first := d.run ((resumeRun s c d status).getD 0)
  let rules :=
    (!stream || d.dst = 0) &&
    (d.kind ≠ 3 || (d.n0 = 64 && d.runs = 1 && d.dst = 0)) &&
    (d.kind ≠ 4 || d.src = 0) &&
    (d.kind ≠ 5 || d.sides = 0)
  let recOk := !d.records || (!stream && d.kind ≠ 3 && d.kind ≠ 5 && inHost (d.run 0).2 &&
    runInPort (d.run 0).2.toNat (d.run 0).2 d.n0 && recordBase s p (portOfAddr (d.run 0).2.toNat) ≠ 0 && d.chunks < 2 ^ 32)
  if 5 < d.kind || (stream && 1 < d.kind) then some 1
  else if 24 < d.chunk then some 2
  else if (resumeRun s c d status).isNone then some 3
  else if !recOk then some 4
  else if d.kind ≠ 4 && inHost first.1 then some 5
  else if !rules then some 6
  else if (d.kind = 1 || d.kind = 2) && !swatchSize d.n0 then some 7
  else none

def descRefuse (c : Nat) (ca : BitVec 24) (cause : Nat) (s : State) : State :=
  coreAbort c 0x2703 (ca.toNat + 2 ^ 32 * cause) s

/-! ### Sends (R274) -/

def sendRec (s : State) (a : Nat) : SendRec :=
  let b := readBytes s a 32
  let f := fieldNat b 2 1
  { qp := fieldNat b 0 2 % 4096, sprayed := bitOf f 0, trail := bitOf f 1
    msg := BitVec.ofNat 32 (fieldNat b 4 4), op := (b.drop 8).take 16 }

/-- Cause of event 0x3202, if the send is refused. -/
def sendCause (s : State) (p : Nat) (d : Desc) (r : SendRec) : Option Nat :=
  let x := qpOf s r.qp
  if x.st ≠ .ready || x.control || x.owner ≠ p then some 1
  else if r.trail && r.sprayed then some 2
  else if 2 ^ 32 - 17 < d.total then some 3
  else none

/-- Knot address of a trailing operation. -/
def trailAddr (r : SendRec) (trail : Bool) : Nat := if trail then fieldNat r.op 0 4 else 0

/-- Cut a message into packets (R274): 4,096 bytes each but the last; the trailing operation ends the last one, or has one of
its own. -/
def cutMessage (op : Bytes) (trail : Bool) (data : Bytes) : List (Nat × Bytes × Bool) :=
  let ps := (pieces 4096 (data.length / 4096 + 1) data).zipIdx.map fun e => (4096 * e.2, e.1, false)
  if !trail then ps
  else
    match ps.getLast? with
    | none => [(0, op, true)]
    | some (o, b, _) =>
      if b.length + 16 ≤ 4096 then ps.dropLast ++ [(o, b ++ op, true)] else ps ++ [(data.length, op, true)]

/-- Queue every packet of a message on its QP. -/
def sendMessage (c m kid : Nat) (r : SendRec) (data : Bytes) (s : State) : State :=
  let ps := cutMessage r.op r.trail data
  ps.zipIdx.foldl (fun s e =>
    let h := qpHdr s r.qp 0x01 (if r.sprayed then 1 else 0) e.1.2.1
    qpSend r.qp
      { pkt := { hdr := { h with first := e.2 == 0, last := e.2 + 1 == ps.length, trail := e.1.2.2
                                 msg := r.msg, off := BitVec.ofNat 32 e.1.1 }
                 ce := false, payload := e.1.2.1, tag := [] }
        core := c, move := m, kid := kid, resends := 0, nak := 0, backoffUs := 0, addr := trailAddr r e.1.2.2 } s) s

/-! ### Acceptance -/

/-- A MOVE or STREAM that starts (R173, R174). `ca` is the descriptor operand. -/
def startMove (c p : Nat) (x : Core) (ca : BitVec 24) (channel : Option Nat) (s : State) : Start :=
  let a := caAddr x ca
  match badOperand [(a, 64)] with
  | some b => .stop (coreAbort c 0x2302 b s)
  | none =>
    let (d, status) := readDesc s c a
    match descCause s c p d status channel.isSome with
    | some cause => .stop (descRefuse c ca cause s)
    | none =>
      let L := (resumeRun s c d status).getD 0
      let y := coreOf s c
      let m : Move :=
        { id := y.nextMove, kid := y.kid, ca := ca.toNat, d := d, channel := channel, pos := L * d.n0, landed := L * d.n0
          recorded := max (L / 2 ^ d.chunk) (if y.replaying then sget 0 y.recCounts d.xfer else 0)
          finalRec := !d.records || (y.replaying && d.chunks ≤ sget 0 y.recCounts d.xfer)
          parked := none, fault := none, faultNo := none, stopped := false, hostlost := false, data := []
          handed := false, done := false }
      if d.kind = 5 then
        let at_ := shiftAddrOn s c d.dst
        if !grants s p false at_ 32 then .stop (regionAbort c at_ s)
        else
          match sendCause s p d (sendRec s at_) with
          | some cause => .stop (coreAbort c 0x3202 (at_ + 2 ^ 56 * cause) s)
          | none => .started false (updCore c (fun y => { y with
              moves := y.moves ++ [{ m with send := some (sendRec s at_) }], nextMove := y.nextMove + 1 }) s)
      else .started false (updCore c (fun y => { y with moves := y.moves ++ [m], nextMove := y.nextMove + 1 }) s)

/-! ### Requests (R175) -/

def updMove (c id : Nat) (f : Move → Move) (s : State) : State :=
  updCore c (fun x => { x with moves := x.moves.map fun m => if m.id == id then f m else m }) s

def moveOf (s : State) (c id : Nat) : Option Move := (coreOf s c).moves.find? (·.id == id)

/-- Does the move issue nothing more for now. -/
def Move.halted (m : Move) : Bool :=
  m.stopped || m.hostlost || m.done || m.fault.isSome || m.handed || m.d.total ≤ m.pos

/-- The move whose turn it is: the first that is not halted, and none while that one is parked (R178). -/
def issuing (x : Core) : Option Move :=
  match x.moves.find? (fun m => !m.halted) with
  | some m => if m.parked.isSome then none else some m
  | none => none

/-- Does a kind read a source, and does it write a destination. -/
def Move.reads (m : Move) : Bool := m.d.kind ≠ 4
def Move.writes (m : Move) : Bool := m.channel.isNone && m.d.kind ≠ 3 && m.d.kind ≠ 5

def to4k (a : Int) : Nat := 4096 - (a % 4096).toNat

/-- The next request of a move: source, destination, length (R175). Every division of R175 is a multiple of 4 KiB. -/
def Move.request (m : Move) : Int × Int × Nat :=
  let r := m.d.run (m.pos / m.d.n0)
  let o := m.pos % m.d.n0
  let src := r.1 + o
  let dst := r.2 + o
  let n := m.d.n0 - o
  let n := if m.reads then min n (to4k src) else n
  (src, dst, if m.writes then min n (to4k dst) else n)

/-- The move ends without completing: its kernel was aborted for a request of it. -/
def endMoves (c : Nat) (ids : List (Nat × Nat)) (s : State) : State :=
  ids.foldl (fun s e => updMove c e.1 (fun m => { m with done := true }) s) s

/-- The first 4 KiB piece of [a, a + n) that the panel may not read. -/
def firstRefused (s : State) (p a n : Nat) : Option Nat :=
  let at_ (i : Nat) : Nat := if i = 0 then a else (a / 4096 + i) * 4096
  ((List.range ((a + n - 1) / 4096 + 1 - a / 4096)).find? fun i =>
    !grants s p false (at_ i) (min (at_ (i + 1)) (a + n) - at_ i)).map at_

/-- Put a request's moves back to what has landed, and mark them. -/
def rollBack (c : Nat) (ids : List (Nat × Nat)) (f : Move → Move) (s : State) : State :=
  ids.foldl (fun s e => updMove c e.1 (fun m => f { m with pos := m.landed }) s) s

/-- Bytes [o, o + n) of the swatch run at `src` as a SWATCH-WRITE delivers them: CRC-32 in seal bytes 28–31 (R188). -/
def sealedBytes (s : State) (src n0 o n : Nat) : Bytes × State :=
  let b := readBytes s src n0
  let at28 := n0 - 64 + 28
  let (crc, s) := match swatchOf (b.getD (n0 - 64) 0) with
    | some g => if g.size = n0 then ((swatchCrc g b).toNat, s) else let v := freshVal s; (v.1.toNat % 2 ^ 32, v.2)
    | none => let v := freshVal s; (v.1.toNat % 2 ^ 32, v.2)
  (((patch b at28 (toLe 4 crc)).drop o).take n, s)

/-- The port refuses to carry a device write because its host is lost (R309). -/
def hostGone (s : State) (a : Nat) : Bool := inHost a && (portOf s (portOfAddr a)).st = .hostlost

/-- Write delivered bytes at a device address: through a port, to the seam's doorbell on a control page (R228), or into memory. -/
def deliver (a : Nat) (bus : Option Nat) (b : Bytes) (s : State) : State :=
  match bus with
  | some x => portSend (portOfAddr a) (.write x b) s
  | none =>
    if ctlBase ≤ a && a < ctlBase + 0x10_0000 then
      { s with seam := { s.seam with inbox := s.seam.inbox ++
          [((a - ctlBase) / 0x1_0000, ((List.replicate (a % 64) 0 ++ b ++ List.replicate 64 0).take 64))] } }
    else writeBytes a b s

/-- What a request delivers, and where. -/
def deliverReq (c : Nat) (m : Move) (r : MergeReq) (bus : Option Nat) (s : State) : State :=
  let s := if m.reads then noteRead r.src r.len s else s
  let (b, s) :=
    if m.d.kind = 4 then (List.replicate r.len 0, s)
    else if m.d.kind = 2 then
      sealedBytes s (r.src - m.landed % m.d.n0) m.d.n0 (m.landed % m.d.n0) r.len
    else (readBytes s r.src r.len, s)
  match m.channel with
  | some ch => updCore c (fun x => { x with chans := sset [] x.chans ch (sget [] x.chans ch ++ b) }) s
  | none =>
    if m.d.kind = 5 || m.d.kind = 3 then updMove c m.id (fun v => { v with data := v.data ++ b }) s
    else deliver r.dst bus b s

/-- The whole of a move has been gathered: a table request goes to the tile's engine, a message to its QP. A move that has ended
(R270, R281) hands over nothing. -/
def handOver (c p : Nat) (m : Move) (s : State) : State :=
  match moveOf s c m.id with
  | none => s
  | some v =>
    if v.landed < v.d.total || v.done then s
    else if v.d.kind = 3 then
      updMove c v.id (fun v => { v with handed := true }) { s with tableQ := s.tableQ ++
        [(c / 32, { core := c, move := v.id, kid := v.kid, panel := p, addr := v.d.src, req := v.data })] }
    else
      match v.send with
      | some r => sendMessage c v.id v.kid r v.data (updMove c v.id (fun v => { v with handed := true }) s)
      | none => s

/-- Mover counters count open panels (R189). -/
def moverCount (p sub n : Nat) (s : State) : State := if secure s p then s else odCount 0x2701 sub n s

/-- A move's share of a request has landed: its position, the reconstructed lines that it has used up, and, where the port is not
up, the position from which the port's replay buffer holds its writes. -/
def Move.landsOn (s : State) (r : MergeReq) (n : Nat) (v : Move) : Move :=
  let h := portOfAddr r.dst
  { v with
    landed := v.landed + n
    served := v.served.filter fun u => !(u + 256 ≤ r.src + r.len)
    heldAt := if v.writes && inHost r.dst && (portOf s h).st ≠ .up && !v.heldAt.any (·.1 == h) then v.heldAt ++ [(h, v.landed)]
      else v.heldAt }

/-- Bytes of a request have landed, move by move. -/
def landed (c p : Nat) (m : Move) (r : MergeReq) (s : State) : State :=
  let s := r.moves.foldl (fun s e => updMove c e.1 (Move.landsOn s r e.2) s) s
  let s := moverCount p 2 r.len s
  let s := if m.d.kind = 2 && (m.landed + r.len) % m.d.n0 = 0 then moverCount p 7 1 s else s
  handOver c p m s

/-- A read of the request met bad data: park its moves on the unit, or end their kernel when it is lost (R157, R158). -/
def meetBad (c : Nat) (m : Move) (r : MergeReq) (u : Nat) (lost : Bool) (s : State) : State :=
  if lost then endMoves c r.moves (abortKernel m.kid 0x2601 (poisonSwatch c m s))
  else rollBack c r.moves (fun v => { v with parked := some u }) s

/-- Does a request begin a run that is checked whole before its first byte lands (R188). -/
def Move.opensSwatch (m : Move) : Bool := m.d.kind = 1 && m.landed % m.d.n0 = 0

/-- The unit of the source that stops the read of a request, after a failure found now has begun its restore; `none` when
the data is good. -/
def readCheck (m : Move) (r : MergeReq) (s : State) : Option (Nat × Bool) × State :=
  if !m.reads then (none, s)
  else
    match readMeets m.served [(r.src, if m.opensSwatch then m.d.n0 else r.len)] s with
    | (some u, s) => (some u, s)
    | (none, s) =>
      if m.opensSwatch && !swatchGood (readBytes s r.src m.d.n0) then
        let u := unitOf r.src
        let s := readFail u true (odCount 0x2601 9 1 s)
        (some (u, s.lostLines.contains u), s)
      else (none, s)

/-! ### A lost host (R187) -/

/-- Does a number of runs from `L` on have a destination in the windows of port h. -/
def Desc.anyRunTo (d : Desc) (h : Nat) : Nat → Nat → Bool
  | 0, _ => false
  | fuel + 1, L => (inHost (d.run L).2 && portOfAddr (d.run L).2.toNat == h) || d.anyRunTo h fuel (L + 1)

/-- Lowest and highest destination that the strides reach. -/
def Desc.dstSpan (d : Desc) : Int × Int :=
  d.dims.foldl (fun (lo, hi) (n, st, onDst) =>
    if onDst then (lo + min 0 ((n - 1 : Nat) * st), hi + max 0 ((n - 1 : Nat) * st)) else (lo, hi))
    ((d.dst : Int), (d.dst : Int) + d.total)

/-- Has a move writes in the windows of port h. -/
def Move.writesPort (m : Move) (h : Nat) : Bool :=
  m.writes && decide ((hostBase : Int) ≤ m.d.dstSpan.2) && decide (m.d.dstSpan.1 < (hostEnd : Int)) &&
    m.d.anyRunTo h m.d.runs 0

/-- Chunks wholly delivered. -/
def Move.chunksDone (m : Move) : Nat :=
  if m.d.total ≤ m.landed then m.d.chunks else m.landed / m.d.n0 / 2 ^ m.d.chunk

/-- Write the cursor of run L and the status bits STOPPED and HOSTLOST. -/
def writeStatus (c : Nat) (d : Desc) (L : Nat) (stopped hostlost : Bool) (s : State) : State :=
  let s := storeWrite c (d.addr + 52) ((d.cursor L).flatMap (toLe 3)) s
  storeWrite c (d.addr + 31) (toLe 1 (d.sides.toNat + 16 * stopped.toNat + 32 * hostlost.toNat)) s

/-- Pending fault of a number in a panel. -/
def faultBy (s : State) (p number : Nat) : Option PendFault := (panelOf s p).faults.find? (·.number == number)

def dropFault (p number : Nat) (s : State) : State :=
  updPanel p (fun x => { x with faults := x.faults.filter (·.number != number) }) s

/-- A host reset on port h stops a move with writes in its windows (R187): the cursor goes to the first chunk that holds a
discarded write, and a fault pending on the move is withdrawn. Records of chunks that are delivered again are written again. -/
def loseHost (h c : Nat) (m : Move) (s : State) : State :=
  if m.done || m.handed || !m.writesPort h then s
  else
    let from_ := match m.heldAt.find? (·.1 == h) with
      | some e => min m.chunksDone (e.2 / m.d.n0 / 2 ^ m.d.chunk)
      | none => m.chunksDone
    let s := match panelOnCore s c with
      | some p => updPanel p (fun x => { x with faults := x.faults.filter fun f => !(f.core == c && f.move == m.id) }) s
      | none => s
    writeStatus c m.d (from_ * 2 ^ m.d.chunk) false true (updMove c m.id (fun v => { v with
      hostlost := true, stopped := false, fault := none, faultNo := none, owed := none, heldAt := [], pos := v.landed
      recorded := min v.recorded from_, finalRec := v.finalRec && (!v.d.records || from_ == v.d.chunks) }) s)

/-- A request met a port whose host is lost: the write is discarded, and its moves stop as at the loss. -/
def meetLost (c h : Nat) (r : MergeReq) (s : State) : State :=
  r.moves.foldl (fun s e => match moveOf s c e.1 with
    | some v => loseHost h c v s
    | none => s) (portCount h 80 1 s)

/-- Issue one request (R17, R157, R175, R183, R187). -/
def issueReq (c p : Nat) (m : Move) (r : MergeReq) (s : State) : State :=
  if m.writes && !grants s p true r.dst r.len then endMoves c r.moves (regionAbort c r.dst s)
  else if m.reads && (inHost r.src || !grants s p false r.src r.len) then endMoves c r.moves (regionAbort c r.src s)
  else if m.opensSwatch && (firstRefused s p r.src m.d.n0).isSome then
    endMoves c r.moves (regionAbort c ((firstRefused s p r.src m.d.n0).getD 0) s)
  else if m.reads && within r.src r.len (coreStore c) (coreStore c + storeSize - 1) && badIn s r.src r.len then
    endMoves c r.moves (poisonLoss c s)
  else
    match readCheck m r s with
    | (some (u, lost), s) => meetBad c m r u lost s
    | (none, s) =>
      let s := moverCount p 1 1 s
      if !m.writes then landed c p m r (deliverReq c m r none s)
      else if (lostPartly s r.dst r.len).isSome then endMoves c r.moves (abortKernel m.kid 0x2601 s)
      else if inHost r.dst then
        if hostGone s r.dst then meetLost c (portOfAddr r.dst) r s
        else
          match translate (portOfAddr r.dst) (windowOf r.dst).2.1 (windowOf r.dst).2.2 s with
          | (.fault cause, s) => rollBack c r.moves (fun v => { v with fault := some (r.dst, cause) }) s
          | (.ok bus, s) => landed c p m r (deliverReq c m r (some bus) s)
      else landed c p m r (deliverReq c m r none s)

/-- Has a move stopped issuing what waits: it is stopped, faulted or ended. -/
def Move.cut (m : Move) : Bool := m.stopped || m.hostlost || m.done || m.fault.isSome

/-- Issue the request that waits in the merge stage; one of a move that has stopped is not issued (R183). -/
def flushMerge (c p : Nat) (s : State) : State :=
  match (coreOf s c).merge with
  | none => s
  | some r =>
    let s := updCore c (fun x => { x with merge := none }) s
    match r.moves with
    | [] => s
    | e :: _ =>
      match moveOf s c e.1 with
      | none => s
      | some m => if m.cut then rollBack c r.moves id s else issueReq c p m r s

/-- A request of move m is not issued and its kernel is aborted, unless the request that waits before it does that. -/
def stopAt (c p : Nat) (m : Move) (abort : State → State) (s : State) : State :=
  let s := flushMerge c p s
  match moveOf s c m.id with
  | none => s
  | some v => if v.done then s else endMoves c [(m.id, 0)] (abort s)

/-- May request r join the waiting request q (R177). -/
def canMerge (q r : MergeReq) : Bool :=
  q.kind = r.kind && (q.kind = 4 || q.src + q.len = r.src) && q.dst + q.len = r.dst &&
  q.len + r.len ≤ 4096 && (q.kind = 4 || r.src % 4096 ≠ 0) && r.dst % 4096 ≠ 0 &&
  (!inHost r.dst || q.moves.map (·.1) = r.moves.map (·.1))

/-- Put bytes behind a waiting request. -/
def joinMoves (a b : List (Nat × Nat)) : List (Nat × Nat) :=
  match a.getLast?, b with
  | some (i, n), [(j, k)] => if i = j then a.dropLast ++ [(i, n + k)] else a ++ b
  | _, _ => a ++ b

/-- MOVER_REQUEST_ISSUE: the next request of the core's mover is issued, or waits in the merge stage. -/
def issueNext (c p : Nat) (s : State) : State :=
  match issuing (coreOf s c) with
  | none => s
  | some m =>
    let (src, dst, n) := m.request
    let outside (a : Int) : Bool := decide (a < 0) || decide (2 ^ 48 < a + n)
    if m.d.records && m.writes && !runInPort (m.d.run 0).2.toNat (m.d.run (m.pos / m.d.n0)).2 m.d.n0 then
      stopAt c p m (fun s => coreAbort c 0x2703 (m.ca + 2 ^ 32 * 8) s) s
    else if (m.writes && outside dst) || (m.reads && outside src) then
      let a := if m.writes && outside dst then dst else src
      stopAt c p m (fun s => regionAbort c ((a % 2 ^ 64).toNat) s) s
    else
      let r : MergeReq := ⟨m.d.kind, shiftAddrOn s c src.toNat, shiftAddrOn s c dst.toNat, n, [(m.id, n)]⟩
      let short := n < 4096 && (m.d.kind = 0 || m.d.kind = 4) && m.channel.isNone && !m.d.nomerge && odGet s 0x2700 2 ≠ 0
      let s := updMove c m.id (fun v => { v with pos := v.pos + n }) s
      match (coreOf s c).merge with
      | some q =>
        if short && canMerge q r then
          let j : MergeReq := { q with len := q.len + n, moves := joinMoves q.moves r.moves }
          let s := moverCount p 3 1 (updCore c (fun x => { x with merge := some j }) s)
          if j.len < 4096 then s else flushMerge c p s
        else
          let s := flushMerge c p s
          match moveOf s c m.id with
          | none => s
          | some v =>
            if v.done || v.pos ≠ m.pos + n then s
            else if short then updCore c (fun x => { x with merge := some r }) s
            else issueReq c p { v with pos := m.pos } r s
      | none =>
        if short then updCore c (fun x => { x with merge := some r }) s else issueReq c p m r s

/-! ### Chunks and records (R181, R182) -/

/-- The 16 bytes of a completion record (Table 8.4). -/
def recordBytes (s : State) (c : Nat) (m : Move) (n status : Nat) : Bytes :=
  toLe 4 n ++ toLe 4 (tagOnCore s c) ++ [BitVec.ofNat 8 c, BitVec.ofNat 8 status, 0, 0] ++ toLe 4 m.d.chunks

/-- Address of the record of a move. -/
def recordAddr (s : State) (p : Nat) (m : Move) : Nat :=
  recordBase s p (portOfAddr (m.d.run 0).2.toNat) + 16 * m.d.xfer

/-- Write the record of a move, a request of it (R182). `onFault` is what a translation fault of its page does. -/
def writeRecord (c p : Nat) (m : Move) (n status : Nat) (onFault : Nat → Move → Move) (s : State) : State :=
  let a := recordAddr s p m
  let h := portOfAddr a
  if !grants s p true a 16 then endMoves c [(m.id, 0)] (regionAbort c a s)
  else
    let s := moverCount p 1 1 s
    if hostGone s a then loseHost h c m (portCount h 80 1 s)
    else
      match translate h (windowOf a).2.1 (windowOf a).2.2 s with
      | (.fault cause, s) => updMove c m.id (onFault cause) s
      | (.ok bus, s) =>
        updCore c (fun x => { x with recCounts := sset 0 x.recCounts m.d.xfer n })
          (updMove c m.id (fun v => { v with recorded := n, finalRec := v.finalRec || status == 1, owed := none })
            (portSend h (.write bus (recordBytes s c m n status)) s))

/-- The record of R183 step 4, once its page translates (R182). It never shows fewer chunks than a record before it did. -/
def writeOwed (c p id : Nat) (s : State) : State :=
  match moveOf s c id with
  | none => s
  | some m =>
    match m.owed with
    | none => s
    | some n => writeRecord c p m (max n m.recorded) 2 (fun _ v => v) s

/-- CHUNK_COMPLETE: the record shows every chunk delivered so far, also of a move that its kernel's abort ended; one that ended
because its record may not be written gets none. -/
def chunkDone (c p : Nat) (m : Move) (s : State) : State :=
  let n := m.chunksDone
  if !m.d.records || m.stopped || m.hostlost || m.fault.isSome || n ≤ m.recorded ||
    (m.done && !grants s p true (recordAddr s p m) 16) then s
  else
    writeRecord c p m n (if n = m.d.chunks then 1 else 0)
      (fun cause v => { v with fault := some (recordAddr s p m, cause) }) s

/-! ### Status in the descriptor -/

/-- A move that completes clears RESUME, STOPPED and HOSTLOST and sets the cursor to zero (R186). -/
def clearStatus (c : Nat) (d : Desc) (s : State) : State :=
  let f := storeNat s c (d.addr + 12) 1
  storeWrite c (d.addr + 12) (toLe 1 (f - if bitOf f 6 then 64 else 0)) (writeStatus c d 0 false false s)

/-- First run of the first chunk not wholly delivered, or, when a record could not be written, of the first chunk that no
record covers (R182, R183). -/
def stopRun (s : State) (p : Nat) (m : Move) : Nat :=
  let f := match m.fault with
    | some (a, _) => if m.d.records && a = recordAddr s p m then m.recorded else m.chunksDone
    | none => m.chunksDone
  min f m.chunksDone * 2 ^ m.d.chunk

/-! ### Faults (R183–R187) -/

/-- Install the next pool entry for a faulting page (R184); none when the pool is exhausted. -/
def takePool (p a : Nat) (s : State) : Option State :=
  let used := odGet s 0x2704 (p + 1)
  if odGet s 0x2703 (p + 1) ≤ used then none
  else
    let e := odGet s 0x2702 (p + 1) + 8 * used
    let (h, w, off) := windowOf a
    let b := slotOf s h w
    if !inOwnCrown s p e 8 then none
    else some (odPut 0x2704 (p + 1) (used + 1)
      (storeBytes (b.tabBase.toNat + 8 * (off / pageBytes b)) (readBytes s e 8) s))

/-- Go on from the cursor; a record still owed goes first. -/
def resumeMove (c p : Nat) (m : Move) (L : Nat) (s : State) : State :=
  writeStatus c m.d L false false (updMove c m.id (fun v => { v with
    pos := L * v.d.n0, landed := L * v.d.n0, fault := none, faultNo := none, stopped := false, hostlost := false
    heldAt := [] }) (writeOwed c p m.id s))

/-- Refer a fault to the host (R185). -/
def referFault (c p : Nat) (m : Move) (number a cause : Nat) (s : State) : State :=
  postPanel p 0x2701 (coreBlock s c) a (number + 2 ^ 16 * m.d.xfer + 2 ^ 32 * c + 2 ^ 40 * cause)
    (updPanel p (fun x => { x with faults := x.faults ++ [⟨number, m.kid, c, m.id, a, cause⟩] }) s)

/-- HOST_WINDOW_FAULT: the five steps of R183, then R184 or R185. -/
def handleFault (c p : Nat) (m : Move) (s : State) : State :=
  match m.fault, m.faultNo with
  | some (a, cause), none =>
    let L := stopRun s p m
    let n := (panelOf s p).nextFault
    let s := moverCount p 5 1 (writeStatus c m.d L true false (updPanel p (fun x => { x with nextFault := (n + 1) % 2 ^ 16 }) s))
    let s := updMove c m.id (fun v => { v with
      stopped := true, faultNo := some n, owed := if m.d.records then some (L / 2 ^ m.d.chunk) else none }) s
    let s := writeOwed c p m.id s
    if odGet s 0x2700 1 = 1 then referFault c p m n a cause s
    else if cause = 1 then
      match takePool p a s with
      | some s => resumeMove c p m L (moverCount p 6 1 s)
      | none => referFault c p m n a 3 s
    else referFault c p m n a cause s
  | _, _ => s

/-- FAULT_RESUME. -/
def resumeFault (p number : Nat) (s : State) : State :=
  match faultBy s p number with
  | none => s
  | some f =>
    match moveOf s f.core f.move with
    | none => dropFault p number s
    | some m => resumeMove f.core p m ((cursorRun m.d (readCursor s f.core m.d.addr)).getD 0) (dropFault p number s)

/-- The kernel of a pending fault ends; its move keeps STOPPED and its cursor and counts as retired (R186). -/
def abortFault (p number event : Nat) (s : State) : State :=
  match faultBy s p number with
  | none => s
  | some f => abortKernel f.kid event (dropFault p number s)

/-! ### Retirement (R178) -/

/-- Bytes that later moves of the core have put into a channel. -/
def laterBytes (x : Core) (ch id : Nat) : Nat :=
  (x.moves.filter fun m => m.channel == some ch && id < m.id).foldl (fun n m => n + m.landed) 0

/-- Is the transfer complete. -/
def moveComplete (x : Core) (m : Move) : Bool :=
  if m.done then true
  else if m.d.kind = 3 || m.d.kind = 5 then false
  else m.d.total ≤ m.landed && m.finalRec && m.fault.isNone && !m.stopped && !m.hostlost &&
    match m.channel with
    | some ch => (sget [] x.chans ch).length ≤ laterBytes x ch m.id
    | none => true

end Sys2Proof.Machine
end

