-- ==== Sys2Proof/Machine/Vector.lean ====
section
/-! DEFINITION. What the operations of the vector engine and of the function engine do when they start (R85–R92), apart
from the optimizer. -/
namespace Sys2Proof.Machine

/-- NaN in its one form, every other value unchanged (R85). -/
def canon32 (w : Word32) : Word32 := if isNan32 w then rne32 .nan else w

/-- The a CA that stands for drained rows (R86). -/
def drainedCA : BitVec 24 := 0xFFFFFF

/-- The elements that an operation asks of operand a: n of the flat form, or rows of a length. -/
inductive Shape where
  | flat (n : Nat)
  | rows (rows len : Nat)
deriving DecidableEq, Repr

def Shape.count : Shape → Nat
  | .flat n => n
  | .rows r l => r * l

/-- Do drained rows have the shape asked for: R86 pairs a drain with an operation of the same rows. -/
def Shape.fits (h : Shape) (d : DrainedRows) : Bool :=
  match h with
  | .flat n => d.rows * d.width == n
  | .rows r l => d.rows == r && d.width == l

/-- Operand a of a vector operation: elements of the store, or the oldest drained rows; none while those have not been
delivered. A shape that does not match is a host-made error, and the operand is free. -/
def operandA (c p : Nat) (x : Core) (fmt : Byte) (a : BitVec 24) (h : Shape) (s : State) : Option (List Word32 × State) :=
  let n := h.count
  if a = drainedCA then
    match (coreOf s c).drained with
    | [] => none
    | d :: rest =>
      let s := updCore c (fun y => { y with drained := rest }) s
      let fits := h.fits d
      some ((List.range n).map fun i => if fits then d.values.getD i 0 else openWord 0 i s, if fits then s else taint p s)
  else some (vecRead s c fmt (caAddr x a) n, s)

/-- Extent of operand a. -/
def extA (x : Core) (fmt : Byte) (a : BitVec 24) (n : Nat) : List (Nat × Nat) :=
  if a = drainedCA then [] else [(caAddr x a, n * vecBytes fmt)]

/-- Check the operands of an operation, then take operand a and go on. -/
def withA (c p : Nat) (x : Core) (fmt : Byte) (a : BitVec 24) (h : Shape) (ext : List (Nat × Nat)) (s : State)
    (go : List Word32 → State → State) : Start :=
  match badOperand (ext ++ extA x fmt a h.count) with
  | some b => .stop (coreAbort c 0x2302 b s)
  | none =>
    match operandA c p x fmt a h s with
    | none => .hold
    | some (v, s) => .started true (go v s)

/-! ### Flat operations -/

/-- VBIN's operation on two elements (Table 4.5). -/
def vbinOp (subop : Nat) (a b : Word32) : Word32 :=
  match subop with
  | 0 => add32 a b
  | 1 => sub32 a b
  | 2 => mul32 a b
  | 3 => max32 a b
  | 4 => min32 a b
  | _ => canon32 a

def startVBin (c p : Nat) (x : Core) (f : FlatF) (s : State) : Start :=
  let n := f.n1.toNat + 1
  let w := n * vecBytes f.fmt
  let copy := f.subop = 5
  withA c p x f.fmt f.a (.flat n) ((caAddr x f.dst, w) :: (if copy then [] else [(caAddr x f.b, w)])) s fun v s =>
    let b := if copy then v else vecRead s c f.fmt (caAddr x f.b) n
    vecWrite c f.fmt (caAddr x f.dst) (List.zipWith (vbinOp f.subop.toNat) v b) s

/-- dst := fma(a, b, dst). -/
def startVFma (c p : Nat) (x : Core) (f : FlatF) (s : State) : Start :=
  let n := f.n1.toNat + 1
  let w := n * vecBytes f.fmt
  withA c p x f.fmt f.a (.flat n) [(caAddr x f.dst, w), (caAddr x f.b, w)] s fun v s =>
    let b := vecRead s c f.fmt (caAddr x f.b) n
    let d := vecRead s c f.fmt (caAddr x f.dst) n
    vecWrite c f.fmt (caAddr x f.dst) (List.zipWith (fun ab z => fma32 ab.1 ab.2 z) (v.zip b) d) s

def vunOp (subop : Nat) (a : Word32) : Word32 :=
  match subop with
  | 0 => neg32 a
  | 1 => abs32 a
  | 2 => sqrt32 a
  | 3 => rsqrt32 a
  | 4 => recip32 a
  | _ => mul32 a a

def startVUn (c p : Nat) (x : Core) (f : FlatF) (s : State) : Start :=
  let n := f.n1.toNat + 1
  withA c p x f.fmt f.a (.flat n) [(caAddr x f.dst, n * vecBytes f.fmt)] s fun v s =>
    vecWrite c f.fmt (caAddr x f.dst) (v.map (vunOp f.subop.toNat)) s

/-! ### Row operations -/

/-- The rows of a flat list. -/
def splitRows (len : Nat) : Nat → List Word32 → List (List Word32)
  | 0, _ => []
  | n + 1, l => l.take len :: splitRows len n (l.drop len)

/-- One lane's elements folded in ascending order (R86). -/
def laneFold (subop : Nat) (p w : Word32) : Word32 :=
  match subop with
  | 0 => add32 p w
  | 1 => max32 p w
  | 2 => fma32 w w p
  | _ => max32 p (abs32 w)

/-- Partial of an empty lane: +0.0 for sums; for max and largest magnitude the value that changes nothing. -/
def laneZero (subop : Nat) : Word32 := if subop = 1 then rne32 (.inf true) else 0

/-- Two partials combined. -/
def laneJoin (subop : Nat) (a b : Word32) : Word32 :=
  if subop = 0 || subop = 2 then add32 a b else max32 a b

/-- One round: partials 2i and 2i + 1. -/
def laneRound (subop : Nat) : List Word32 → List Word32
  | a :: b :: l => laneJoin subop a b :: laneRound subop l
  | l => l

def laneRounds (subop : Nat) : Nat → List Word32 → List Word32
  | 0, l => l
  | n + 1, l => laneRounds subop n (laneRound subop l)

/-- Every 256th element from the head. -/
def everyLane : Nat → Nat → List Word32 → List Word32
  | _, _, [] => []
  | 0, step, w :: l => w :: everyLane (step - 1) step l
  | k + 1, step, _ :: l => everyLane k step l

/-- VRED of one row: 256 lane partials, then 8 rounds (R86). -/
def vredRow (subop : Nat) (l : List Word32) : Word32 :=
  let parts := (List.range 256).map fun k => (everyLane k 256 l).foldl (laneFold subop) (laneZero subop)
  (laneRounds subop 8 parts).headD 0

def startVRed (c p : Nat) (x : Core) (f : RowF) (s : State) : Start :=
  let M := f.rows1.toNat + 1
  let len := f.len1.toNat + 1
  withA c p x f.fmt f.a (.rows M len) [(caAddr x f.dst, 4 * M)] s fun v s =>
    vecWrite c 0x21 (caAddr x f.dst) ((splitRows len M v).map (vredRow f.subop.toNat)) s

/-- VROW's operation on an element with its row's b and c. -/
def vrowOp (subop : Nat) (b d a : Word32) : Word32 :=
  match subop with
  | 0 => add32 a b
  | 1 => sub32 a b
  | 2 => mul32 a b
  | _ => fma32 a b d

def startVRow (c p : Nat) (x : Core) (f : RowF) (s : State) : Start :=
  let M := f.rows1.toNat + 1
  let len := f.len1.toNat + 1
  let three := f.subop = 3
  let ba := caAddr x f.b
  withA c p x f.fmt f.a (.rows M len) [(caAddr x f.dst, M * len * vecBytes f.fmt), (ba, if three then 8 * M else 4 * M)] s
    fun v s =>
      let b := vecRead s c 0x21 ba M
      let d := if three then vecRead s c 0x21 (ba + 4 * M) M else b
      let out := List.zipWith (fun r bd => r.map (vrowOp f.subop.toNat bd.1 bd.2)) (splitRows len M v) (b.zip d)
      vecWrite c f.fmt (caAddr x f.dst) out.flatten s

/-- VCVT: rows of `fmt` converted under the descriptor at b (R52–R57, R87). -/
def startVCvt (c p : Nat) (x : Core) (f : RowF) (idx : Nat) (s : State) : Start :=
  let M := f.rows1.toNat + 1
  let len := f.len1.toNat + 1
  let pitch (d : ConvDesc) : Nat := codeBytes d.target len
  convStart c p x false idx (caAddr x f.b) M len none
    (fun d => extA x f.fmt f.a (M * len) ++ convExtents x d (caAddr x f.dst) M len (pitch d) (len / 32)) s fun d =>
      match operandA c p x f.fmt f.a (.rows M len) s with
      | none => .hold
      | some (v, s) => .started true (convRun c p x idx d (splitRows len M v) (caAddr x f.dst) len (pitch d) (len / 32) s)

/-- VSOFT of one row: the new row, correction and maximum (R91). -/
def vsoftRow (m : Word32) (l : List Word32) : List Word32 × Word32 × Word32 :=
  let m' := l.foldl max32 m
  if m' = rne32 (.inf true) then (l.map fun _ => m', 0, m')
  else (l.map fun w => sub32 w m', sub32 m m', m')

def startVSoft (c p : Nat) (x : Core) (f : RowF) (s : State) : Start :=
  let M := f.rows1.toNat + 1
  let len := f.len1.toNat + 1
  withA c p x f.fmt f.a (.rows M len) [(caAddr x f.dst, 4 * M), (caAddr x f.b, 4 * M)] s fun v s =>
    let m := vecRead s c 0x21 (caAddr x f.b) M
    let out := List.zipWith vsoftRow m (splitRows len M v)
    let s := if f.a = drainedCA then s else vecWrite c f.fmt (caAddr x f.a) (out.map (·.1)).flatten s
    let s := vecWrite c 0x21 (caAddr x f.b) (out.map (·.2.2)) s
    vecWrite c 0x21 (caAddr x f.dst) (out.map (·.2.1)) s

/-- Is element (i, j) masked (R90). -/
def masked (windowed : Bool) (pq pk w i j : Nat) : Bool :=
  pq + i < pk + j || (windowed && w ≤ pq + i - (pk + j))

def startVMask (c p : Nat) (x : Core) (f : RowF) (s : State) : Start :=
  let M := f.rows1.toNat + 1
  let len := f.len1.toNat + 1
  let ra := caAddr x f.b
  match badOperand ([(ra, 16), (caAddr x f.dst, M * len * vecBytes f.fmt)] ++ extA x f.fmt f.a (M * len)) with
  | some a => .stop (coreAbort c 0x2302 a s)
  | none =>
    let pq := storeNat s c ra 3
    let pk := storeNat s c (ra + 4) 3
    let w := storeNat s c (ra + 8) 3
    let last := if 16777215 < pq + M - 1 then pq + M - 1 else pk + len - 1
    if 16777215 < last then .stop (coreAbort c 0x2304 last s)
    else
      match operandA c p x f.fmt f.a (.rows M len) s with
      | none => .hold
      | some (v, s) =>
        let out := (List.range M).flatMap fun i => (List.range len).map fun j =>
          if masked (f.subop = 1) pq pk w i j then rne32 (.inf true) else canon32 (v.getD (i * len + j) 0)
        .started true (vecWrite c f.fmt (caAddr x f.dst) out s)

/-- One step of a scan, each result rounded to the format before the next step uses it. -/
def scanStep (fmt : Byte) (h a b : List Word32) : List Word32 :=
  (List.zipWith (fun ah b => fma32 ah.1 ah.2 b) (a.zip h) b).map fun w =>
    if fmt = 0x21 then w else rne32 (vecVal fmt (vecPack fmt w))

/-- Steps t, t + 1, … of a scan in the store (R92). -/
def scanSteps (c : Nat) (fmt : Byte) (n src dst : Nat) : Nat → List Word32 → State → List Word32 × State
  | 0, h, s => (h, s)
  | k + 1, h, s =>
    let w := n * vecBytes fmt
    let h' := scanStep fmt h (vecRead s c fmt src n) (vecRead s c fmt (src + w) n)
    scanSteps c fmt n (src + 2 * w) (dst + w) k h' (vecWrite c fmt dst h' s)

def startVScan (c : Nat) (x : Core) (f : ScanF) (s : State) : Start :=
  let n := f.width1.toNat + 1
  let T := f.steps1.toNat + 1
  let w := n * vecBytes f.fmt
  match badOperand [(caAddr x f.dst, T * w), (caAddr x f.src, 2 * T * w), (caAddr x f.state, w)] with
  | some a => .stop (coreAbort c 0x2302 a s)
  | none =>
    let r := scanSteps c f.fmt n (caAddr x f.src) (caAddr x f.dst) T (vecRead s c f.fmt (caAddr x f.state) n) s
    .started true (vecWrite c f.fmt (caAddr x f.state) r.1 r.2)

/-! ### Function engine (R88, R89) -/

@[irreducible] def imageSize : Nat := 16448

/-- FLOAD copies an image into a slot. -/
def startFLoad (c : Nat) (x : Core) (slot : BitVec 4) (image : BitVec 24) (s : State) : Start :=
  let a := caAddr x image
  match badOperand [(a, imageSize)] with
  | some a => .stop (coreAbort c 0x2302 a s)
  | none =>
    let b := storeRead s c a imageSize
    .started true (updCore c (fun y => { y with fslots := (y.fslots.filter (·.1 != slot.toNat)) ++ [(slot.toNat, b)] }) s)

/-- The image in a slot, if it is loaded. -/
def slotImage (x : Core) (slot : Nat) : Option Bytes := (x.fslots.find? (·.1 == slot)).map (·.2)

def imgWord (b : Bytes) (o : Nat) : Word32 := BitVec.ofNat 32 (fieldNat b o 4)

/-- The table of an image evaluated at x: forward, or the derivative's (R89). -/
def evalTable (b : Bytes) (deriv : Bool) (x : Word32) : Word32 :=
  let xmin := imgWord b (if deriv then 12 else 4)
  let w := imgWord b (if deriv then 16 else 8)
  let base := if deriv then 8256 else 64
  let seg (k : Nat) : Word32 :=
    let slope := imgWord b (base + 8 * k)
    let icpt := imgWord b (base + 8 * k + 4)
    if !finite32 x && (f32val slope).isZero then canon32 icpt else fma32 slope x icpt
  match f32val x with
  | .nan => rne32 .nan
  | .inf neg => seg (if neg then 0 else 1023)
  | _ =>
    let t := mul32 (sub32 x xmin) w
    match f32val t with
    | .nan => rne32 .nan
    | .inf neg => seg (if neg then 0 else 1023)
    | v => seg (min 1023 (floorVal v).toNat)

/-- Check the operands of an operation of the function engine, then take operand a from the store: drained rows go to the vector
engine alone (R31, R86). -/
def withStored (c : Nat) (x : Core) (fmt : Byte) (a : BitVec 24) (n : Nat) (ext : List (Nat × Nat)) (s : State)
    (go : List Word32 → State → State) : Start :=
  match badOperand (ext ++ [(caAddr x a, n * vecBytes fmt)]) with
  | some b => .stop (coreAbort c 0x2302 b s)
  | none => .started true (go (vecRead s c fmt (caAddr x a) n) s)

/-- FEVAL: dst := f(a). -/
def startFEval (c : Nat) (x : Core) (f : FlatF) (idx : Nat) (s : State) : Start :=
  let n := f.n1.toNat + 1
  match slotImage (coreOf s c) f.subop.toNat with
  | none => .stop (coreAbort c 0x2303 (f.subop.toNat + 2 ^ 16 * (idx % 4096)) s)
  | some b =>
    withStored c x f.fmt f.a n [(caAddr x f.dst, n * vecBytes f.fmt)] s fun v s =>
      odCount 0x2301 8 n (vecWrite c f.fmt (caAddr x f.dst) (v.map (evalTable b false)) s)

/-- FDERIV: dst := f′(x) × b at the saved input. -/
def startFDeriv (c : Nat) (x : Core) (f : FlatF) (idx : Nat) (s : State) : Start :=
  let n := f.n1.toNat + 1
  match slotImage (coreOf s c) f.subop.toNat with
  | none => .stop (coreAbort c 0x2303 (f.subop.toNat + 2 ^ 16 * (idx % 4096)) s)
  | some b =>
    withStored c x f.fmt f.a n [(caAddr x f.dst, n * vecBytes f.fmt), (caAddr x f.b, n * vecBytes f.fmt)] s fun v s =>
      let g := vecRead s c f.fmt (caAddr x f.b) n
      odCount 0x2301 8 n (odCount 0x2401 3 n
        (vecWrite c f.fmt (caAddr x f.dst) (List.zipWith (fun a g => mul32 (evalTable b true a) g) v g) s))

end Sys2Proof.Machine
end

