-- ==== Sys2Proof/Machine/Update.lean ====
section
/-! DEFINITION. Masters and their update: VOPT (R113–R130), schedule records (R115, R116), heartwood masks (R106–R108), the
row-wise Adagrad of the table engine (R123), and the conversion that regenerates a swatch (R159). -/
namespace Sys2Proof.Machine

/-- Event 0x2502 and 0x2507 are posted once per tensor and step: has this triple been posted. -/
def postOnce (p code src tag step b : Nat) (s : State) : State :=
  if (panelOf s p).once.contains (code, tag, step) then s
  else postPanel p code src (tag + 2 ^ 32 * step) b (updPanel p (fun x => { x with once := x.once ++ [(code, tag, step)] }) s)

/-! ### Group tables (Table 6.2) -/

def groupTableSize : Nat := 8320
def groupMagic : Nat := 0x54474A47

/-- One group entry. -/
structure GroupEntry where
  etaBase : Word32
  mult : Word32
  beta1 : Word32
  beta2 : Word32
  eps : Word32
  lambda : Word32
  clip : Word32
  eta : Word32
  omb1 : Word32
  omb2 : Word32
  p1 : Word32
  p2 : Word32
  rb1 : Word32
  rb2 : Word32
  flags : Nat
  q : Nat
deriving DecidableEq, Repr

def bankAddr (t b : Nat) : Nat := t + 32 + 32 * b
def groupAddr (t b g : Nat) : Nat := t + 128 + 4096 * b + 64 * g

def groupEntry (s : State) (t b g : Nat) : GroupEntry :=
  let a := groupAddr t b g
  let w (o : Nat) : Word32 := BitVec.ofNat 32 (readNat s (a + o) 4)
  { etaBase := w 0, mult := w 4, beta1 := w 8, beta2 := w 12, eps := w 16, lambda := w 20, clip := w 24, eta := w 28,
    omb1 := w 32, omb2 := w 36, p1 := w 40, p2 := w 44, rb1 := w 48, rb2 := w 52, flags := readNat s (a + 56) 1,
    q := readNat s (a + 57) 1 }

def groupBytes (e : GroupEntry) : Bytes :=
  wordsBytes [e.etaBase, e.mult, e.beta1, e.beta2, e.eps, e.lambda, e.clip, e.eta, e.omb1, e.omb2, e.p1, e.p2, e.rb1, e.rb2]
    ++ toLe 1 e.flags ++ toLe 1 e.q ++ toLe 6 0

/-- q := clamp(−floor(log₂ η), 0, 126); 0 where η is +0.0 or not finite (R65, R116). -/
def shiftOf (eta : Word32) : Nat :=
  match f32val eta with
  | .fin _ m e => if m = 0 then 0 else min 126 (-((Nat.log2 m : Int) + e)).toNat
  | _ => 0

def one32 : Word32 := 0x3F800000

/-- The derived fields of a group for a new step (R116). -/
def stepGroup (e : GroupEntry) (mult : Option Word32) (restart : Bool) : GroupEntry :=
  let m := mult.getD e.mult
  let p1 := mul32 (if restart then one32 else e.p1) e.beta1
  let p2 := mul32 (if restart then one32 else e.p2) e.beta2
  let eta := mul32 e.etaBase m
  let rb (p : Word32) : Word32 := if bitOf e.flags 0 then recip32 (sub32 one32 p) else one32
  { e with mult := m, p1 := p1, p2 := p2, eta := eta, omb1 := sub32 one32 e.beta1, omb2 := sub32 one32 e.beta2,
           rb1 := rb p1, rb2 := rb p2, q := shiftOf eta }

/-- Does a step size have no logarithm: q is then a free value of its range. -/
def noLog (eta : Word32) : Bool :=
  match f32val eta with
  | .fin true m _ => m ≠ 0
  | _ => false

/-- Carry one group into the new bank. -/
def carryGroup (t b mask : Nat) (mult : Word32) (restart : Bool) (s : State) (g : Nat) : State :=
  let e := stepGroup (groupEntry s t (1 - b) g) (if bitOf mask g then some mult else none) restart
  if noLog e.eta then
    let v := freshVal s
    storeBytes (groupAddr t b g) (groupBytes { e with q := v.1.toNat % 127 }) v.2
  else storeBytes (groupAddr t b g) (groupBytes e) s

/-- A schedule record applied to the group table at t (R116). `body` is the 64-byte ring record. -/
def applySchedule (t : Nat) (body : Bytes) (s : State) : State :=
  let step := fieldNat body 8 4
  let b := step % 2
  let mask := fieldNat body 24 8
  let mult : Word32 := BitVec.ofNat 32 (fieldNat body 32 4)
  let flags := fieldNat body 36 1
  let s := (List.range 64).foldl (carryGroup t b mask mult (bitOf flags 1)) s
  storeBytes (bankAddr t b) (toLe 4 step ++ toLe 1 (flags % 2) ++ toLe 3 0 ++ toLe 8 (fieldNat body 40 8) ++
    toLe 8 (fieldNat body 48 8)) s

/-! ### One element (R113, R114, R120–R122) -/

/-- Exponent of u(w). -/
def compExp (w : Word32) : Int := (max (w.toNat / 2 ^ 23 % 256) 1 : Nat) - 166

/-- Nearest integer to a value, ties to even. -/
def rneInt (v : FVal) (lsb : Int) : Int :=
  match v with
  | .fin neg m e =>
    let n : Int := if lsb ≤ e then (m * pow2 (e - lsb) : Nat) else (roundShift .rne m (lsb - e).toNat false : Nat)
    if neg then -n else n
  | _ => 0

/-- The new compensation word from the exact sum T and the new master, and whether the clamp acted (R114). -/
def newComp (T : FVal) (w' : Word32) : Int × Bool :=
  if !finite32 w' then (0, false)
  else
    let k := rneInt (fadd T (fneg (f32val w'))) (compExp w')
    if 32767 < k then (32767, true) else if k < -32768 then (-32768, true) else (k, false)

/-- Multiply a value by 2^k exactly. -/
def scaleVal (v : FVal) (k : Int) : FVal :=
  match v with
  | .fin neg m e => .fin neg m (e + k)
  | v => v

/-- fma with one exact operand. -/
def fmaV (a : Word32) (b : FVal) (c : Word32) : Word32 := rne32 (fadd (fmul (f32val a) b) (f32val c))

/-- sign(z), with sign(±0) = +0.0. -/
def sign32 (z : Word32) : Word32 :=
  match f32val z with
  | .nan => rne32 .nan
  | .inf neg => if neg then 0xBF800000 else one32
  | .fin neg m _ => if m = 0 then 0 else if neg then 0xBF800000 else one32

/-- The formulas of R120: direction and new moments from the clipped gradient, the master and the stored moments. -/
def optDir (alg : Nat) (e : GroupEntry) (g w : Word32) (m0 v0 : FVal) : Word32 × Word32 × Word32 :=
  match alg with
  | 2 =>
    let z := fmaV e.beta1 m0 (mul32 e.omb1 g)
    let dir := fma32 e.lambda w (sign32 z)
    (dir, fmaV e.beta2 m0 (mul32 e.omb2 g), 0)
  | 3 =>
    let g := fma32 e.lambda w g
    let m := fmaV e.beta1 m0 g
    (if bitOf e.flags 1 then fma32 e.beta1 m g else m, m, 0)
  | alg =>
    let g := if alg = 1 then fma32 e.lambda w g else g
    let m := fmaV e.beta1 m0 (mul32 e.omb1 g)
    let v := fmaV e.beta2 v0 (mul32 e.omb2 (mul32 g g))
    let den := add32 (sqrt32 (mul32 v e.rb2)) e.eps
    let u := mul32 (mul32 m e.rb1) (recip32 den)
    (if alg = 0 then fma32 e.lambda w u else u, m, v)

/-- The increment of R121 applied to a master and its compensation word. -/
def applyDir (e : GroupEntry) (w : Word32) (k : Int) (comp : Bool) (dir : Word32) : Word32 × Int × Bool :=
  let d := rne32 (fmul (scaleVal (f32val e.eta) e.q) (fneg (f32val dir)))
  let T := fadd (fadd (f32val w) (ofInt k (compExp w) false)) (scaleVal (f32val d) (-(e.q : Int)))
  let w' := rne32 T
  if comp then (w', newComp T w') else (w', 0, false)

/-- Value of a stored moment: its code times 2^er (R120). -/
def momentVal (fmt : Byte) (code : Nat) (er : Int) : FVal := scaleVal (elemVal fmt code) er

/-- Encode a new moment under 2^ew: RNE, saturating (R122). -/
def momentCode (fmt : Byte) (ew : Int) (w : Word32) : Nat × Bool :=
  if fmt = 0x08 then
    (if isNan32 w then (0x7F, false) else encodeElem 0x08 ew .rne (f32val w))
  else
    match f32val w with
    | .nan => (0x7FC0, false)
    | .inf neg => (if neg then 0xFF7F else 0x7F7F, true)
    | .fin neg m e =>
      if magLe m (e - ew) 255 120 then (packIeee 8 7 .rne (.fin neg m (e - ew)), false)
      else (if neg then 0xFF7F else 0x7F7F, true)

/-- Smallest exponent in [−127, 127] with 2 × max ≤ 2^E × m_f (R122). -/
def momentExp (fmt : Byte) (mx : Word32) : Int :=
  match f32val mx with
  | .fin _ m e =>
    match (List.range 255).find? fun (i : Nat) =>
        if fmt = 0x08 then magLe m (e + 1) 448 ((i : Int) - 127) else magLe m (e + 1) 255 ((i : Int) - 127 + 120) with
    | some i => (i : Int) - 127
    | none => 127
  | _ => 127

/-! ### The update descriptor (Table 6.3) -/

structure UpdDesc where
  tag : Nat
  alg : Nat
  group : Nat
  flags : Nat
  graft : Nat
  layer : Nat
  rows : Nat
  cols : Nat
  row0 : Nat
  col0 : Nat
  slot : Nat
  mfmt : Byte
  master : BitVec 24
  comp : BitVec 24
  mom1 : BitVec 24
  mom2 : BitVec 24
  grad : BitVec 24
  out : BitVec 24
  conv : BitVec 24
  table : Nat
  norm : Nat
  mrec : Nat
  mask : Nat
  norms : Nat
deriving DecidableEq, Repr

def updDesc (b : Bytes) : UpdDesc :=
  let ca (o : Nat) : BitVec 24 := BitVec.ofNat 24 (fieldNat b o 3)
  { tag := fieldNat b 0 4, alg := fieldNat b 4 1, group := fieldNat b 5 1, flags := fieldNat b 8 1, graft := fieldNat b 9 1,
    layer := fieldNat b 10 2, rows := fieldNat b 12 2, cols := fieldNat b 14 2, row0 := fieldNat b 16 4,
    col0 := fieldNat b 20 4, slot := fieldNat b 24 4, mfmt := b.getD 28 0, master := ca 32, comp := ca 36, mom1 := ca 40,
    mom2 := ca 44, grad := ca 48, out := ca 52, conv := ca 56, table := fieldNat b 64 8, norm := fieldNat b 72 8,
    mrec := fieldNat b 80 8, mask := fieldNat b 88 8, norms := fieldNat b 96 8 }

def UpdDesc.has (d : UpdDesc) (i : Nat) : Bool := bitOf d.flags i
def UpdDesc.n (d : UpdDesc) : Nat := d.rows * d.cols
def UpdDesc.uses1 (_ : UpdDesc) : Bool := true
def UpdDesc.uses2 (d : UpdDesc) : Bool := d.alg < 2

/-- Operands of the update in the core store: state arrays, gradient, descriptor and output. -/
def updExtents (s : State) (c : Nat) (x : Core) (d : UpdDesc) : List (Nat × Nat) :=
  let mb := if d.mfmt = 0x08 then 1 else 2
  [(caAddr x d.master, 4 * d.n), (caAddr x d.mom1, mb * d.n), (caAddr x d.grad, 4 * d.n)] ++
  (if d.has 0 then [(caAddr x d.comp, 2 * d.n)] else []) ++
  (if d.uses2 then [(caAddr x d.mom2, mb * d.n)] else []) ++
  (if d.has 4 then
    let k := convDesc (storeRead s c (caAddr x d.conv) 32)
    (caAddr x d.conv, 32) :: convExtents x k (caAddr x d.out) d.rows d.cols (codeBytes k.target d.cols) (d.cols / 32)
   else [])

/-- May the panel read the group table that the descriptor names. -/
def tableReads (s : State) (p : Nat) (d : UpdDesc) : Bool := grants s p false d.table groupTableSize

/-- Cause of event 0x2501, the lowest that applies (R118, R413). What the group table says is known only where it may be read. -/
def updCause (s : State) (c p : Nat) (x : Core) (alg : Nat) (d : UpdDesc) : Option Nat :=
  let t := d.table
  if alg ≠ d.alg || 4 ≤ d.alg then some 1
  else if 64 ≤ d.group || (tableReads s p d && readNat s t 4 ≠ groupMagic) then some 2
  else if d.rows = 0 || 2048 < d.rows || d.cols < 32 || 4096 < d.cols || d.cols % 32 ≠ 0 then some 3
  else if d.mfmt ≠ 0x10 && d.mfmt ≠ 0x08 then some 4
  else if d.has 2 && (s.grafts.find? (·.1 == d.graft)).map (·.2.1) ≠ some p then some 5
  else if (updExtents s c x d).any fun e => storeSize < e.1 + e.2 then some 6
  else if tableReads s p d && readNat s (bankAddr t (x.step.toNat % 2)) 4 ≠ x.step.toNat then some 7
  else none

/-- Cause of event 0x2401: the mask record against the descriptor (R106, R108). -/
def maskCause (s : State) (d : UpdDesc) : Option Nat :=
  let a := d.mask
  if readNat s a 4 ≠ 0x57484A47 then some 1
  else if readNat s (a + 8) 1 ≠ 1 && readNat s (a + 8) 1 ≠ 2 then some 2
  else if readNat s (a + 4) 4 ≠ d.tag then some 3
  else if readNat s (a + 12) 4 = 0 || 16777216 < readNat s (a + 12) 4 || readNat s (a + 12) 4 < d.row0 + d.rows then some 4
  else if readNat s (a + 16) 4 % 32 ≠ 0 || readNat s (a + 16) 4 < d.col0 + d.cols then some 5
  else none

/-- Is block b of chunk row i frozen (R106). -/
def frozenBlock (s : State) (d : UpdDesc) (i b : Nat) : Bool :=
  d.has 1 &&
    let k := d.row0 + i
    let n := if readNat s (d.mask + 8) 1 = 1 then k else k * (readNat s (d.mask + 16) 4 / 32) + (d.col0 / 32 + b)
    bitOf (readNat s (d.mask + 32 + n / 8) 1) (n % 8)

/-- Frozen bits of every block of the chunk, read once. -/
def frozenMap (s : State) (d : UpdDesc) : List Bool :=
  (List.range d.rows).flatMap fun i => (List.range (d.cols / 32)).map fun b => frozenBlock s d i b

/-- What the update reads of its mask record: the header, and the bytes that hold the chunk's bits. -/
def maskReads (s : State) (d : UpdDesc) : List (Nat × Nat) :=
  let bits (lo n : Nat) : Nat × Nat := (d.mask + 32 + lo / 8, (lo + n - 1) / 8 + 1 - lo / 8)
  if !d.has 1 then []
  else (d.mask, 32) ::
    (if readNat s (d.mask + 8) 1 = 1 then [bits d.row0 d.rows]
    else if readNat s (d.mask + 8) 1 = 2 then
      (List.range d.rows).map fun i => bits ((d.row0 + i) * (readNat s (d.mask + 16) 4 / 32) + d.col0 / 32) (d.cols / 32)
    else [])

/-- A record that does not fit its descriptor and that no check refuses: the update is unpredictable (R108). -/
def maskOpen (s : State) (d : UpdDesc) : Bool := d.has 1 && (maskCause s d).isSome

/-! ### Clipping (R124–R127) -/

/-- What a clip table says of a tag: its factor, nothing, or an entry at an address that the panel may not read. -/
inductive ClipEntry where
  | factor (c : Word32)
  | missing
  | region (a : Nat)
deriving DecidableEq, Repr

/-- The entry of a tag in the clip table at a, up to the one that closes it; `fuel` covers every 8-byte entry of the address
space. -/
def clipEntry (s : State) (p a tag : Nat) : Nat → ClipEntry
  | 0 => .missing
  | fuel + 1 =>
    let t := readNat s a 4
    if !grants s p false a 8 then .region a
    else if t = 0xFFFFFFFF then .missing
    else if t = tag then .factor (BitVec.ofNat 32 (readNat s (a + 4) 4))
    else clipEntry s p (a + 8) tag fuel

/-- The entry of a tensor in the clip table of the step's bank (R126). -/
def clipTable (s : State) (p t b tag : Nat) : ClipEntry := clipEntry s p (readNat s (bankAddr t b + 16) 8) tag (2 ^ 45)

/-- The address that forming the clip factor reads beside the tensor's own norm and that the panel may not read, if any. -/
def clipRegion (s : State) (p t b tag : Nat) : Option Nat :=
  let h := bankAddr t b
  if odGet s 0x2500 1 = 1 then
    match clipTable s p t b tag with
    | .region a => some a
    | _ => none
  else if bitOf (readNat s (h + 4) 1) 0 && !grants s p false (readNat s (h + 8) 8) 4 then some (readNat s (h + 8) 8)
  else none

/-- Clip factor for squared norm N under clip norm C (R124). -/
def clipFactor (C N : Word32) : Word32 :=
  if (f32val C).isZero then one32
  else if le32 N (mul32 C C) then one32 else mul32 C (rsqrt32 N)

/-- Clip factor of a tensor, whether it is to be skipped, and whether its clip-table entry is missing. -/
def clipOf (s : State) (p t b group tag norm : Nat) : Word32 × Bool × Bool :=
  let e := groupEntry s t b group
  let h := bankAddr t b
  let N : Word32 := BitVec.ofNat 32 (readNat s norm 4)
  if odGet s 0x2500 1 = 1 then
    match clipTable s p t b tag with
    | .factor c => (c, !(finite32 c && finite32 N), false)
    | _ => (one32, !finite32 N, true)
  else
    let global := bitOf (readNat s (h + 4) 1) 0
    let G : Word32 := BitVec.ofNat 32 (readNat s (readNat s (h + 8) 8) 4)
    let c := clipFactor e.clip (if global then G else N)
    (c, !finite32 c || !finite32 N || (global && !finite32 G), false)

/-! ### Moment records (Table 6.4) -/

structure MomentRec where
  step : Nat
  e1r : Int
  e1w : Int
  e2r : Int
  e2w : Int
  max1 : Word32
  max2 : Word32
  sats : Nat
deriving DecidableEq, Repr

def momentRecOf (b : Bytes) : MomentRec :=
  let i8 (o : Nat) : Int := (BitVec.ofNat 8 (fieldNat b o 1)).toInt
  { step := fieldNat b 0 4, e1r := i8 4, e1w := i8 5, e2r := i8 6, e2w := i8 7,
    max1 := BitVec.ofNat 32 (fieldNat b 8 4), max2 := BitVec.ofNat 32 (fieldNat b 12 4), sats := fieldNat b 16 4 }

def momentRec (s : State) (a : Nat) : MomentRec := momentRecOf (readBytes s a 32)

def momentBytes (m : MomentRec) : Bytes :=
  let i8 (i : Int) : Bytes := [BitVec.ofInt 8 i]
  toLe 4 m.step ++ i8 m.e1r ++ i8 m.e1w ++ i8 m.e2r ++ i8 m.e2w ++ toLe 4 m.max1.toNat ++ toLe 4 m.max2.toNat ++
    toLe 4 m.sats

/-- The rollover of R122. -/
def rollover (fmt : Byte) (step : Nat) (m : MomentRec) : MomentRec :=
  if step ≤ m.step then m
  else
    { step := step, e1r := m.e1w, e2r := m.e2w,
      e1w := if lt32 0 m.max1 then momentExp fmt m.max1 else m.e1w,
      e2w := if lt32 0 m.max2 then momentExp fmt m.max2 else m.e2w,
      max1 := 0, max2 := 0, sats := 0 }

/-! ### VOPT -/

/-- What the update makes of one element. -/
structure ElemUpd where
  w : Word32
  k : Int
  m1 : Nat
  m2 : Nat
  x1 : Word32
  x2 : Word32
  g : Word32
  delta : Word32
  clamps : Nat
  sats : Nat
deriving DecidableEq, Repr

/-- Update one element that the mask does not freeze (R120–R122). -/
def updElem (d : UpdDesc) (e : GroupEntry) (r : MomentRec) (cf w G : Word32) (k : Int) (c1 c2 : Nat) : ElemUpd :=
  let g := mul32 G cf
  let o := optDir d.alg e g w (momentVal d.mfmt c1 r.e1r) (if d.uses2 then momentVal d.mfmt c2 r.e2r else .fin false 0 0)
  let a := applyDir e w k (d.has 0) o.1
  let n1 := momentCode d.mfmt r.e1w o.2.1
  let n2 := if d.uses2 then momentCode d.mfmt r.e2w o.2.2 else (c2, false)
  { w := a.1, k := a.2.1, m1 := n1.1, m2 := n2.1, x1 := o.2.1, x2 := o.2.2, g := g, delta := sub32 a.1 w,
    clamps := a.2.2.toNat, sats := n1.2.toNat + n2.2.toNat }

/-- An element that is left as it is. -/
def keepElem (w : Word32) (k : Int) (c1 c2 : Nat) : ElemUpd :=
  { w := w, k := k, m1 := c1, m2 := c2, x1 := 0, x2 := 0, g := 0, delta := 0, clamps := 0, sats := 0 }

/-- Write a norms slot, and the header once every slot carries the step (R130). -/
def writeNorms (a slot step : Nat) (w2 g2 d2 : Word32) (s : State) : State :=
  let s := storeBytes (a + 64 + 16 * slot) (toLe 4 step ++ wordsBytes [w2, g2, d2]) s
  let n := readNat s (a + 4) 4
  if (List.range n).all fun i => readNat s (a + 64 + 16 * i) 4 == step then
    let sum (o : Nat) : Word32 :=
      match (List.range n).map fun i => (BitVec.ofNat 32 (readNat s (a + 64 + 16 * i + o) 4) : Word32) with
      | [] => 0
      | x :: xs => xs.foldl add32 x
    storeBytes (a + 8) (wordsBytes [sum 4, sum 8, sum 12]) (storeBytes a (toLe 4 step) s)
  else s

/-- Device ranges that a VOPT reads or writes outside the store, with the right needed. -/
def updRegions (s : State) (d : UpdDesc) : List (Bool × Nat × Nat) :=
  [(false, d.table, groupTableSize), (false, d.norm, 4), (true, d.mrec, 32)] ++
  (maskReads s d).map (false, ·) ++
  (if d.has 3 then [(true, d.norms, 64 + 16 * max (readNat s (d.norms + 4) 4) (d.slot + 1))] else [])

/-- Does a snapshot of an earlier step still have entries of this layer to read (R134). -/
def snapHolds (s : State) (p layer step : Nat) : Bool :=
  match (panelOf s p).snap with
  | none => false
  | some n => n.step.toNat < step &&
      (List.range n.count).any fun i => n.next ≤ i && readNat s (n.list + 32 * i + 4) 2 == layer

/-- An element as an update for a step older than the moment record's leaves it (R122), or one under a mask record that does not
fit (R108): all of it is free. -/
def openElem (s : State) (i : Nat) : ElemUpd :=
  let v := fun n : Nat => openWord 2 (16 * i + n) s
  { w := v 0, k := ((v 1).truncate 16).toInt, m1 := (v 2).toNat, m2 := (v 3).toNat, x1 := v 4, x2 := v 5, g := v 6, delta := v 7
    clamps := (v 8).toNat, sats := (v 9).toNat }

/-- The chunk's elements after the update, in row-major order. -/
def updChunk (s : State) (c : Nat) (x : Core) (d : UpdDesc) (e : GroupEntry) (r : MomentRec) (cf : Word32) (skip : Bool) :
    List ElemUpd :=
  let n := d.n
  let mb := if d.mfmt = 0x08 then 1 else 2
  let fr := frozenMap s d
  (List.range n).map fun i =>
    let w : Word32 := BitVec.ofNat 32 (storeNat s c (caAddr x d.master + 4 * i) 4)
    let G : Word32 := BitVec.ofNat 32 (storeNat s c (caAddr x d.grad + 4 * i) 4)
    let k : Int := if d.has 0 then (BitVec.ofNat 16 (storeNat s c (caAddr x d.comp + 2 * i) 2)).toInt else 0
    let c1 := storeNat s c (caAddr x d.mom1 + mb * i) mb
    let c2 := if d.uses2 then storeNat s c (caAddr x d.mom2 + mb * i) mb else 0
    if skip || fr.getD (i / 32) false then keepElem w k c1 c2 else updElem d e r cf w G k c1 c2

/-- Write back a chunk: masters, compensation words, moments. -/
def storeChunk (c : Nat) (x : Core) (d : UpdDesc) (es : List ElemUpd) (s : State) : State :=
  let mb := if d.mfmt = 0x08 then 1 else 2
  let s := storeWrite c (caAddr x d.master) (wordsBytes (es.map (·.w))) s
  let s := if d.has 0 then
    storeWrite c (caAddr x d.comp) (es.flatMap fun u => toLe 2 (BitVec.ofInt 16 u.k).toNat) s else s
  let s := storeWrite c (caAddr x d.mom1) (es.flatMap fun u => toLe mb u.m1) s
  if d.uses2 then storeWrite c (caAddr x d.mom2) (es.flatMap fun u => toLe mb u.m2) s else s

/-- The largest magnitude of a list, infinities included; a NaN has none. -/
def maxAbs (l : List Word32) : Word32 :=
  l.foldl (fun m w => if !isNan32 w && m.toNat < (w &&& 0x7FFF_FFFF).toNat then w &&& 0x7FFF_FFFF else m) 0

/-- Raise a maximum. -/
def raise32 (a b : Word32) : Word32 := if a.toNat < b.toNat then b else a

/-- Steps 2 to 7 of R119 as operation `idx`. The moment record serves a replay as the operation found it first (R66, R369). -/
def runVOpt (c p : Nat) (x : Core) (idx : Nat) (d : UpdDesc) (s : State) : State :=
  let step := x.step.toNat
  let e := groupEntry s d.table (step % 2) d.group
  let b := (seenRec s c idx d.mrec).getD (readBytes s d.mrec 32)
  let old := momentRecOf b
  let open' := step < old.step || maskOpen s d
  let s := if open' then taint p s else s
  let s := noteSeen c idx d.mrec b s
  let r := rollover d.mfmt step old
  let s := storeBytes d.mrec (momentBytes (rollover d.mfmt step (momentRec s d.mrec))) s
  let cl := clipOf s p d.table (step % 2) d.group d.tag d.norm
  let s := if cl.2.2 then postOnce p 0x2507 (coreBlock s c) d.tag step (tagOnCore s c) s else s
  let skip := cl.2.1
  let s := if skip then
    let first := !(panelOf s p).once.contains (0x2502, d.tag, step)
    postOnce p 0x2502 (coreBlock s c) d.tag step (tagOnCore s c)
      (if first && !secure s p then odCount 0x2501 2 1 s else s) else s
  let es := if open' then (List.range d.n).map (openElem s) else updChunk s c x d e r cl.1 skip
  let nf := if maskOpen s d then (openWord 3 0 s).toNat % (d.n / 32 + 1) else ((frozenMap s d).filter id).length
  let s := if skip then s else
    let s := storeChunk c x d es s
    let sats := (es.map (·.sats)).foldl (· + ·) 0
    let s := odCount 0x2401 4 nf (odCount 0x2501 1 (d.n - 32 * nf) s)
    let s := if secure s p then s else odCount 0x2501 3 sats (odCount 0x2501 4 ((es.map (·.clamps)).foldl (· + ·) 0) s)
    onceEffect c (fun s =>
      let m := momentRec s d.mrec
      storeBytes d.mrec (momentBytes { m with
        max1 := raise32 m.max1 (maxAbs (es.map (·.x1))), max2 := raise32 m.max2 (maxAbs (es.map (·.x2))),
        sats := (m.sats + sats) % 2 ^ 32 }) s) s
  let s := if d.has 4 then
    let k := convDesc (storeRead s c (caAddr x d.conv) 32)
    convRun c p x idx k (splitRows d.cols d.rows (es.map (·.w))) (caAddr x d.out) d.cols (codeBytes k.target d.cols)
      (d.cols / 32) s else s
  if d.has 3 then
    writeNorms d.norms d.slot step (vredRow 2 (es.map (·.w))) (vredRow 2 (es.map (·.g))) (vredRow 2 (es.map (·.delta))) s
  else s

/-- What the conversion of an emitted copy is refused or held for; its descriptor must lie in the store. -/
def emitGate (s : State) (c p : Nat) (x : Core) (idx : Nat) (d : UpdDesc) : ConvGate :=
  if d.has 4 && (badOperand [(caAddr x d.conv, 32)]).isNone then
    convGate s p c x idx false (convDesc (storeRead s c (caAddr x d.conv) 32)) d.rows d.cols
  else .go

/-- The state after VOPT's refusal, if it is refused: the lowest event code that applies (R413), which is the emitted
conversion's, an operand that reaches into the program window, the mask record's, the descriptor's, and last a region's. -/
def voptRefusal (s : State) (c p : Nat) (x : Core) (alg : BitVec 4) (desc : BitVec 24) (idx : Nat) (d : UpdDesc) : Option State :=
  match emitGate s c p x idx d with
  | .refuse code a => some (coreAbort c code a s)
  | g =>
    match badOperand ((updExtents s c x d).filter fun e => e.1 + e.2 ≤ storeSize) with
    | some a => some (coreAbort c 0x2302 a s)
    | none =>
      match if d.has 1 && odGet s 0x2400 1 = 1 && grants s p false d.mask 32 then maskCause s d else none with
      | some k => some (coreFault c 0x2401 (coreBlock s c) d.mask (tagOnCore s c + 2 ^ 32 * k) (odCount 0x2401 5 1 s))
      | none =>
        match updCause s c p x alg.toNat d with
        | some k => some (coreAbort c 0x2501 (desc.toNat + 2 ^ 32 * k) s)
        | none =>
          match (updRegions s d).find? fun r => !grants s p false r.2.1 r.2.2 || (r.1 && !grants s p true r.2.1 r.2.2) with
          | some r => some (regionAbort c r.2.1 s)
          | none =>
            match clipRegion s p d.table (x.step.toNat % 2) d.tag, g with
            | some a, _ => some (regionAbort c a s)
            | none, .region a => some (regionAbort c a s)
            | none, _ => none

/-- VOPT: its checks, what holds it, then the update (R118, R119). -/
def startVOpt (c p : Nat) (x : Core) (alg : BitVec 4) (desc : BitVec 24) (idx : Nat) (s : State) : Start :=
  let da := caAddr x desc
  match badOperand [(da, 128)] with
  | some a => .stop (coreAbort c 0x2302 a s)
  | none =>
    let d := updDesc (storeRead s c da 128)
    match voptRefusal s c p x alg desc idx d with
    | some s => .stop s
    | none =>
      if snapHolds s p d.layer x.step.toNat || emitGate s c p x idx d = .wait then .hold
      else .started true (runVOpt c p x idx d s)

/-! ### Row-wise Adagrad (R123) -/

/-- Convert a new table element under the table's format and rounding. -/
def tableCode (fmt : Byte) (rounding stream : Nat) (seed : Word64) (index : Nat) (w : Word32) : Nat :=
  let r := roundOf rounding (srBits seed ((stream + index / 2 ^ 32) % 2 ^ 24) (index % 2 ^ 32))
  if fmt = 0x21 then w.toNat
  else if fmt = 0x10 then packIeee 8 7 r (f32val w)
  else if isNan32 w then 0x7F
  else (encodeElem fmt 0 r (f32val w)).1

/-- The new accumulator word and, for each element, the increment before the final add. -/
def adagradRow (e : GroupEntry) (cf a : Word32) (G : List Word32) : Word32 × List Word32 :=
  let g := G.map fun x => mul32 x cf
  let ss := g.foldl (fun acc x => fma32 x x acc) 0
  let inv := recip32 (rne32 (.fin false G.length 0))
  let a' := fma32 ss inv a
  let r := recip32 (add32 (sqrt32 a') e.eps)
  (a', g.map fun x => rne32 (fmul (scaleVal (f32val e.eta) e.q) (fneg (f32val (mul32 x r)))))

/-- w + d × 2^(−q), rounded once. -/
def adagradElem (e : GroupEntry) (w d : Word32) : Word32 :=
  rne32 (fadd (f32val w) (scaleVal (f32val d) (-(e.q : Int))))

end Sys2Proof.Machine
end

