-- ==== Sys2Proof/Machine/Pump.lean ====
section
/-! DEFINITION. The sequencer and its queues (R75–R82): dispatch with its checks, the start of operations in the order of
Table 4.3, retirement, and the control operations' common form. -/
namespace Sys2Proof.Machine

/-! ### Queues (Table 4.3) -/

/-- Queue of an operation. -/
def queueOf (i : Instr) : Nat :=
  match i with
  | .load _ _ f => targetFirst f.target.toNat
  | .pass _ _ f _ => targetFirst f.target.toNat
  | .drain _ _ f => 4 + targetFirst f.target.toNat
  | i =>
    let o := opcodeOf i
    if o = 0x0A then 9 else if o < 0x1C then 8 else if o < 0x30 then 9 else if o < 0x38 then 10
    else if o < 0x40 then 11 else 12

def queueAt (x : Core) (q : Nat) : Queue := sget {} x.queues q
def updQueue (c q : Nat) (f : Queue → Queue) (s : State) : State :=
  updCore c (fun x => { x with queues := smod {} x.queues q f }) s

/-- Operations that the core has dispatched into its queues. -/
def dispatched (x : Core) : Nat := (x.queues.map (·.2.disp)).sum

/-- No queue of the core holds an unretired operation. -/
def queuesEmpty (x : Core) : Bool := x.queues.all fun q => q.2.entries.isEmpty

/-- Has queue `dep` retired `need` operations. -/
def depMet (x : Core) (dep need : Nat) : Bool :=
  dep = 15 || (need ≤ (queueAt x dep).ret && (dep ≠ 11 || !(queueAt x 11).entries.any fun e => e.ord < need))

/-- T of R76 for a header. -/
def needOf (x : Core) (h : OpHdr) : Nat := (queueAt x h.dep.toNat).disp - h.slack.toNat

/-! ### Refusals of the sequencer -/

/-- Event 0x2301 (Table 4.10). -/
def opRefuse (c idx opcode cause : Nat) (s : State) : State :=
  coreAbort c 0x2301 (opParam idx opcode cause) s

/-- Offset of the program window in a core store (R73). -/
def programOffset : Nat := 0x5F_0000

/-- Opcode of operation n of core c's program. -/
def opcodeAt (s : State) (c n : Nat) : Nat := storeNat s c (programOffset + 16 * n + 15) 1

/-- The sequencer of core c has come to operation n: the end of the program, or an opcode that is not listed, is refused at
once (R79, R82). No row of the table stands for an unlisted opcode. -/
def reach (c n : Nat) (s : State) : State :=
  if !dispatching s c then s
  else if (coreOf s c).progLen ≤ n then opRefuse c n 0 5 s
  else if badIn s (coreStore c + programOffset + 16 * n) 16 then poisonLoss c s
  else if !listedOpcodes.contains (opcodeAt s c n) then opRefuse c n (opcodeAt s c n) 1 s
  else s

/-- The program counter goes on to the next operation. -/
def advance (c : Nat) (s : State) : State :=
  let n := (coreOf s c).pc.toNat + 1
  reach c n (updCore c (fun x => { x with pc := BitVec.ofNat 16 n }) s)

/-- Cause 2 for a LOOP, NEXT or END that breaks the loop structure (R79). -/
def loopCause (x : Core) (i : Instr) : Option Nat :=
  match i with
  | .loop _ _ k _ => if x.loops.length ≠ k.toNat then some 2 else none
  | .next _ _ k => if x.loops.length ≠ k.toNat + 1 then some 2 else none
  | .endOp _ _ => if x.loops.isEmpty then none else some 2
  | _ => none

/-- The lower of two causes (R413). -/
def lowerCause (a b : Option Nat) : Option Nat :=
  match a, b with
  | some x, some y => some (min x y)
  | some x, none => some x
  | none, b => b

/-- Cause of a refusal before dispatch: an operand field, the loop structure, or the header. -/
def staticCause (s : State) (c : Nat) (h : OpHdr) (i : Instr) : Option Nat :=
  let w := match kernelOnCore s c with
    | some k => kernelWidth s k
    | none => 1
  lowerCause (fieldCause w i) (lowerCause (loopCause (coreOf s c) i) (if depBad h then some 4 else none))

/-! ### Start -/

/-- STEPCLOSE: the layer record and its scale records must be the panel's to write (R17), and every one of these valid
before any changes (R58). -/
def startStepClose (c p : Nat) (x : Core) (y : Nat) (s : State) : Start :=
  let rs := layerRecords s p y
  if !grants s p true y 32 then .stop (regionAbort c y s)
  else match rs.find? (fun a => !grants s p true a 320) with
  | some a => .stop (regionAbort c a s)
  | none => match rs.find? (fun a => !scaleRecOk s a (recLength s p a)) with
  | some a => .stop (coreAbort c 0x2204 a s)
  | none => .started true (onceEffect c (closeStep p y x.step.toNat (coreBlock s c)) s)

/-- Start one operation. -/
def startOp (c p : Nat) (x : Core) (e : QEntry) (s : State) : Start :=
  match e.cmd with
  | .stepclose _ _ y => startStepClose c p x y.toNat s
  | .load _ _ f => startLoad c p x f s
  | .pass _ _ f m => startPass c p x f m e s
  | .drain _ _ f => startDrain c p x f e s
  | .nhold _ _ f => startNHold c x f s
  | .nstream _ _ f n => startNStream c p x f n e s
  | .ngraft1 _ _ f n => startNGraft1 c p x f n s
  | .ngraft2 _ _ f n => startNGraft2 c p x f n e s
  | .vbin _ _ f => startVBin c p x f s
  | .vfma _ _ f => startVFma c p x f s
  | .vun _ _ f => startVUn c p x f s
  | .vred _ _ f => startVRed c p x f s
  | .vrow _ _ f => startVRow c p x f s
  | .vcvt _ _ f => startVCvt c p x f e.idx s
  | .vsoft _ _ f => startVSoft c p x f s
  | .vmask _ _ f => startVMask c p x f s
  | .vscan _ _ f => startVScan c x f s
  | .vopt _ _ alg d => startVOpt c p x alg d e.idx s
  | .fload _ _ n a => startFLoad c x n a s
  | .feval _ _ f => startFEval c x f e.idx s
  | .fderiv _ _ f => startFDeriv c x f e.idx s
  | .moveCopy _ _ d => startMove c p x d none s
  | .moveSwatchRead _ _ d => startMove c p x d none s
  | .moveSwatchWrite _ _ d => startMove c p x d none s
  | .moveTable _ _ d => startMove c p x d none s
  | .moveZero _ _ d => startMove c p x d none s
  | .moveSend _ _ d => startMove c p x d none s
  | .stream _ _ n d => startMove c p x d (some n.toNat) s
  | .kadd _ _ f => startKnotOp c p x f false s
  | .kset _ _ f => startKnotOp c p x f true s
  | .kwaitge _ _ f => startWaitGe c p x f s
  | .kwaiteq _ _ f => startKnotWait c p x f true s
  | .karrive _ _ f => startArrive c p x f s
  | .spaceWait _ _ n k => startSpoolWait c p x n.toNat k.toNat true s
  | .dataWait _ _ n k => startSpoolWait c p x n.toNat k.toNat false s
  | .scommit _ _ n k => startScommit c p n.toNat k.toNat s
  | .srelease _ _ n k => startSrelease c p n.toNat k.toNat s
  | _ => .started true s

/-- Rows of a strided operand, one by one. -/
def rowExtents (a rows stride len : Nat) : List (Nat × Nat) := (List.range rows).map fun i => (a + i * stride, len)

/-- What a streamed operand of the needle reads of the store: its rows, then its scale and gusset bytes. -/
def nReads (x : Core) (f : Byte) (K n : Nat) (src : NSrcF) : List (Nat × Nat) :=
  let pitch := 8 * src.stride.toNat
  let a := caAddr x src.ca
  if src.channel then [] else (a + K * pitch, nScales f K n + nGussets f K n) :: rowExtents a K pitch (codeBytes f n)

/-- What an operation reads of its core's store when it starts: offsets and lengths. -/
def opReads (s : State) (c : Nat) (x : Core) (i : Instr) : List (Nat × Nat) :=
  match i with
  | .load _ _ f =>
    let k := ((pairShape f.sfmt f.tfmt).getD (0, 0)).1
    let n := (if hasScale f.sfmt then 4 * k else 0) + (if f.sfmt = 0x03 then 4 * k else 0)
    (caAddr x f.scale, n) :: rowExtents (caAddr x f.elem) k (8 * f.stride.toNat) (codeBytes f.sfmt 128)
  | .pass _ _ f _ =>
    let k := ((pairShape f.sfmt f.tfmt).getD (0, 0)).1
    rowExtents (caAddr x f.src) (f.rows1.toNat + 1) (8 * f.stride.toNat) (rowBytes f.tfmt (if f.column then 128 else k))
  | .drain _ _ f => if f.dest = 0 then [(caAddr x f.desc, 32)] else []
  | .nhold _ _ f => rowExtents (caAddr x f.src) (f.rows1.toNat + 1) (8 * f.stride.toNat) (rowBytes f.fmt (f.len1.toNat + 1))
  | .nstream _ _ f _ => nReads x f.fmt (f.red1.toNat + 1) (f.cols1.toNat + 1) f.src
  | .ngraft1 _ _ f _ => nReads x f.fmt (f.red1.toNat + 1) (f.rank1.toNat + 1) f.src
  | .ngraft2 _ _ f _ => nReads x f.fmt (f.rank1.toNat + 1) (f.cols1.toNat + 1) f.src
  | .vbin _ _ f =>
    let n := f.n1.toNat + 1
    extA x f.fmt f.a n ++ (if f.subop = 5 then [] else [(caAddr x f.b, n * vecBytes f.fmt)])
  | .vfma _ _ f =>
    let n := f.n1.toNat + 1
    extA x f.fmt f.a n ++ [(caAddr x f.b, n * vecBytes f.fmt), (caAddr x f.dst, n * vecBytes f.fmt)]
  | .vun _ _ f => extA x f.fmt f.a (f.n1.toNat + 1)
  | .vred _ _ f => extA x f.fmt f.a ((f.rows1.toNat + 1) * (f.len1.toNat + 1))
  | .vrow _ _ f =>
    let M := f.rows1.toNat + 1
    (caAddr x f.b, if f.subop = 3 then 8 * M else 4 * M) :: extA x f.fmt f.a (M * (f.len1.toNat + 1))
  | .vcvt _ _ f => (caAddr x f.b, 32) :: extA x f.fmt f.a ((f.rows1.toNat + 1) * (f.len1.toNat + 1))
  | .vsoft _ _ f =>
    let M := f.rows1.toNat + 1
    (caAddr x f.b, 4 * M) :: extA x f.fmt f.a (M * (f.len1.toNat + 1))
  | .vmask _ _ f => (caAddr x f.b, 16) :: extA x f.fmt f.a ((f.rows1.toNat + 1) * (f.len1.toNat + 1))
  | .vscan _ _ f =>
    let w := (f.width1.toNat + 1) * vecBytes f.fmt
    [(caAddr x f.src, 2 * (f.steps1.toNat + 1) * w), (caAddr x f.state, w)]
  | .vopt _ _ _ a =>
    let d := updDesc (storeRead s c (caAddr x a) 128)
    let mb := if d.mfmt = 0x08 then 1 else 2
    [(caAddr x a, 128), (caAddr x d.master, 4 * d.n), (caAddr x d.grad, 4 * d.n), (caAddr x d.mom1, mb * d.n)] ++
      (if d.uses2 then [(caAddr x d.mom2, mb * d.n)] else []) ++ (if d.has 0 then [(caAddr x d.comp, 2 * d.n)] else []) ++
      (if d.has 4 then [(caAddr x d.conv, 32)] else [])
  | .fload _ _ _ a => [(caAddr x a, imageSize)]
  | .feval _ _ f => [(caAddr x f.a, (f.n1.toNat + 1) * vecBytes f.fmt)]
  | .fderiv _ _ f =>
    let n := f.n1.toNat + 1
    [(caAddr x f.b, n * vecBytes f.fmt), (caAddr x f.a, n * vecBytes f.fmt)]
  | .moveCopy _ _ d => [(caAddr x d, 64)]
  | .moveSwatchRead _ _ d => [(caAddr x d, 64)]
  | .moveSwatchWrite _ _ d => [(caAddr x d, 64)]
  | .moveTable _ _ d => [(caAddr x d, 64)]
  | .moveZero _ _ d => [(caAddr x d, 64)]
  | .moveSend _ _ d => [(caAddr x d, 64)]
  | .stream _ _ _ d => [(caAddr x d, 64)]
  | _ => []

/-- Words j0 to j0 + n − 1 of bank row b of array n', held w to a row. -/
def bankPart (c n b w k : Nat) : Nat × Nat := (privBase c + n * 0x4_0000 + 4 * b * w, 4 * k)

/-- Bank rows of the M rows of a target from base, each as wide as `width` says. -/
def bankParts (c t base M : Nat) (width : Nat → Nat → Nat) : List (Nat × Nat) :=
  (List.range M).map fun r =>
    let p := rowPlace t base r
    bankPart c p.1 p.2 (width p.1 p.2) (width p.1 p.2)

/-- Bank rows of one array from base, of 128 entries, as far as the needle adds to them. -/
def needleParts (c n base rows cols : Nat) : List (Nat × Nat) := (List.range rows).map fun r => bankPart c n (base + r) 128 cols

def heldPart (c n : Nat) : Nat × Nat := (privBase c + 0x10_0000, n)
def resultParts (c rows n : Nat) : List (Nat × Nat) := (List.range rows).map fun r => (privBase c + 0x11_0000 + 256 * r, 4 * n)
def slotPart (c slot : Nat) : Nat × Nat := (privBase c + 0x11_0800 + imageSize * slot, imageSize)
def knotParts (s : State) (c : Nat) (a : Word32) : List (Nat × Nat) :=
  let a := shiftKnotOn s c a
  if knotFab a = fabricId s && knotCore a = c then [(privBase c + 0x11_0800 + 16 * imageSize + 8 * knotNum a, 8)] else []

/-- Width of the bank rows that a pass writes. -/
def passWidth (f : PassF) : Nat := if f.column then 128 * ((pairShape f.sfmt f.tfmt).getD (128, 1)).2 else 128

/-- What an operation reads of its core's banks, needle stores, function slots and knots. A read-modify-write that the replay
register suppresses reads nothing. -/
def privReads (s : State) (c : Nat) (x : Core) (i : Instr) : List (Nat × Nat) :=
  let h := x.held
  match i with
  | .pass _ _ f _ =>
    if f.start then [] else bankParts c f.target.toNat f.base.toNat (f.rows1.toNat + 1) fun _ _ => passWidth f
  | .drain _ _ f => bankParts c f.target.toNat f.base.toNat (f.rows1.toNat + 1) fun n b => (rowInfo x n b).width
  | .nstream _ _ f _ =>
    heldPart c h.data.length :: (if f.start then [] else needleParts c f.array.toNat f.base.toNat h.rows (f.cols1.toNat + 1))
  | .ngraft1 _ _ _ _ => [heldPart c h.data.length]
  | .ngraft2 _ _ f _ =>
    resultParts c h.rows (f.rank1.toNat + 1) ++ needleParts c f.array.toNat f.base.toNat h.rows (f.cols1.toNat + 1)
  | .feval _ _ f => [slotPart c f.subop.toNat]
  | .fderiv _ _ f => [slotPart c f.subop.toNat]
  | .kadd _ _ f => if x.suppress = 0 then knotParts s c f.knot else []
  | .karrive _ _ f => if x.suppress = 0 then knotParts s c f.knot else []
  | .kwaitge _ _ f => knotParts s c f.knot
  | .kwaiteq _ _ f => knotParts s c f.knot
  | _ => []

/-- What an operation writes of them: a word that it writes whole is poisoned no more. -/
def privWrites (s : State) (c : Nat) (i : Instr) : List (Nat × Nat) :=
  let x := coreOf s c
  match i with
  | .pass _ _ f _ => bankParts c f.target.toNat f.base.toNat (f.rows1.toNat + 1) fun _ _ => passWidth f
  | .nhold _ _ _ => [heldPart c x.held.data.length]
  | .nstream _ _ f _ => needleParts c f.array.toNat f.base.toNat x.held.rows (f.cols1.toNat + 1)
  | .ngraft1 _ _ f _ => resultParts c x.held.rows (f.rank1.toNat + 1)
  | .fload _ _ slot _ => [slotPart c slot.toNat]
  | .kset _ _ f => knotParts s c f.knot
  | _ => []

/-- Would the operation read a poisoned word. -/
def meetsPoison (s : State) (c : Nat) (x : Core) (i : Instr) : Bool :=
  !s.badWords.isEmpty &&
    ((opReads s c x i).any (fun e => badIn s (coreStore c + e.1) e.2) || (privReads s c x i).any fun e => badIn s e.1 e.2)

/-- The operation, started in state s with result t, has written its core's private stores. -/
def healPriv (c : Nat) (i : Instr) (s t : State) : State :=
  if s.badWords.isEmpty then t else (privWrites t c i).foldl (fun t e => heal e.1 e.2 t) t

/-- May several operations of a queue be started at a time: arrays and the mover. -/
def overlaps (q : Nat) : Bool := q < 4 || q = 11

/-- Position of the operation of a queue that may start next. -/
def nextToStart (q : Nat) (es : List QEntry) : Option Nat :=
  match es.findIdx? fun e => !e.started with
  | some k => if overlaps q || k = 0 then some k else none
  | none => none

/-- Mark entry k of a queue as started. -/
def markStarted (k move : Nat) (ready : Bool) (q : Queue) : Queue :=
  { q with entries := q.entries.modify k fun e => { e with started := true, ready := ready, move := move } }

/-- Entry k of a queue has gone on as far as these rows. -/
def markRows (k rowsDone : Nat) (got : List (List Word32)) (q : Queue) : Queue :=
  { q with entries := q.entries.modify k fun e => { e with rowsDone := rowsDone, got := got } }

/-- Start the next operation of queue q if it may start now. -/
def tryStart (c q : Nat) (s : State) : State :=
  let x := coreOf s c
  match nextToStart q (queueAt x q).entries, kernelOnCore s c with
  | some k, some kn =>
    match (queueAt x q).entries[k]? with
    | none => s
    | some e =>
      if x.failed || x.awaitHost || x.lost || !depMet x e.depQ e.need then s
      else
        let x := { x with areg := e.areg }
        match startOp c kn.panel x e s with
        | .hold => s
        | .stop s => s
        | .partly n got t =>
          if meetsPoison s c x e.cmd then poisonLoss c s else updQueue c q (markRows k n got) t
        | .started ready t =>
          if meetsPoison s c x e.cmd then poisonLoss c s
          else healPriv c e.cmd s (updQueue c q (markStarted k (if q = 11 then x.nextMove else 0) ready) t)
  | _, _ => s

/-- One round over the queues of a core. -/
def pumpOnce (c : Nat) (s : State) : State := (List.range 13).foldl (fun s q => tryStart c q s) s

/-- Operations not started, each with the rows that it may still have to go through: at most 1,024 (Table 4.6). -/
def unstarted (x : Core) : Nat :=
  x.queues.foldl (fun n q => n + ((q.2.entries.filter fun e => !e.started).map fun e => 1025 - e.rowsDone - e.got.length).sum) 0

/-- Rounds that suffice to start all that can start on a core: 13 queues of 16 operations of up to 1,024 rows. -/
def pumpRounds : Nat := 2 ^ 18

/-- Start whatever can start on core c, at most `fuel` rounds. -/
def pumpCore (c : Nat) : Nat → State → State
  | 0, s => s
  | fuel + 1, s =>
    let t := pumpOnce c s
    if unstarted (coreOf t c) < unstarted (coreOf s c) then pumpCore c fuel t else t

/-- Start whatever can start in panel p: an effect of one core can let another's held operation go on. -/
def pumpCores (p : Nat) (s : State) : State :=
  (s.cores.filter fun e => unstarted e.2 ≠ 0 && panelOnCore s e.1 == some p).foldl (fun s e => pumpCore e.1 pumpRounds s) s

/-! ### Dispatch -/

/-- The word of operation n of core c's program (Table 4.2). -/
def opWord (s : State) (c n : Nat) : Nat := storeNat s c (programOffset + 16 * n) 16

/-- Has core c's sequencer come to the operation of command i: it dispatches, and the word at its program counter spells that
operation (R75, R82). -/
def atOp (s : State) (c : Nat) (i : Instr) : Bool :=
  dispatching s c && spells c (opWord s c (coreOf s c).pc.toNat) i

/-- Dispatch of an operation into its queue (R76). A full queue stalls it. -/
def dispatchOp (c : Nat) (h : OpHdr) (i : Instr) (s : State) : State :=
  if !atOp s c i then s
  else
    let x := coreOf s c
    let idx := x.pc.toNat
    match staticCause s c h i with
    | some cause => opRefuse c idx (opcodeOf i) cause s
    | none =>
      let q := queueOf i
      if 16 ≤ (queueAt x q).entries.length then odCount 0x2301 3 1 s
      else
        let e : QEntry :=
          { idx := idx, cmd := i, areg := x.areg, depQ := h.dep.toNat, need := needOf x h, started := false, ready := false
            move := 0, expiries := 0, seq := dispatched x, ord := (queueAt x q).disp }
        let s := updQueue c q (fun y => { y with disp := y.disp + 1, entries := y.entries ++ [e] }) s
        advance c (pumpCore c pumpRounds s)

/-- A control operation: its checks, then its effect, which moves the program counter itself. A dependency that is not met
stalls dispatch. -/
def controlOp (c : Nat) (h : OpHdr) (i : Instr) (effect : Core → Nat → State → State) (s : State) : State :=
  if !atOp s c i then s
  else
    let x := coreOf s c
    match staticCause s c h i with
    | some cause => opRefuse c x.pc.toNat (opcodeOf i) cause s
    | none =>
      if !depMet x h.dep.toNat (needOf x h) then odCount 0x2301 3 1 s
      else effect x x.pc.toNat s

/-! ### Retirement (R77) -/

/-- What an operation counts as it retires. -/
def countRetired (i : Instr) (s : State) : State :=
  match i with
  | .pass _ _ f _ => countPass f s
  | i =>
    let o := opcodeOf i
    if 0x18 ≤ o && o ≤ 0x1B then odCount 0x2103 2 1 s
    else if 0x20 ≤ o && o ≤ 0x29 then odCount 0x2301 7 1 s
    else s

/-- Take the head of a queue off as retired. -/
def popHead (q : Queue) : Queue := { q with ret := q.ret + 1, entries := q.entries.drop 1 }

/-- OPERATION_RETIRE: the operation at the head of queue q, if its effects are complete. -/
def retireHead (c q : Nat) (s : State) : State :=
  match (queueAt (coreOf s c) q).entries with
  | e :: _ =>
    if e.started && e.ready then
      let s := countRetired e.cmd (updQueue c q popHead s)
      match panelOnCore s c with
      | some p => pumpCores p (pumpCore c pumpRounds s)
      | none => s
    else s
  | [] => s

/-- The MOVE or STREAM of queue 11 retires, in any order. -/
def retireMove (c id : Nat) (s : State) : State :=
  let s := updQueue c 11 (fun q => { q with
    ret := q.ret + 1, entries := q.entries.filter fun e => !(e.started && e.move == id) }) s
  let s := updCore c (fun x => { x with moves := x.moves.filter (·.id != id) }) s
  match panelOnCore s c with
  | some p => pumpCores p (pumpCore c pumpRounds s)
  | none => s

/-! ### Phases (R129) -/

/-- Close the phase that the core is in and enter another. -/
def enterPhase (c : Nat) (ph : Nat) (s : State) : State :=
  let x := coreOf s c
  let d := s.time - x.phaseSince
  let s := match ownerOfCore s c with
    | some p => updPanel p (fun y => { y with phaseNs := sset 0 y.phaseNs x.phase ((sget 0 y.phaseNs x.phase + d) % 2 ^ 64) }) s
    | none => s
  updCore c (fun x => { x with phase := ph, phaseSince := s.time }) s

/-! ### Context records (Table 4.4) -/

/-- The record of a core at operation index `idx`, with its commit sequence. -/
def contextRecord (s : State) (c idx seq : Nat) : Bytes :=
  let x := coreOf s c
  let fb := match kernelOnCore s c with
    | some k => k.fallback
    | none => false
  let lv := (List.range 4).flatMap fun i => match x.loops[i]? with
    | some l => toLe 4 l.count ++ toLe 4 l.start
    | none => toLe 8 0
  let b := toLe 4 (tagOnCore s c) ++ toLe 2 idx ++ toLe 1 x.loops.length ++ toLe 1 fb.toNat ++ lv ++
    ((List.range 15).flatMap fun i => toLe 4 (aReg x (i + 1))) ++ toLe 4 x.step.toNat ++ toLe 4 seq
  b ++ toLe 4 (crc32 b).toNat ++ toLe 16 0

/-- Restore a core from a record: index, loops, address registers, step. -/
def restoreContext (c : Nat) (b : Bytes) (s : State) : State :=
  let n := fieldNat b 6 1
  updCore c (fun x => { x with
    pc := BitVec.ofNat 16 (fieldNat b 4 2)
    loops := (List.range (min n 4)).map fun i => ⟨fieldNat b (8 + 8 * i) 4 % 2 ^ 25, fieldNat b (12 + 8 * i) 4 % 2 ^ 12⟩
    areg := (List.range 15).foldl (fun m i => sset 0 m (i + 1) (BitVec.ofNat 20 (fieldNat b (40 + 4 * i) 4))) []
    step := BitVec.ofNat 32 (fieldNat b 100 4) }) s

end Sys2Proof.Machine
end

