-- ==== Sys2Proof/Machine/Sched.lean ====
section
/-! DEFINITION. The tile scheduler (R71, R72, R316–R325, R329, R330): a kernel's header, placement, start, end, pre-emption,
resumption, and the deadline monitor of the resident model. -/
namespace Sys2Proof.Machine

/-! ### Kernel headers (R71, R72) -/

/-- An entry of a program table. -/
structure ProgEntry where
  core : Nat
  len : Nat
  addr : Nat
deriving DecidableEq, Repr

def progTable (s : State) (a n : Nat) : List ProgEntry :=
  (List.range n).map fun i => ⟨readNat s (a + 16 * i) 1, readNat s (a + 16 * i + 4) 4, readNat s (a + 16 * i + 8) 8⟩

/-- Kernel header fields (Table 4.1). -/
structure KHeader where
  magic : Nat
  version : Nat
  flags : Nat
  cores : Nat
  tag : Word32
  seed : Word64
  table : Nat
  fallback : Nat
  layer : Nat
deriving DecidableEq, Repr

def kHeader (s : State) (a : Nat) : KHeader :=
  { magic := readNat s a 4, version := readNat s (a + 4) 2, flags := readNat s (a + 6) 1, cores := readNat s (a + 7) 1
    tag := BitVec.ofNat 32 (readNat s (a + 8) 4), seed := BitVec.ofNat 64 (readNat s (a + 16) 8)
    table := readNat s (a + 24) 8, fallback := readNat s (a + 32) 8, layer := readNat s (a + 40) 8 }

/-- Is a table of n entries at address a acceptable to panel p. -/
def tableOk (s : State) (p a n : Nat) : Bool :=
  let t := progTable s a n
  grants s p false a (16 * n) && decide ((t.map (·.core)).Nodup) &&
  t.all fun e => 1 ≤ e.len && e.len ≤ 4096 && e.core < 128 && bitOf (panelGroups s p) (e.core / 8) &&
    grants s p false e.addr (16 * e.len)

/-- R72: may panel p launch the header at address a. -/
def headerOk (s : State) (p a : Nat) : Bool :=
  let h := kHeader s a
  grants s p false a 64 && h.magic = 0x484B_4A47 && h.version = 1 && 1 ≤ h.cores && h.cores ≤ 128 &&
  tableOk s p h.table h.cores &&
  (h.layer = 0 || grants s p false h.layer 32) &&
  (h.fallback = 0 || (tableOk s p h.fallback h.cores &&
    ((progTable s h.table h.cores).map (·.core)).all fun c =>
      ((progTable s h.fallback h.cores).map (·.core)).contains c))

/-- Hub block of an event about a kernel (R18): the tile of its ring's port. -/
def kernelHub (k : Kernel) : Nat := hubBlock k.port

/-! ### Placement (R317–R319) -/

/-- Bases that a kernel may take: its home span, or those that its group mask allows. -/
def basesOf (k : Kernel) : List Nat :=
  if k.mask = 0 then [(homeSpan k).1] else (List.range 16).filter fun b => bitOf k.mask.toNat b

def spanLen (k : Kernel) : Nat := (homeSpan k).2 + 1 - (homeSpan k).1

/-- Logical cores of a kernel placed at base b. -/
def coresAt (k : Kernel) (b : Nat) : List Nat := k.home.map fun c => c + 8 * b - 8 * (homeSpan k).1

/-- Core groups that a kernel may use. -/
def mayUse (k : Kernel) : List Nat :=
  (List.range 16).filter fun g => (basesOf k).any fun b => b ≤ g && g < b + spanLen k

def shareGroups (k j : Kernel) : Bool := (mayUse k).any (mayUse j).contains

/-- Waiting kernels of a panel in the order of R317. -/
def waitingOf (s : State) (p : Nat) : List Kernel := s.kernels.filter fun k => k.panel == p && k.phase = .waiting

/-- Does a kernel that a pre-emption set aside bar kernel k from core c: one of equal or higher priority, or one saved for
another kernel that still waits. -/
def barredBy (s : State) (k : Kernel) (c : Nat) : Bool :=
  s.kernels.any fun j => j.phase = .preempted && j.panel == k.panel && j.saved.any (·.1 == c) &&
    (k.prio ≤ j.prio || (j.forKid ≠ k.kid && s.kernels.any fun h => h.kid == j.forKid && h.phase = .waiting))

/-- May kernel k start on core c now. -/
def coreFree (s : State) (k : Kernel) (c : Nat) : Bool :=
  let x := coreOf s c
  x.kid = 0 && !x.lost && !x.failed && !x.awaitHost && !barredBy s k c

/-- Groups of the span at base b whose resident tag is the kernel's nonzero affinity tag. -/
def residentCount (s : State) (k : Kernel) (b : Nat) : Nat :=
  if k.affinity = 0 then 0
  else ((List.range (spanLen k)).filter fun i => (groupOf s (b + i)).resident == k.affinity).length

/-- The base that the hub chooses among the free ones (R318). -/
def chooseBase (s : State) (k : Kernel) : Option Nat :=
  ((basesOf k).filter fun b => (coresAt k b).all (coreFree s k)).foldl (fun best b =>
    match best with
    | none => some b
    | some a => if residentCount s k a < residentCount s k b then some b else some a) none

/-- No earlier waiting kernel of equal or higher priority may use the same groups. -/
def unblocked (s : State) (k : Kernel) : Bool :=
  ((waitingOf s k.panel).takeWhile (·.kid != k.kid)).all fun j => j.prio < k.prio || !shareGroups k j

/-- Of a list of kernels in order, the first of the highest priority. -/
def firstByPrio (l : List Kernel) : Option Kernel :=
  l.foldl (fun b k => match b with
    | none => some k
    | some a => if a.prio < k.prio then some k else some a) none

/-- Every placement of a kernel names a core that is lost (R370). -/
def lostCoreOf (s : State) (k : Kernel) : Option Nat :=
  if (basesOf k).all fun b => (coresAt k b).any fun c => (coreOf s c).lost then
    ((basesOf k).flatMap (coresAt k)).find? fun c => (coreOf s c).lost
  else none

/-! ### The deadline monitor (R329, R330) -/

/-- Does kernel k count for the layer times of the resident model. -/
def measured (s : State) (k : Kernel) : Bool := k.serving && k.layer ≠ 0 && s.model.owner == some k.panel

/-- A SERVING kernel starts: a measurement of an earlier step closes, and one of this step opens. Estimates are held plus
one, so that 0 is none; steps likewise. -/
def measureStart (k : Kernel) (s : State) : State :=
  if !measured s k then s
  else
    let l := k.layer - 1
    let st := k.step.toNat + 1
    let m := sget (0, 0, 0) s.model.meas l
    if m.1 = st || st < m.1 then s
    else
      let e := sget 0 s.model.est l
      let t := m.2.2 - m.2.1
      let e' := if m.1 = 0 then e else if e = 0 then t + 1
        else (((e - 1 : Nat) : Int) + Int.tdiv ((t : Int) - ((e - 1 : Nat) : Int)) 8).toNat + 1
      { s with model := { s.model with
          est := sset 0 s.model.est l e', meas := sset (0, 0, 0) s.model.meas l (st, s.time, s.time) } }

def measureEnd (k : Kernel) (s : State) : State :=
  if !measured s k then s
  else
    let l := k.layer - 1
    let m := sget (0, 0, 0) s.model.meas l
    if m.1 ≠ k.step.toNat + 1 then s
    else { s with model := { s.model with meas := sset (0, 0, 0) s.model.meas l (m.1, m.2.1, s.time) } }

/-- Index into the sequence table of list entry i. -/
def listIndex (s : State) (list i : Nat) : Nat := readNat s (list + 64 + 8 * i) 2

/-- Entries of panel p's work list whose deadline is nonzero and below P. -/
def lateEntries (s : State) (p list P : Nat) : List Nat :=
  (List.range (min (readNat s (list + 4) 4) 65536)).filter fun i =>
    let d := readNat s (odGet s 0x3403 (p + 1) + 64 * listIndex s list i + 8) 8
    d ≠ 0 && d < P

/-- Set EXIT in list entry i and in its sequence entry. -/
def setExit (p list : Nat) (s : State) (i : Nat) : State :=
  let e := odGet s 0x3403 (p + 1) + 64 * listIndex s list i + 5
  let b := readNat s (list + 64 + 8 * i + 2) 1
  let f := readNat s e 1
  storeBytes e (toLe 1 (if bitOf f 0 then f else f + 1))
    (storeBytes (list + 64 + 8 * i + 2) (toLe 1 (if bitOf b 0 then b else b + 1)) s)

/-- KSET of the panel's decide knot to step; 0 stands for no decide knot, as R328 says of the step knot (DEDUCED). -/
def setDecide (p step : Nat) (s : State) : State :=
  if odGet s 0x3408 (p + 1) = 0 then s
  else panelKnot p (panelHub s p) true (BitVec.ofNat 32 (odGet s 0x3408 (p + 1))) step s

/-- DEADLINE_DECISION of step st for the model's owner p. -/
def decide_ (p st : Nat) (s : State) : State :=
  let list := odGet s 0x3405 (p + 1)
  let sum := (List.range (s.model.lm - s.model.f)).foldl (fun n i => n + (sget 0 s.model.est (s.model.f + 1 + i) - 1)) 0
  let P := s.time + sum * odGet s 0x3400 3 / 100
  let s := storeBytes (list + 8) (toLe 8 P) { s with model := { s.model with decided := s.model.decided ++ [st] } }
  let late := lateEntries s p list P
  if odGet s 0x3400 2 = 0 then
    let s := late.foldl (setExit p list) s
    setDecide p st (if secure s p then s else odCount 0x340B 8 late.length s)
  else
    let s := { s with model := { s.model with awaiting := s.model.awaiting ++ [st] } }
    if late.isEmpty then s else postPanel p 0x3403 (panelHub s p) P (st + 2 ^ 32 * late.length) s

/-- The decision falls when the last SERVING kernel of layer F of a step has ended (R330); the kernel that ended is no longer
among `s.kernels`. -/
def decideAfter (k : Kernel) (s : State) : State :=
  if measured s k && k.layer = s.model.f + 1 && !s.model.decided.contains k.step.toNat &&
      odGet s 0x3405 (k.panel + 1) ≠ 0 &&
      !s.kernels.any fun j => j.panel == k.panel && j.serving && j.layer == k.layer && j.step == k.step then
    decide_ k.panel k.step.toNat s
  else s

/-! ### Start (R72) -/

/-- Copy n bytes of memory from one place to another. -/
def copyMem (src dst n : Nat) (s : State) : State :=
  let l := s.mem.filter fun e => src ≤ e.1 && e.1 < src + n
  let s := scrub dst n s
  { s with mem := l.foldl (fun m e => sset 0 m (e.1 - src + dst) e.2) s.mem }

/-- The core as it is when a kernel starts on it. The remote knot counts are saved as they stand (R367 step 4, R283). -/
def freshCore (k : Kernel) (len : Nat) (x : Core) : Core :=
  { x with
    kid := k.kid, pc := 0, progLen := len, step := k.step, seed := k.seed, areg := [], loops := []
    ended := false, yielded := false, queues := [], fslots := [], drained := [], moves := [], merge := none
    commitSeq := 0, commit0 := { remote := x.remote }, commit1 := {}, yieldRec := [], replay := 0, suppress := 0, seen := [], seenLeft := []
    reserved := 0, reservedSkip := 0, recCounts := [], expiries := [], replaying := false, missed := 0, remoteWait := none }

/-- Start kernel k on one core: program, registers, spool counts. -/
def startOn (k : Kernel) (s : State) (e : ProgEntry) : State :=
  let c := shiftCore k e.core
  let s := copyMem e.addr (coreStore c + 0x5F_0000) (16 * e.len) s
  loadSpools c k.panel (updCore c (freshCore k e.len) s)

/-- Code of the mode a kernel runs in, with the default in force at its start (R32). -/
def resolveWidth (s : State) (w : Nat) : Nat :=
  if w ≠ 0 then w else if odGet s 0x2100 1 = 2 then 2 else if odGet s 0x2100 1 = 4 then 3 else 1

/-- Event 0x2203: FALLBACK without a fallback variant, once for a kernel and step (R64). -/
def noteNoFallback (k : Kernel) (c layer : Nat) (s : State) : State :=
  let key := (0x2203, k.tag.toNat, k.step.toNat)
  if (panelOf s k.panel).once.contains key then s
  else
    let s := updPanel k.panel (fun x => { x with once := x.once ++ [key] }) s
    postPanel k.panel 0x2203 (coreBlock s c) (readNat s (layer + 28) 2 + 2 ^ 32 * k.step.toNat) k.tag.toNat s

/-- Start the built-in kernel of a collective on its worker core: no program, and its time counts as reduction (R129). -/
def startBuiltIn (k : Kernel) (b : Nat) (s : State) : State :=
  let Δ : Int := (b : Int) - (homeSpan k).1
  let s := updKernel k.kid (fun k => { k with phase := .running, shift := Δ }) s
  let s := (coresAt k b).foldl (fun s c => enterPhase c 3 (updCore c (fun x => { freshCore k 0 x with ended := true }) s)) s
  odCount 0x2301 1 1 (odCount 0x340B 3 (if Δ = 0 then 0 else 1) s)

/-- Start kernel k at base b. A kernel for the Tesh that is refused is aborted before its first operation; the source of event
0x2104 is then the lowest of its cores (R33, R43; DESIGN CHOICE: the spec does not say which core of several). -/
def startKernel (k : Kernel) (b : Nat) (s : State) : State :=
  let h := kHeader s k.header
  let fall := h.layer ≠ 0 && bitOf (readNat s (h.layer + 21) 1) 1
  let Δ : Int := (b : Int) - (homeSpan k).1
  let k := { k with phase := .running, shift := Δ, fallback := fall && h.fallback ≠ 0, width := resolveWidth s k.width }
  let s := updKernel k.kid (fun _ => k) s
  let s := (progTable s (if k.fallback then h.fallback else h.table) h.cores).foldl (startOn k) s
  let c := (coresAt k b).foldl min 127
  let s := odCount 0x2301 1 1 (odCount 0x340B 3 (if Δ = 0 then 0 else 1) s)
  let s := measureStart k s
  let s := if fall && h.fallback = 0 then noteNoFallback k c h.layer s else s
  if k.tesh && odGet s 0x2100 3 = 0 then coreFault c 0x2104 (coreBlock s c) 0 k.tag.toNat s
  else (coresAt k b).foldl (fun s c => reach c 0 s) s

def startAt (k : Kernel) (b : Nat) (s : State) : State :=
  if k.rtype = 0x23 then startBuiltIn k b s else startKernel k b s

/-! ### End -/

/-- Free the cores of a kernel. -/
def freeCore (s : State) (c : Nat) : State :=
  updCore c (fun x => { x with
    kid := 0, queues := [], moves := [], merge := none, drained := [], fslots := [], remoteWait := none, ended := true
    yielded := false }) (enterPhase c 5 s)

/-- Elements of a chunk: ⌈E/n⌉. -/
def chunkLen (e n : Nat) : Nat := (e + n - 1) / max n 1

/-- Elements of chunk i. -/
def chunkCount (e n i : Nat) : Nat := min e ((i + 1) * chunkLen e n) - min e (i * chunkLen e n)

/-- Bytes that the destination takes. -/
def Coll.dstBytes (x : Coll) : Nat :=
  match x.op with
  | 1 => 4 * x.count
  | 2 => 4 * chunkCount x.count x.n x.pos
  | 3 => x.n * x.count
  | _ => x.count

/-- A collective that ends by an abort or the watchdog: its destination is undefined (R286), as the spare of a PERMUTE that moves a
shard is (R211). -/
def openDest (s : State) (x : Coll) : State :=
  let v := freshBytes (if x.op = 4 && x.perm.getD x.pos x.pos = x.pos then 0 else x.dstBytes) s
  { v.2 with mem := memWrite v.2.mem x.dst v.1 }

/-- A kernel is over: cores free, resident tags set, its record complete (R305, R318). -/
def endKernel (k : Kernel) (s : State) : State :=
  let cs := coresOf s k.kid
  let gs := (cs.map (· / 8)).eraseDups
  let s := cs.foldl freeCore s
  let s := gs.foldl (fun s g => updGroup g (fun x => { x with resident := k.affinity }) s) s
  let s := (s.colls.filter (·.kid == k.kid)).foldl openDest s
  let s := measureEnd k { s with kernels := s.kernels.filter (·.kid != k.kid), colls := s.colls.filter (·.kid != k.kid) }
  decideAfter k (completeRec k.port k.ring k.recIdx k.hostTag.toNat k.rtype.toNat k.cqe k.status.toNat k.tag.toNat
    k.event.toNat s)

/-- Nothing of a core is still to retire. For an aborted kernel a MOVE that is stopped, or that has ended, counts as retired
(R74, R186). -/
def coreIdle (aborted : Bool) (x : Core) : Bool :=
  x.queues.all fun q => q.2.entries.all fun e =>
    aborted && q.1 = 11 && match x.moves.find? (·.id == e.move) with
      | some m => m.done || m.stopped
      | none => true

/-- May KERNEL_END happen. A collective also needs its completion knot signalled. -/
def kernelDone (s : State) (k : Kernel) : Bool :=
  match k.phase with
  | .running | .stopping =>
    !(coresOf s k.kid).isEmpty && (coresOf s k.kid).all fun c => (coreOf s c).ended && coreIdle false (coreOf s c)
  | .ending => (coresOf s k.kid).all fun c => coreIdle true (coreOf s c)
  | _ => false

/-- Abort a kernel and, when it holds no core, end it at once. -/
def killKernel (event : Nat) (s : State) (kid : Nat) : State :=
  let s := abortKernel kid event s
  match kernelBy s kid with
  | some k => if (coresOf s kid).isEmpty then endKernel k s else s
  | none => s

/-- End every kernel of a panel without waiting for what its cores had started: a reset stops them. -/
def dropKernels (p : Nat) (s : State) : State :=
  let ks := (s.kernels.filter (·.panel == p)).map (·.kid)
  ks.foldl (fun s kid =>
    let s := abortKernel kid 0 s
    match kernelBy s kid with
    | some k => endKernel k s
    | none => s) s

/-! ### Pre-emption (R322, R323) -/

/-- Address of the frame of core c for a kernel of panel p and priority q. -/
def frameAddr (s : State) (p c q : Nat) : Nat :=
  odGet s 0x3401 (p + 1) + (3 * (((panelCores s p).findIdx? (· == c)).getD 0) + q) * 0x80_0000

/-- Words of a sparse store, at their places in memory. -/
def putWords (a : Nat) (l : Sparse Word32) (s : State) : State :=
  l.foldl (fun s e => storeBytes (a + 4 * e.1) (toLe 4 e.2.toNat) s) s

/-- Words of memory as a sparse store of n words. -/
def getWords (s : State) (a n : Nat) : Sparse Word32 :=
  (s.mem.filter fun e => a ≤ e.1 && e.1 < a + 4 * n).foldl (fun m e =>
    sset 0 m ((e.1 - a) / 4) (BitVec.ofNat 32 (readNat s (a + (e.1 - a) / 4 * 4) 4))) []

/-- Write the frame of core c (Table 14.2). -/
def saveFrame (f c : Nat) (s : State) : State :=
  let x := coreOf s c
  let s := copyMem (coreStore c) f storeSize (scrub f 0x80_0000 s)
  let s := (List.range 4).foldl (fun s n => putWords (f + 0x60_0000 + n * 0x4_0000) (arrOf x n).bank s) s
  let s := storeBytes (f + 0x70_0000) x.held.data s
  let s := putWords (f + 0x71_0000) x.hres s
  let s := storeBytes (f + 0x71_0800)
    ((List.range 64).flatMap (fun n => toLe 8 (sget 0 x.spoolP n)) ++
      (List.range 64).flatMap (fun n => toLe 8 (sget 0 x.spoolC n))) s
  storeBytes (f + 0x71_0C00) (if x.yieldRec.isEmpty then contextRecord s c x.pc.toNat 0 else x.yieldRec) s

/-- PREEMPT_SAVE: every core of a stopped kernel has yielded or ended. -/
def saveKernel (k : Kernel) (s : State) : State :=
  let cs := coresOf s k.kid
  let saved := cs.map fun c => (c, coreOf s c)
  let s := cs.foldl (fun s c => saveFrame (frameAddr s k.panel c k.prio) c s) s
  let s := cs.foldl freeCore s
  odCount 0x340B 1 1 (odCount 0x340B 4 ((s.time - k.since) / 1000)
    (updKernel k.kid (fun k => { k with phase := .preempted, saved := saved }) s))

/-- Save a kernel that has been asked to stop once all its cores have. -/
def saveIfStopped (kid : Nat) (s : State) : State :=
  match kernelBy s kid with
  | none => s
  | some k =>
    let cs := coresOf s kid
    if k.phase = .stopping && cs.any (fun c => (coreOf s c).yielded) &&
        cs.all (fun c => (coreOf s c).yielded || (coreOf s c).ended) then saveKernel k s
    else s

/-- Kernels on the cores of kernel k placed at base b. -/
def occupants (s : State) (k : Kernel) (b : Nat) : List Kernel :=
  s.kernels.filter fun j => (coresAt k b).any fun c => (coreOf s c).kid = j.kid && j.kid ≠ 0

/-- May k take base b by pre-emption. -/
def canPreempt (s : State) (k : Kernel) (b : Nat) : Bool :=
  (occupants s k b).all (fun j => j.prio < k.prio) &&
  (coresAt k b).all fun c => !(coreOf s c).lost && !(coreOf s c).failed && !(coreOf s c).awaitHost && !barredBy s k c

/-- Cores that would have to be saved for base b. -/
def saveCost (s : State) (k : Kernel) (b : Nat) : Nat :=
  (occupants s k b).foldl (fun n j => n + (coresOf s j.kid).length) 0

/-- Ask the kernels on base b to stop. -/
def requestStop (k : Kernel) (b : Nat) (s : State) : State :=
  (occupants s k b).foldl (fun s j =>
    updKernel j.kid (fun j => if j.phase = .running then { j with phase := .stopping, forKid := k.kid, since := s.time } else j) s) s

/-! ### Resumption (R324) -/

/-- May pre-empted kernel k resume. -/
def canResume (s : State) (k : Kernel) : Bool :=
  k.phase = .preempted &&
  (k.saved.all fun e => (coreOf s e.1).kid = 0 && !(coreOf s e.1).lost && !(coreOf s e.1).failed && !(coreOf s e.1).awaitHost) &&
  ((waitingOf s k.panel).all fun j => j.prio ≤ k.prio || !(k.saved.any fun e => (mayUse j).contains (e.1 / 8))) &&
  s.kernels.all fun j => !(j.phase = .preempted && j.panel == k.panel && k.prio < j.prio &&
    k.saved.any fun e => j.saved.any (·.1 == e.1))

/-- Restore one core from its frame. -/
def restoreFrame (k : Kernel) (s : State) (e : Nat × Core) : State :=
  let c := e.1
  let f := frameAddr s k.panel c k.prio
  let s := copyMem f (coreStore c) storeSize s
  let arrs := (List.range 4).foldl (fun l n => sset {} l n { arrOf e.2 n with bank := getWords s (f + 0x60_0000 + n * 0x4_0000) 65536 })
    e.2.arrays
  let x : Core := { e.2 with
    arrays := arrs, hres := getWords s (f + 0x71_0000) 512, fslots := [], yielded := false
    held := { e.2.held with data := readBytes s (f + 0x70_0000) e.2.held.data.length }
    spoolP := (List.range 64).foldl (fun m n => sset 0 m n (readNat s (f + 0x71_0800 + 8 * n) 8)) []
    spoolC := (List.range 64).foldl (fun m n => sset 0 m n (readNat s (f + 0x71_0A00 + 8 * n) 8)) [] }
  let now := enterPhase c x.phase s
  restoreContext c (readBytes s (f + 0x71_0C00) 128) (setCore c { x with phaseSince := s.time, remote := (coreOf s c).remote } now)

/-- Resume kernel k. -/
def resumeKernel (k : Kernel) (s : State) : State :=
  let s := k.saved.foldl (restoreFrame k) s
  let s := odCount 0x340B 2 1 (updKernel k.kid (fun k => { k with phase := .running, saved := [], forKid := 0 }) s)
  k.saved.foldl (fun s e => reach e.1 (coreOf s e.1).pc.toNat s) s

/-! ### The commands of the scheduler -/

/-- Event 0x1901 for a kernel that names a lost core, which ends with status 1 (R370). -/
def refuseLost (k : Kernel) (c : Nat) (s : State) : State :=
  let s := postBoth k.panel 0x1901 (coreBlock s c) (coreBlock s c + 2 ^ 16 * c) (k.tag.toNat + 2 ^ 32 * 3) s
  killKernel 0x1901 s k.kid

/-- KERNEL_START. -/
def doKernelStart (p : Nat) (s : State) : State :=
  match (waitingOf s p).find? fun k => (lostCoreOf s k).isSome with
  | some k => refuseLost k ((lostCoreOf s k).getD 0) s
  | none =>
    match firstByPrio ((waitingOf s p).filter fun k => unblocked s k && (chooseBase s k).isSome) with
    | none => s
    | some k => startAt k ((chooseBase s k).getD 0) s

/-- KERNEL_END. -/
def doKernelEnd (kid : Nat) (s : State) : State :=
  match kernelBy s kid with
  | none => s
  | some k => if kernelDone s k && (k.phase = .ending || !s.colls.any (·.kid == kid)) then endKernel k s else s

/-- PREEMPT. -/
def doPreempt (p : Nat) (s : State) : State :=
  match firstByPrio (waitingOf s p) with
  | none => s
  | some k =>
    if odGet s 0x3401 (p + 1) = 0 || (chooseBase s k).isSome ||
        s.kernels.any (fun j => j.phase = .stopping && j.forKid == k.kid) then s
    else
      match ((basesOf k).filter (canPreempt s k)).foldl (fun best b =>
          match best with
          | none => some b
          | some a => if saveCost s k b < saveCost s k a then some b else some a) none with
      | none => s
      | some b => requestStop k b s

/-- KERNEL_RESUME. -/
def doKernelResume (p : Nat) (s : State) : State :=
  match firstByPrio (s.kernels.filter fun k => k.panel == p && canResume s k) with
  | none => s
  | some k => resumeKernel k s

/-- SCHED_ABORT: a kernel of the panel with that tag. -/
def doSchedAbort (p : Nat) (tag : Word32) (s : State) : State :=
  (s.kernels.filter fun k => k.panel == p && k.tag == tag && k.phase != .ending).foldl (fun s k => killKernel 0 s k.kid) s

/-- SCHED_DECIDE: in host-assisted mode, or of a step whose decision fell in it (R399). -/
def doSchedDecide (p : Nat) (step : Word32) (s : State) : State :=
  if s.model.owner == some p && (odGet s 0x3400 2 = 1 || s.model.awaiting.contains step.toNat) then
    setDecide p step.toNat { s with model := { s.model with awaiting := s.model.awaiting.erase step.toNat } }
  else s

end Sys2Proof.Machine
end

