-- ==== Sys2Proof/Machine/Rings.lean ====
section
/-! DEFINITION. The Riloz ports as a host uses them (R289–R310, R414): inbound writes, slot blocks, ring blocks, doorbells,
the taking of records, and the records whose effect is in the ring itself (NOP, KERNEL, FENCE, PUBLISH). -/
namespace Sys2Proof.Machine

def rilozBlock (h : Nat) : Nat := 0x7000 + h

/-- The panel that owns the slot of ring r. -/
def ringPanel (s : State) (h r : Nat) : Option Nat := ownerOfSlot s h (r / 16)

def powerOfTwo (n : Nat) : Bool := 0 < n && 2 ^ Nat.log2 n = n

/-! ### Inbound windows (R291) -/

/-- Inbound payload of a write. -/
def countInbound (h n : Nat) (s : State) : State := portCount h 48 n (portCount h 8 ((n + 111) / 112) s)

/-- A host write to BAR2 at offset o. -/
def bar2Write (h o : Nat) (d : Bytes) (s : State) : State :=
  let w := o / 2 ^ 36
  let b := slotOf s h w
  let a := b.target.toNat + o % 2 ^ 36
  match (if w < 4 then ownerOfSlot s h w else none) with
  | none => portCount h 64 1 s
  | some p =>
    if b.length.toNat < o % 2 ^ 36 + d.length then portCount h 64 1 s
    else if !grants s p true a d.length then
      postPanel p 0x3001 (rilozBlock h) a 0 (portCount h 64 1 s)
    else if (lostPartly s a d.length).isSome then portCount h 64 1 s
    else countInbound h d.length (writeBytes a d s)

/-! ### Slot blocks (Table 13.4) -/

/-- Drop cached translation entries of slot w that a test picks out. -/
def dropCache (h w : Nat) (pick : Nat → Bool) (s : State) : State :=
  updPort h (fun p => { p with cache := p.cache.filter fun e => !(e.1 / 2 ^ 40 == w && pick (e.1 % 2 ^ 40)) }) s

/-- Writes kept for a translation fault may be tried again: events of the slot's panel, and completions of its rings. -/
def retryEvents (h w : Nat) (s : State) : State :=
  match ownerOfSlot s h w with
  | none => s
  | some p => flushEvents p 257 (updPanel p (fun x => { x with evKept := false }) s)

def retryRing (h r : Nat) (s : State) : State :=
  flushRing h r 65 (updRing h r (fun x => { x with kept := false }) s)

def retrySlot (h w : Nat) (s : State) : State :=
  (List.range 16).foldl (fun s i => retryRing h (16 * w + i) s) (retryEvents h w s)

/-- The invalidate field (R294): a page index, or the whole slot. The drop is complete at once, so BUSY is never seen. -/
def doInvalidate (h w : Nat) (page : Word32) (s : State) : State :=
  if (ownerOfSlot s h w).isNone then s
  else
    retrySlot h w (dropCache h w (fun i => page = 0xFFFF_FFFF || i = page.toNat) s)

def doEventConsumer (h w : Nat) (v : Word32) (s : State) : State :=
  if (ownerOfSlot s h w).isNone then s else retryEvents h w (updSlot h w (fun b => { b with evCons := v }) s)

/-- Write of the field at offset o of slot block (h, w), n bytes wide; a value that breaks the field's form is ignored. -/
def slotField (h w o v : Nat) (s : State) : State :=
  if (ownerOfSlot s h w).isNone then s
  else
    let drop := dropCache h w (fun _ => true)
    match o with
    | 0x008 => if v % 4096 = 0 then updSlot h w (fun b => { b with target := BitVec.ofNat 64 v }) s else s
    | 0x010 => if v % 4096 = 0 && v ≤ 2 ^ 36 then updSlot h w (fun b => { b with length := BitVec.ofNat 64 v }) s else s
    | 0x018 => drop (updSlot h w (fun b => { b with tabBase := BitVec.ofNat 64 v }) s)
    | 0x020 => drop (updSlot h w (fun b => { b with tabEntries := BitVec.ofNat 32 v }) s)
    | 0x024 => if v ≤ 2 then drop (updSlot h w (fun b => { b with pageSize := BitVec.ofNat 8 v }) s) else s
    | 0x028 => doInvalidate h w (BitVec.ofNat 32 v) s
    | 0x040 => if v % 64 = 0 then updSlot h w (fun b => { b with evBase := BitVec.ofNat 64 v }) s else s
    | 0x048 =>
      if v = 0 || (64 ≤ v && v ≤ 65536 && powerOfTwo v) then
        let s := updSlot h w (fun b => { b with evEntries := BitVec.ofNat 32 v }) s
        match ownerOfSlot s h w with
        | some p => flushEvents p 257 s
        | none => s
      else s
    | 0x04C => doEventConsumer h w (BitVec.ofNat 32 v) s
    | 0x050 => if v % 8 = 0 then updSlot h w (fun b => { b with prodWord := BitVec.ofNat 64 v }) s else s
    | 0x05C => updSlot h w (fun b => { b with evVec := BitVec.ofNat 16 v }) s
    | _ => s

/-- Fields of a slot block that a host may write, with their widths. -/
def slotFields : List (Nat × Nat) :=
  [(0x008, 8), (0x010, 8), (0x018, 8), (0x020, 4), (0x024, 1), (0x028, 4), (0x040, 8), (0x048, 4), (0x04C, 4), (0x050, 8),
   (0x05C, 2)]

/-! ### Rings (R297–R300) -/

/-- The panel's rings read QUIESCED (R310). -/
def panelQuiesced (s : State) (p : Nat) : Bool := !(panelOf s p).quiesced.isEmpty

def doRingEnable (h r : Nat) (s : State) : State :=
  match ringPanel s h r with
  | none => s
  | some p =>
    let x := ringOf s h r
    if x.st ≠ .disabled || x.entries = 0 || !inOwnCrown s p x.base.toNat (64 * x.entries.toNat) ||
        !tableGrants s p false x.base.toNat (64 * x.entries.toNat) then s
    else
      updRing h r (fun x => { x with
        st := if panelQuiesced s p then .quiesced else .running
        head := 0, tail := 0, cProd := 0, cCons := 0, cause := 0, heldRec := 0, stale := 0, fence := none, fenceBody := [], job := 0
        kept := false }) s

def doRingDisable (h r : Nat) (s : State) : State :=
  if (ringPanel s h r).isNone then s
  else updRing h r (fun x => { x with st := .disabled, fence := none, fenceBody := [], cause := 0 }) s

/-- The 64 bytes of record n. -/
def recordAt (s : State) (x : Ring) (n : Word32) : Bytes :=
  readBytes s (x.base.toNat + 64 * (n.toNat % max x.entries.toNat 1)) 64

/-- Does the record's PHASE bit make it valid (R298). -/
def phaseValid (x : Ring) (n : Word32) (b : Bytes) : Bool :=
  bitOf (fieldNat b 1 1) 0 == (n.toNat / max x.entries.toNat 1 % 2 == 0)

/-- The hub could take a record from the ring now. -/
def taking (x : Ring) : Bool :=
  x.st = .running && x.fence.isNone && x.head ≠ x.tail && x.waitC.length < 64

/-- The ring holds at its head record (R299–R301). -/
def holdRing (h r : Nat) (cause : Byte) (s : State) : State :=
  updRing h r (fun x => { x with st := .held, cause := cause, heldRec := x.head }) s

def postRing (h r code src a b : Nat) (s : State) : State :=
  match ringPanel s h r with
  | some p => postPanel p code src a b s
  | none => s

def ringName (h r : Nat) : Nat := r + 2 ^ 8 * h

/-- The slot of the head record is not valid: the ring holds with event 0x3301. -/
def holdInvalid (h r : Nat) (s : State) : State :=
  postRing h r 0x3301 (rilozBlock h) (ringName h r) (ringOf s h r).head.toNat (holdRing h r 1 s)

/-- The head record is refused and the ring holds, with an event of the caller's. -/
def holdRefused (h r : Nat) (s : State) : State := holdRing h r 2 s

/-- Event 0x3303 about the head record. -/
def postRefused (h r n type : Nat) (s : State) : State :=
  postRing h r 0x3303 (hubBlock h) (ringName h r) (n + 2 ^ 32 * type) s

/-- Types of Table 13.8. -/
def recordTypes : List Nat := [0x00, 0x01, 0x02, 0x03, 0x04, 0x10, 0x11, 0x12, 0x20, 0x21, 0x22, 0x23, 0x30, 0x31, 0x32]

/-- A record of an unlisted type, or with reserved header bits set. -/
def headerBad (b : Bytes) : Bool := !recordTypes.contains (fieldNat b 0 1) || 4 ≤ fieldNat b 1 1 || fieldNat b 4 4 ≠ 0

/-- What the hub does at a ring's head without taking a record: in host-assisted mode it holds at an invalid slot at once;
it holds at a record of an unlisted type. -/
def checkHead (h r : Nat) (s : State) : State :=
  let x := ringOf s h r
  if !taking x then s
  else
    let b := recordAt s x x.head
    if !phaseValid x x.head b then (if odGet s 0x3300 1 = 1 then holdInvalid h r s else s)
    else if headerBad b then postRefused h r x.head.toNat (fieldNat b 0 1) (holdRefused h r s)
    else s

/-- A doorbell of tail t (R299). -/
def doDoorbell (h r : Nat) (t : Word32) (s : State) : State :=
  if (ringPanel s h r).isNone then s
  else
    let s := updRing h r (fun x => if x.st = .held then { x with st := .running, cause := 0 } else x) s
    let x := ringOf s h r
    if x.st ≠ .running then s
    else
      let a := (t - x.head).toNat
      let b := (x.tail - x.head).toNat
      if t = x.tail then checkHead h r s
      else if a ≤ b then checkHead h r (updRing h r (fun x => { x with stale := x.stale + 1 }) s)
      else if a ≤ x.entries.toNat then checkHead h r (updRing h r (fun x => { x with tail := t }) s)
      else
        postRing h r 0x3302 (rilozBlock h) (ringName h r) (t.toNat + 2 ^ 32 * x.head.toNat) (holdRing h r 3 s)

/-- A record as the hub takes it. -/
structure Rec where
  h : Nat
  r : Nat
  p : Nat
  n : Nat
  type : Nat
  cqe : Bool
  tag : Nat
  body : Bytes
deriving DecidableEq, Repr

/-- The record at the head of ring (h, r), when it can be taken and is well formed. -/
def headRec (s : State) (h r : Nat) : Option Rec :=
  let x := ringOf s h r
  let b := recordAt s x x.head
  match ringPanel s h r with
  | none => none
  | some p =>
    if panelOpen s p && taking x && phaseValid x x.head b && !headerBad b then
      some { h := h, r := r, p := p, n := x.head.toNat, type := fieldNat b 0 1, cqe := bitOf (fieldNat b 1 1) 1
             tag := fieldNat b 2 2, body := b }
    else none

/-- The hub takes the record. -/
def takeRec (c : Rec) (s : State) : State :=
  updRing c.h c.r (fun x => { x with head := x.head + 1, open_ := x.open_ ++ [c.n] }) s

/-- The record completes. -/
def finishRec (c : Rec) (status tag event : Nat) (s : State) : State :=
  completeRec c.h c.r c.n c.tag c.type c.cqe status tag event s

/-- The record is taken and is complete. -/
def doneRec (c : Rec) (status event : Nat) (s : State) : State :=
  checkHead c.h c.r (finishRec c status 0 event (takeRec c s))

def Rec.field (c : Rec) (o n : Nat) : Nat := fieldNat c.body o n

/-- Every byte of the record from 8 on is zero but those of the listed fields (offset, length). -/
def Rec.zeroBut (c : Rec) (fs : List (Nat × Nat)) : Bool :=
  (List.range 56).all fun i => c.body.getD (8 + i) 0 == 0 || fs.any fun f => f.1 ≤ 8 + i && 8 + i < f.1 + f.2

/-- Hub block of an event about a record of a ring of port h. -/
def Rec.hub (c : Rec) : Nat := hubBlock c.h

/-- Handle the head record of ring (h, r) if it is one that `pick` names. A record that the hub cannot take leaves the ring
as it is, but for what `checkHead` says. -/
def withRec (h r : Nat) (pick : Rec → Bool) (f : Rec → State → State) (s : State) : State :=
  match headRec s h r with
  | some c => if pick c then f c s else s
  | none => checkHead h r s

/-! ### NOP and KERNEL -/

/-- A body that its rule does not allow: status 2 and event 0x3303, and the ring moves on (R301). -/
def refuseRec (c : Rec) (s : State) : State := postRefused c.h c.r c.n c.type (doneRec c 2 0x3303 s)

/-- A FENCE, PUBLISH or JOB body that its rule does not allow holds the ring (R301). -/
def holdRec (c : Rec) (s : State) : State := postRefused c.h c.r c.n c.type (holdRefused c.h c.r s)

def doNopRecord (h r : Nat) (s : State) : State :=
  withRec h r (·.type == 0x00) (fun c s => if c.zeroBut [] then doneRec c 0 0 s else refuseRec c s) s

/-- The kernel that a KERNEL record with an accepted header makes. -/
def newKernel (s : State) (c : Rec) : Kernel :=
  let a := c.field 16 8
  let h := kHeader s a
  { kid := s.nextKid, panel := c.p, phase := .waiting, tag := h.tag, port := c.h, ring := c.r, recIdx := c.n
    hostTag := BitVec.ofNat 16 c.tag, cqe := c.cqe, rtype := 0x01, job := (ringOf s c.h c.r).job
    step := BitVec.ofNat 32 (c.field 8 4), prio := c.field 24 1 % 4, serving := bitOf (c.field 25 1) 0, layer := c.field 26 2
    mask := BitVec.ofNat 16 (c.field 28 2), affinity := BitVec.ofNat 16 (c.field 30 2), header := a
    home := (progTable s h.table h.cores).map (·.core), shift := 0, fallback := false, width := h.flags / 2 % 4
    tesh := bitOf h.flags 0, seed := h.seed, status := 0, event := 0, forKid := 0, since := s.time, saved := [] }

/-- A group mask that R319 does not allow. -/
def maskBad (s : State) (k : Kernel) : Bool :=
  (List.range 16).any fun b => bitOf k.mask.toNat b &&
    (List.range (spanLen k)).any fun i => 16 ≤ b + i || !bitOf (panelGroups s k.panel) (b + i)

/-- Cause of event 0x3401 (R316). -/
def schedCause (s : State) (c : Rec) (k : Kernel) : Option Nat :=
  if 4 ≤ c.field 24 1 || 2 ≤ c.field 25 1 then some 1
  else if maskBad s k then some 2
  else if 1024 < c.field 26 2 then some 3
  else none

def doKernel (h r : Nat) (s : State) : State :=
  withRec h r (·.type == 0x01) (fun c s =>
    let a := c.field 16 8
    if !headerOk s c.p a then
      postPanel c.p 0x2305 c.hub a (if grants s c.p false a 64 then (kHeader s a).tag.toNat else 0) (doneRec c 2 0x2305 s)
    else if !c.zeroBut [(8, 4), (16, 16)] then refuseRec c s
    else
        let k := newKernel s c
        match schedCause s c k with
        | some cause =>
          postPanel c.p 0x3401 c.hub (c.n + 2 ^ 32 * c.r) (k.mask.toNat + 2 ^ 16 * cause) (doneRec c 2 0x3401 s)
        | none =>
          let s := takeRec c s
          let s := { s with kernels := s.kernels ++ [k], nextKid := s.nextKid + 1 }
          let s := match lostCoreOf s k with
            | some l => refuseLost k l s
            | none => s
          checkHead h r s) s

/-! ### FENCE and PUBLISH (R304) -/

/-- The device writes that a panel issued through port h have been posted: nothing waits in the replay buffer. -/
def postedAll (s : State) (h : Nat) : Bool := (portOf s h).replay.isEmpty

/-- FENCE, PUBLISH and MODEL wait at the ring until every earlier record has completed. -/
def fenceRec (c : Rec) (s : State) : State :=
  updRing c.h c.r (fun x => { x with head := x.head + 1, fence := some (c.n, BitVec.ofNat 8 c.type, c.cqe, BitVec.ofNat 16 c.tag), fenceBody := c.body }) s

/-- The fence of a ring is over. -/
def endFence (h r n type : Nat) (cqe : Bool) (tag status event : Nat) (s : State) : State :=
  checkHead h r (completeRec h r n tag type cqe status 0 event (updRing h r (fun x => { x with fence := none, fenceBody := [] }) s))

/-- Effect of PUBLISH once its fence is clear: write back the panel's dirty lines; it completes when the writes are
posted. -/
def publishNow (h r n : Nat) (cqe : Bool) (tag : Nat) (s : State) : State :=
  match ringPanel s h r with
  | none => endFence h r n 0x03 cqe tag 0 0 s
  | some p =>
    let s := tbFlush (tbOfPanel s p) s
    if postedAll s h then endFence h r n 0x03 cqe tag 0 0 s else s

end Sys2Proof.Machine
end

