-- ==== Sys2Proof/Machine/Records.lean ====
section
/-! DEFINITION. Ring records of the update and of Root streaming: SCHEDULE (R115–R117), SNAPSHOT (R132–R135), GRAFT (R136) and
WINDOW with the streamer it drives (R156). -/
namespace Sys2Proof.Machine

/-! ### SCHEDULE (R116) -/

def doSchedule (h r : Nat) (s : State) : State :=
  withRec h r (·.type == 0x10) (fun c s =>
    let t := c.field 16 8
    if t = 0 || !grants s c.p true t 8320 || readNat s t 4 ≠ groupMagic ||
        !c.zeroBut [(8, 4), (16, 8), (24, 8), (32, 5), (40, 16)] then
      postPanel c.p 0x2503 c.hub (c.field 8 4) t (holdRefused h r s)
    else doneRec c 0 0 (updPanel c.p (fun x => { x with groupTable := t }) (applySchedule t c.body s))) s

/-! ### SNAPSHOT (R132–R135) -/

def pad64 (n : Nat) : Nat := (n + 63) / 64 * 64

/-- Bytes of the plaintext payload of a list. -/
def snapPayload (s : State) (list n : Nat) : Nat :=
  (List.range n).foldl (fun t i => t + 64 + pad64 (readNat s (list + 32 * i + 16) 8)) 0

/-- Bytes of the whole stream. -/
def snapLength (sec : Bool) (payload : Nat) : Nat :=
  128 + payload + (if sec then 16 * ((payload + 65535) / 65536) else 0)

/-- Cause of event 0x2504. -/
def snapCause (s : State) (c : Rec) : Option Nat :=
  let list := c.field 16 8
  let n := c.field 24 4
  let dest := c.field 32 8
  let slot := c.field 12 2
  let sec := secure s c.p
  let badCount := n = 0 || 65536 < n
  let listOk := !badCount && grants s c.p false list (32 * n)
  let total := snapLength sec (snapPayload s list n)
  if listOk && (List.range (n - 1)).any (fun i =>
      readNat s (list + 32 * (i + 1) + 4) 2 < readNat s (list + 32 * i + 4) 2) then some 1
  else if !listOk || dest % 64 ≠ 0 || !inHost dest || !grants s c.p true dest 64 ||
      (List.range n).any (fun i =>
        !grants s c.p false (readNat s (list + 32 * i + 8) 8) (readNat s (list + 32 * i + 16) 8)) then some 2
  else if sec && (16 ≤ slot || (sget {} (panelOf s c.p).keys slot).purpose ≠ 1) then some 3
  else if c.field 40 8 < total then some 4
  else none

/-- Pieces of a device write that cross no 4 KiB boundary: offset and length. -/
def pagePieces (a : Nat) : Nat → Nat → List (Nat × Nat)
  | 0, _ => []
  | fuel + 1, n =>
    if n = 0 then []
    else
      let k := min n (4096 - a % 4096)
      (a, k) :: pagePieces (a + k) fuel (n - k)

/-- Write bytes of the stream to the host, whole or not at all. -/
def snapWrite (p a : Nat) (b : Bytes) (s : State) : Option State :=
  if b.isEmpty then some s
  else
    let ps := pagePieces a (b.length / 4096 + 2) b.length
    let h := portOfAddr a
    let ok := ps.all fun e => portOfAddr e.1 = h && grants s p true e.1 e.2 &&
      match (translate h (windowOf e.1).2.1 (windowOf e.1).2.2 s).1 with
      | .ok _ => true
      | .fault _ => false
    if !ok || (portOf s h).st = .hostlost then none
    else some (ps.foldl (fun s e =>
      match translate h (windowOf e.1).2.1 (windowOf e.1).2.2 s with
      | (.ok bus, s) => portSend h (.write bus ((b.drop (e.1 - a)).take e.2)) s
      | (.fault _, s) => s) s)

def updSnap (p : Nat) (f : Snap → Snap) (s : State) : State := updPanel p (fun x => { x with snap := x.snap.map f }) s

/-- Add formed bytes to the stream. -/
def Snap.emit (n : Snap) (b : Bytes) : Snap := { n with out := n.out ++ b, stream := n.stream ++ b }

/-- One sealed chunk (R133). -/
def Snap.sealed (n : Snap) (key b : Bytes) : Snap :=
  let e := gcmSeal key (toLe 8 n.id ++ toLe 4 n.chunkNo) n.head b
  { n.emit (e.1 ++ e.2) with chunkNo := n.chunkNo + 1 }

/-- Seal whole chunks of the waiting payload; at the end of the list the last, shorter one too. -/
def Snap.sealChunks (key : Bytes) (last : Bool) : Nat → Snap → Snap
  | 0, n => n
  | fuel + 1, n =>
    if n.chunk.length < 65536 && !(last && !n.chunk.isEmpty) then n
    else Snap.sealChunks key last fuel { n.sealed key (n.chunk.take 65536) with chunk := n.chunk.drop 65536 }

/-- Add payload. -/
def Snap.addPayload (sec : Bool) (key b : Bytes) (last : Bool) (n : Snap) : Snap :=
  if sec then
    let n := { n with chunk := n.chunk ++ b }
    Snap.sealChunks key last (n.chunk.length / 65536 + 2) n
  else n.emit b

/-- Entry i of the list as payload. -/
def snapEntry (s : State) (a : Nat) : Bytes :=
  let len := readNat s (a + 16) 8
  padTo 64 (readBytes s a 8 ++ toLe 8 len) ++ padTo (pad64 len) (readBytes s (readNat s (a + 8) 8) len)

/-- Write out what has been formed; with everything read and written, the snapshot is complete. -/
def flushSnap (p : Nat) (s : State) : State :=
  match (panelOf s p).snap with
  | none => s
  | some n =>
    match snapWrite p (n.dest + n.written) n.out s with
    | none => s
    | some s =>
      let s := updSnap p (fun n => { n with written := n.written + n.out.length, out := [] }) s
      if n.next < n.count then s
      else
        let s := odCount 0x2501 5 1 (updPanel p (fun x => { x with snap := none }) s)
        pumpCores p (checkHead n.port n.ring (completeRec n.port n.ring n.recIdx n.hostTag 0x11 n.cqe 0 0 0 s))

/-- Begin a snapshot: the stream header is written. -/
def startSnap (c : Rec) (s : State) : State :=
  let id := odGet s 0x2500 3
  let sec := secure s c.p
  let list := c.field 16 8
  let n := c.field 24 4
  let head := padTo 64 ([0x47, 0x4A, 0x53, 0x4E] ++ toLe 2 1 ++ toLe 1 sec.toNat ++ toLe 1 c.p ++ toLe 4 (c.field 8 4) ++
    toLe 4 n ++ toLe 8 id ++ toLe 2 (c.field 12 2) ++ toLe 6 0 ++ toLe 8 (snapPayload s list n))
  let sn : Snap :=
    { id := id, step := BitVec.ofNat 32 (c.field 8 4), keySlot := c.field 12 2, list := list, count := n, next := 0
      dest := c.field 32 8, head := head, out := head, written := 0, chunk := [], chunkNo := 0, stream := head, port := c.h
      ring := c.r, recIdx := c.n, hostTag := c.tag, cqe := c.cqe }
  flushSnap c.p (updPanel c.p (fun x => { x with snap := some sn }) (odPut 0x2500 3 (id + 1) s))

def doSnapshot (h r : Nat) (s : State) : State :=
  withRec h r (·.type == 0x11) (fun c s =>
    if (panelOf s c.p).snap.isSome then s
    else
      match snapCause s c with
      | some cause =>
        postPanel c.p 0x2504 c.hub (c.field 8 4 + 2 ^ 32 * cause) (c.field 16 8) (doneRec c 2 0x2504 s)
      | none => checkHead h r (startSnap c (takeRec c s))) s

/-- SNAPSHOT_ENTRY: the next entry whose update knot shows the step (R134). -/
def doSnapEntry (p : Nat) (s : State) : State :=
  match (panelOf s p).snap with
  | none => s
  | some n =>
    if !n.out.isEmpty then flushSnap p s
    else if n.count ≤ n.next then s
    else
      let a := n.list + 32 * n.next
      let k := BitVec.ofNat 32 (readNat s (a + 24) 4)
      let i := knotAt k
      let from_ := readNat s (a + 8) 8
      let len := readNat s (a + 16) 8
      if knotFab k ≠ fabricId s || !knotAddrOk k || (knotOf s i).value.toNat < n.step.toNat then s
      else if !grants s p false from_ len then s
      else match hubMeets [(from_, len)] s with
      | (some _, s) => s
      | (none, s) =>
        let key := (sget {} (panelOf s p).keys n.keySlot).key
        let last := n.next + 1 = n.count
        let m := Snap.addPayload (secure s p) key (snapEntry s a) last { n with next := n.next + 1 }
        let m := if last then m.emit (padTo 64 (sha256 m.stream)) else m
        pumpCores p (flushSnap p (updPanel p (fun x => { x with snap := some m }) (noteRead from_ len s)))

/-- A snapshot is abandoned (R135). -/
def abandonSnap (p : Nat) (s : State) : State :=
  match (panelOf s p).snap with
  | none => s
  | some n =>
    let s := odCount 0x2501 6 1 (updPanel p (fun x => { x with snap := none }) s)
    let s := postPanel p 0x2505 (hubBlock n.port) n.id n.next s
    pumpCores p (checkHead n.port n.ring (completeRec n.port n.ring n.recIdx n.hostTag 0x11 n.cqe 3 0 0x2505 s))

/-! ### GRAFT (R136) -/

/-- Cause of event 0x2506; bytes of a master are not stated beyond its shape, and four bytes an element are taken. -/
def graftCause (s : State) (c : Rec) : Option Nat :=
  let id := c.field 8 1
  let rank := c.field 9 1
  let a := c.field 24 8
  let b := c.field 32 8
  if s.grafts.any (·.1 == id) then some 1
  else if rank = 0 || 64 < rank then some 2
  else if !grants s c.p true a (4 * c.field 16 4 * rank) || !grants s c.p true b (4 * rank * c.field 20 4) then some 3
  else if panelKind s c.p = 1 then some 4
  else none

def doGraftRegister (h r : Nat) (s : State) : State :=
  withRec h r (fun c => c.type == 0x12 && c.field 10 1 != 2) (fun c s =>
    if c.field 10 1 ≠ 1 then doneRec c 2 0 s
    else
      match graftCause s c with
      | some cause =>
        postPanel c.p 0x2506 c.hub (c.field 8 1 + 2 ^ 8 * cause) (c.field 12 4) (doneRec c 2 0x2506 s)
      | none => doneRec c 0 0 { s with grafts := sset (0, 0) s.grafts (c.field 8 1) (c.p, c.field 9 1) }) s

/-- A release by a panel that does not hold the ID changes nothing. -/
def doGraftRelease (h r : Nat) (s : State) : State :=
  withRec h r (fun c => c.type == 0x12 && c.field 10 1 == 2) (fun c s =>
    doneRec c 0 0 { s with grafts := s.grafts.filter fun g => !(g.1 == c.field 8 1 && g.2.1 == c.p) }) s

/-! ### WINDOW and the Root streamer (R156) -/

/-- Cause of event 0x2605. -/
def windowCause (s : State) (p t : Nat) : Option Nat :=
  let E := readNat s (t + 4) 4
  let base := readNat s (t + 8) 8
  let slot := readNat s (t + 16) 4
  let n0 := readNat s (t + 20) 1
  let n := if n0 = 0 then odGet s 0x2600 2 else n0
  let sizes := 1 ≤ E && E ≤ 65536 && 0 < slot && slot % 1024 = 0 && 2 ≤ n && n ≤ 64
  if !grants s p false t 64 || readNat s t 4 ≠ 0x5753_4A47 then some 1
  else if !sizes || !grants s p false (t + 64) (16 * E) ||
      (List.range E).any (fun i => slot < readNat s (t + 64 + 16 * i + 8) 4) then some 2
  else if base % 1024 ≠ 0 || crownEnd < base + n * slot || !grants s p true base (n * slot) then some 3
  else if (List.range E).any (fun i =>
      let a := readNat s (t + 64 + 16 * i) 8
      let k := readNat s (t + 64 + 16 * i + 8) 4
      !(rootBase ≤ a && a + k ≤ rootEnd && grants s p false a k)) then some 4
  else if panelKind s p = 2 then some 5
  else none

def doWindowStart (h r : Nat) (s : State) : State :=
  withRec h r (fun c => c.type == 0x20 && c.field 8 1 != 2) (fun c s =>
    if c.field 8 1 ≠ 1 then doneRec c 2 0 s
    else
      let t := c.field 16 8
      match windowCause s c.p t with
      | some cause => postPanel c.p 0x2605 c.hub t cause (doneRec c 2 0x2605 s)
      | none =>
        let n0 := readNat s (t + 20) 1
        let st : Streamer :=
          { table := t, entries := readNat s (t + 4) 4, base := readNat s (t + 8) 8, slot := readNat s (t + 16) 4
            n := if n0 = 0 then odGet s 0x2600 2 else n0, fillKnot := BitVec.ofNat 32 (readNat s (t + 24) 4)
            relKnot := BitVec.ofNat 32 (readNat s (t + 28) 4), next := 0, landed := [], done := 0 }
        doneRec c 0 0 (updPanel c.p (fun x => { x with streamer := some st }) s)) s

def doWindowStop (h r : Nat) (s : State) : State :=
  withRec h r (fun c => c.type == 0x20 && c.field 8 1 == 2) (fun c s =>
    doneRec c 0 0 (updPanel c.p (fun x => { x with streamer := none }) s)) s

/-- Value that a knot address shows on this device; 0 elsewhere. -/
def knotShows (s : State) (k : Word32) : Nat :=
  if knotFab k = fabricId s && knotAddrOk k then (knotOf s (knotAt k)).value.toNat else 0

def updStreamer (p : Nat) (f : Streamer → Streamer) (s : State) : State :=
  updPanel p (fun x => { x with streamer := x.streamer.map f }) s

/-- STREAM_FILL_START: the next fill, once its slot is free. -/
def doFillStart (p : Nat) (s : State) : State :=
  match (panelOf s p).streamer with
  | none => s
  | some x =>
    if (x.next < x.n || x.next - x.n + 1 ≤ knotShows s x.relKnot) && x.next < x.done + x.n then
      updStreamer p (fun x => { x with next := x.next + 1 }) s
    else s

/-- Set the fill knot to the number of fills that have landed with every earlier one. -/
def advanceFills (p : Nat) : Nat → State → State
  | 0, s => s
  | fuel + 1, s =>
    match (panelOf s p).streamer with
    | none => s
    | some x =>
      if x.landed.contains x.done then
        let s := updStreamer p (fun x => { x with done := x.done + 1, landed := x.landed.filter (· != x.done) }) s
        advanceFills p fuel (panelKnot p (panelHub s p) true x.fillKnot (x.done + 1) s)
      else s

/-- Swatch sizes that divide n bytes, largest first. -/
def swatchSplits (n : Nat) : List Nat := [33792, 18432, 17408].filter fun k => 0 < n && n % k = 0

/-- First swatch of a fill that fails R153. A fill's source is taken as swatches of one size when it divides into swatches of
that size whose seals name a format of it; other bytes carry no seal to check (DESIGN CHOICE: the stream table names no size). -/
def badSwatch (s : State) (src len : Nat) : Option Nat :=
  let sealed (k a : Nat) : Bool :=
    match swatchOf (BitVec.ofNat 8 (readNat s (a + k - 64) 1)) with
    | some g => g.size = k
    | none => false
  match (swatchSplits len).find? fun k => (List.range (len / k)).any fun i => sealed k (src + i * k) with
  | none => none
  | some k => ((List.range (len / k)).map fun i => src + i * k).find? fun a => !swatchGood (readBytes s a k)

/-- Bytes that may be written at a: what would merge into a lost unit at an end is left out (R142, R158). -/
def writeWhole (a : Nat) (b : Bytes) (s : State) : State :=
  match lostPartly s a b.length with
  | none => writeBytes a b s
  | some u =>
    if u < a then writeBytes (u + unitLen u) (b.drop (u + unitLen u - a)) s else writeBytes a (b.take (u - a)) s

/-- STREAM_FILL_COMPLETE of fill n: its bytes are in the slot. A fill whose source waits for a restore, or is lost, goes on when
the line is good again; a source or slot that the panel may no longer reach ends the streamer with event 0x3001 (R17; DESIGN CHOICE:
no kernel issued the access, so its tag is 0). -/
def doFillComplete (p n : Nat) (s : State) : State :=
  match (panelOf s p).streamer with
  | none => s
  | some x =>
    if x.next ≤ n || n < x.done || x.landed.contains n then s
    else
      let e := x.table + 64 + 16 * (n % max x.entries 1)
      let src := readNat s e 8
      let len := readNat s (e + 8) 4
      let dst := x.base + n % x.n * x.slot
      match if !grants s p false e 16 then some e else if !grants s p false src len then some src
        else if !grants s p true dst len then some dst else none with
      | some a => updPanel p (fun y => { y with streamer := none }) (postPanel p 0x3001 (panelHub s p) a 0 s)
      | none =>
        match readMeets x.served [(src, len)] s with
        | (some _, s) => s
        | (none, s) =>
          match badSwatch s src len with
          | some a => readFail (unitOf a) true (odCount 0x2601 9 1 s)
          | none =>
            let s := writeWhole dst (readBytes s src len) (noteRead src len (noteRead e 16 s))
            pumpCores p (advanceFills p 65 (updStreamer p (fun x => { x with landed := x.landed ++ [n], served := [] }) s))

end Sys2Proof.Machine
end

