-- ==== Sys2Proof/Machine/Root.lean ====
section
/-! DEFINITION. Root ports, the mode change and its Sanitize, rebuilds (R147–R151, R162), DIRECT ways (R146), host-assisted
restores (R161) and reads that fail (R157). -/
namespace Sys2Proof.Machine

/-- Pump every panel's cores: an effect outside the cores can let held operations go on. -/
def pumpAll (s : State) : State := (List.range 16).foldl (fun s p => pumpCores p s) s

/-- Draw n bytes of the CTR_DRBG. -/
def drawBytes (n : Nat) (s : State) : Bytes × State := freshBytes n s

/-! ### Ports -/

/-- Range of device addresses of port x in plain mode. -/
def portBase (x : Nat) : Nat := rootBase + x * 0x0400_0000_0000

/-! ### Keys of Root (R217, R235, R236) -/

/-- Root address ranges of panel p: its ports in plain mode, the stripe set in parity mode. -/
def rootRanges (s : State) (p : Nat) : List (Nat × Nat) :=
  if s.root.mode = 0 then
    ((List.range 4).filter fun x => bitOf (panelRoots s p) x).map fun x => (portBase x, portBase (x + 1))
  else if panelRoots s p = 0 then [] else [(rootBase, rootEnd)]

/-- What stands in [lo, hi) of Root stands there under a key that is gone. -/
def loseKey (lo hi : Nat) (s : State) : State :=
  { s with mem := memZero s.mem lo (hi - lo), rootOld := cutOld lo hi s.rootOld ++ [⟨lo, hi, s.fresh⟩], fresh := s.fresh + 1 }

/-- The Root keys of panel p are destroyed: nothing that was written under them can be read any more (R235, R241). -/
def dropRootKeys (p : Nat) (s : State) : State :=
  (rootRanges s p).foldl (fun s r => loseKey r.1 r.2 s) (updPanel p (fun y => { y with rootXts := [], rootTag := [] }) s)

/-- New Root XTS and tag keys for panel p (R217, R150). -/
def drawRootKeys (p : Nat) (s : State) : State :=
  let (x, s) := drawBytes 64 (dropRootKeys p s)
  let (t, s) := if secure s p then drawBytes 32 s else ([], s)
  updPanel p (fun y => { y with rootXts := x, rootTag := t }) s

/-- Bytes of panel p's ROOT entries on port x (plain mode). -/
def grantsOnPort (s : State) (p x : Nat) : Nat :=
  (panelOf s p).regions.foldl (fun n e =>
    if e.2.valid && e.2.kind == 2 then
      n + (min (e.2.limit + 1) (portBase (x + 1)) - max e.2.base (portBase x))
    else n) 0

/-- ROOT_PORT_DOWN (R162). A port that sanitizes stays in state 4 until it reports or its time is over (R150). A rebuild ends when
its port, or another port of the row, goes down: its row can no longer be read, and the port stays down (DEDUCED). -/
def doRootDown (x : Nat) (s : State) : State :=
  let r := rootPort s x
  if 4 ≤ x || r.st = 0 || r.st = 2 then s
  else if r.st = 4 then updRootPort x (fun r => { r with lanes := 0, gts := 0 }) s
  else
    let s := updRootPort x (fun r => { r with st := 2, lanes := 0, gts := 0 }) s
    let s := match s.root.rebuilding with
      | some y => { updRootPort y (fun r => { r with st := 2 }) s with root :=
          { (updRootPort y (fun r => { r with st := 2 }) s).root with rebuilding := none } }
      | none => s
    if s.root.mode ≠ 0 then s
    else
      let s := scrub (portBase x) 0x0400_0000_0000 s
      match ownerOfRoot s x with
      | some p => postBoth p 0x2606 (0x5000 + x) x (grantsOnPort s p x) s
      | none => postMgmt 0xFF 0x2606 (0x5000 + x) x 0 s

/-- ROOT_PORT_UP: the link is held, for the first time or again. In parity mode a port that was down stays so until it is
rebuilt. -/
def doRootUp (x lanes gts cap : Nat) (s : State) : State :=
  if 4 ≤ x || !([0, 2, 4].contains (rootPort s x).st) then s
  else
    updRootPort x (fun r => { r with
      lanes := lanes, gts := gts, capacity := cap
      st := if r.st = 4 then 4 else if !r.locked && (r.st = 0 || s.root.mode = 0) then 1 else 2 }) s

/-- Write of `memory.root.rebuild`: answer code and state. -/
def writeRebuild (x : Nat) (s : State) : Nat × State :=
  if 4 ≤ x then (0x06, s)
  else
    let r := rootPort s x
    if s.root.mode = 0 || s.root.changing || s.root.rebuilding.isSome || r.st ≠ 2 || r.lanes = 0 || r.locked ||
        !(List.range 4).all (fun y => y = x || rootUp s y) then (0x08, s)
    else
      (0, { updRootPort x (fun r => { r with st := 3, rebuilt := 0 }) s with root :=
        { (updRootPort x (fun r => { r with st := 3, rebuilt := 0 }) s).root with rebuilding := some x } })

/-- ROOT_REBUILD_COMPLETE. -/
def doRebuildDone (x : Nat) (s : State) : State :=
  if s.root.rebuilding ≠ some x then s
  else
    let s := updRootPort x (fun r => { r with st := 1, rebuilt := r.capacity / 2 ^ 30 }) s
    { s with root := { s.root with rebuilding := none } }

/-! ### Root lines on a CXL link (R235, R236)

The model's memory holds Root as its readers see it. What a port sends to its memory device for a line of panel p is formed here:
only that device could observe it. -/

/-- Twice a tweak in GF(2^128), little-endian (IEEE 1619). -/
def xtsDouble (t : Bytes) : Bytes :=
  toLe 16 ((2 * leNat t % 2 ^ 128) ^^^ (if 2 ^ 127 ≤ leNat t then 0x87 else 0))

/-- AES-256-XTS of one data unit under a 64-byte key pair. -/
def xtsEnc (key : Bytes) (unit : Nat) (data : Bytes) : Bytes :=
  ((pieces 16 (data.length / 16 + 1) data).foldl (fun (st : Bytes × Bytes) b =>
    (st.1 ++ xorBytes (aesEnc (key.take 32) (xorBytes b st.2)) st.2, xtsDouble st.2))
    ([], aesEnc (key.drop 32) (toLe 16 unit))).1

/-- Twice a CMAC subkey (SP 800-38B). -/
def cmacDouble (b : Bytes) : Bytes :=
  beBytes 16 ((2 * beNat b % 2 ^ 128) ^^^ (if 2 ^ 127 ≤ beNat b then 0x87 else 0))

/-- AES-256 CMAC. -/
def cmac (key m : Bytes) : Bytes :=
  let k1 := cmacDouble (aesEnc key (List.replicate 16 0))
  let n := (max m.length 1 + 15) / 16
  let last := m.drop (16 * (n - 1))
  let fin := if last.length = 16 then xorBytes last k1 else xorBytes (padTo 16 (last ++ [0x80])) (cmacDouble k1)
  aesEnc key (xorBytes fin ((pieces 16 (n - 1) m).foldl (fun c b => aesEnc key (xorBytes c b)) (List.replicate 16 0)))

/-- Ciphertext of the line at Root address a. -/
def cxlLine (s : State) (p a : Nat) : Bytes :=
  xtsEnc (panelOf s p).rootXts ((a - rootBase) / 256) (readBytes s (a / 256 * 256) 256)

/-- Version of the page of Root address a: its counter in full mode, else 0. -/
def rootVersion (s : State) (e : Region) (a : Nat) : Nat := if e.rootMode = 1 then memNat s.mem (pageCounter e a) 4 else 0

/-- Tag of the line at a in a secure ROOT entry: it stands at `e.tagBase + 8 * i` for line i of the entry. -/
def cxlTag (s : State) (p : Nat) (e : Region) (a : Nat) : Bytes :=
  let key := (panelOf s p).rootTag
  xorBytes ((cmac key (toLe 8 (a / 256 * 256) ++ cxlLine s p a)).take 8)
    ((aesEnc key (toLe 8 (a / 4096 * 4096) ++ toLe 4 (rootVersion s e a) ++ List.replicate 4 0)).take 8)

/-! ### Mode change (R150) -/

/-- A panel holds a Root grant. -/
def anyRootGrant (s : State) : Bool := s.panels.any fun p => p.2.regions.any fun e => e.2.valid && e.2.kind == 2

def anySanitizing (s : State) : Bool := (List.range 4).any fun x => (rootPort s x).st == 4

/-- With no port left to report, the new mode is in force. -/
def settleMode (s : State) : State :=
  if s.root.changing && !anySanitizing s then
    { s with root := { s.root with
        changing := false, mode := BitVec.ofNat 8 (odGet s 0x2600 1), parity := BitVec.ofNat 8 (odGet s 0x2600 2) } }
  else s

/-- Write of `memory.root.mode` or `memory.root.parity_port`. With no port attached there is nothing to sanitize. -/
def writeRootMode (parityPort : Bool) (v : Nat) (s : State) : Nat × State :=
  if (if parityPort then 3 else 1) < v then (0x06, s)
  else if anyRootGrant s || s.root.rebuilding.isSome || s.root.changing || anySanitizing s then (0x08, s)
  else if !parityPort && v = 1 && !(List.range 4).all (rootUp s) then (0x08, s)
  else
    let s := { s with root := { s.root with
      changing := true, oldMode := BitVec.ofNat 8 (odGet s 0x2600 1), oldParity := BitVec.ofNat 8 (odGet s 0x2600 2) } }
    let s := odPut 0x2600 (if parityPort then 2 else 1) v s
    let s := (List.range 4).foldl (fun s x =>
      if (rootPort s x).st = 0 then s else updRootPort x (fun r => { r with st := 4 }) s) s
    (0, settleMode (scrub rootBase (rootEnd - rootBase) s))

/-- The change fails on port x. -/
def failMode (x cause : Nat) (s : State) : State :=
  let s := updRootPort x (fun r => { r with st := 2, locked := true }) s
  if !s.root.changing then s
  else
    let s := odPut 0x2600 1 s.root.oldMode.toNat (odPut 0x2600 2 s.root.oldParity.toNat s)
    let s := { s with root := { s.root with changing := false } }
    let s := ((List.range 16).filter (panelLive s)).foldl (fun s p => drawRootKeys p s) s
    postMgmt 0xFF 0x2607 (0x5000 + x) x cause s

/-- SANITIZE_COMPLETE. -/
def doSanitized (x : Nat) (ok : Bool) (s : State) : State :=
  if (rootPort s x).st ≠ 4 then s
  else if ok then settleMode (updRootPort x (fun r => { r with st := 1, locked := false }) s)
  else failMode x 1 s

/-- SANITIZE_TIMEOUT. -/
def doSanitizeTimeout (x : Nat) (s : State) : State := if (rootPort s x).st ≠ 4 then s else failMode x 2 s

/-! ### DIRECT ways (R146) -/

def wayBase (t w : Nat) : Nat := tbBase + t * 0x400_0000 + w * 0x30_0000

/-- A kernel of panel p is on cores. -/
def panelRunning (s : State) (p : Nat) : Bool :=
  s.kernels.any fun k => k.panel == p && (k.phase = .running || k.phase = .stopping || k.phase = .ending)

/-- Write of `memory.tb.direct_ways`. -/
def writeDirectWays (p n : Nat) (s : State) : Nat × State :=
  if 16 < n then (0x06, s)
  else if panelRunning s p then (0x08, s)
  else
    let t := odPut 0x2602 (p + 1) n s
    (0, (List.range 4).foldl (fun u tile =>
      let was := directWays s p tile
      let is := directWays t p tile
      let inn := is.filter fun w => !was.contains w
      let out := was.filter fun w => !is.contains w
      let u := tbDrop (fun l => l.line * 256 / stackSize / 4 == tile && inn.contains l.way) u
      (inn ++ out).foldl (fun u w => scrub (wayBase tile w) 0x30_0000 u) u) t)

/-! ### Reads that fail, and host-assisted restores -/

/-- READ_FAILURE. -/
def doReadFailure (a : Nat) (tagFailed : Bool) (s : State) : State :=
  let s := if rootBase ≤ a && a < rootEnd && tagFailed then odCount 0x3003 1 1 s
    else if a < crownEnd then odCount 0x1901 3 1 s else s
  readFail (unitOf a) false s

/-- Write of `memory.restore_done`. `good` is what the device finds as it reads the line again. -/
def writeRestoreDone (p : Nat) (knot : Nat) (good : Bool) (s : State) : Nat × State :=
  if knot < 248 || 255 < knot then (0x06, s)
  else
    match s.restores.find? fun r => r.panel == p && r.knot == some (knot - 248) && r.host with
    | none => (0, s)
    | some r =>
      if good then
        (0, pumpCores p (finishRestore r.line p 1 { s with lostLines := s.lostLines.filter (· != r.line) }))
      else (0, postPanel p 0x2604 (unitBlock s r.line) r.line (restoreKnotAddr s p (knot - 248)) s)

end Sys2Proof.Machine
end

