-- ==== Sys2Proof/Machine/Tables.lean ====
section
/-! DEFINITION. The table engines (R163–R168): registration, gathers with pooling, the member lookup batches, scatter-add and
row-wise Adagrad. -/
namespace Sys2Proof.Machine

def word32At (s : State) (a : Nat) : Word32 := BitVec.ofNat 32 (readNat s a 4)

/-- A table descriptor (Table 7.6). -/
structure TableDesc where
  fmt : Byte
  rounding : Nat
  n : Nat
  first : Nat
  rows : Nat
  base : Nat
  accum : Nat
  map : Nat
  grad : Nat
  slots : Nat
  stream : Nat
  window : Word32
  shardRows : Nat
  shards : Nat
  qp : Nat
  shardMap : Nat
deriving DecidableEq, Repr

def tableDesc (b : Bytes) : TableDesc :=
  { fmt := b.getD 4 0, rounding := fieldNat b 5 1, n := fieldNat b 6 2, first := fieldNat b 8 8, rows := fieldNat b 16 8
    base := fieldNat b 24 8, accum := fieldNat b 32 8, map := fieldNat b 40 8, grad := fieldNat b 48 8
    slots := fieldNat b 56 4, stream := fieldNat b 60 4 % 2 ^ 24, window := BitVec.ofNat 32 (fieldNat b 64 4)
    shardRows := fieldNat b 68 4, shards := fieldNat b 72 1, qp := fieldNat b 76 4 % 4096, shardMap := fieldNat b 80 8 }

def TableDesc.elem (d : TableDesc) : Nat := if d.fmt = 0x21 then 4 else if d.fmt = 0x10 then 2 else 1
def TableDesc.rowBytes (d : TableDesc) : Nat := d.n * d.elem

/-- Row stride (R163). -/
def TableDesc.stride (d : TableDesc) : Nat :=
  let b := d.rowBytes
  if b ≤ 256 then (if 2 ^ Nat.log2 b = b then b else 2 ^ (Nat.log2 b + 1)) else (b + 255) / 256 * 256

def TableDesc.rowAddr (d : TableDesc) (r : Nat) : Nat := d.base + r * d.stride
def TableDesc.gradStride (d : TableDesc) : Nat := pad64 (8 + 4 * d.n)

def tableSlot (s : State) (n : Nat) : TableSlot := sget {} s.tables n
def updTable (n : Nat) (f : TableSlot → TableSlot) (s : State) : State := { s with tables := smod {} s.tables n f }

/-! ### Registration (R163) -/

/-- Cause of event 0x2603 for a registration. -/
def tableRegCause (s : State) (c : Rec) : Option Nat :=
  let a := c.field 16 8
  let d := tableDesc (readBytes s a 128)
  let ok := grants s c.p false a 128
  if !ok || readNat s a 4 ≠ 0x4454_4A47 || d.n = 0 || 1024 < d.n then some 1
  else if (tableSlot s (c.field 8 1)).owner.isSome then some 2
  else if !grants s c.p false d.base (d.rows * d.stride) || !grants s c.p false d.accum (4 * d.rows) ||
      !grants s c.p false d.map (4 * d.rows) || !grants s c.p false d.grad (64 + d.slots * d.gradStride) ||
      panelKind s c.p = 2 then some 3
  else if !([0x21, 0x10, 0x08, 0x09].contains d.fmt.toNat) then some 4
  else none

/-- Table engine block of the tile of a ring's port. -/
def tableBlock (t : Nat) : Nat := 0x8000 + t

def doTableRegister (h r : Nat) (s : State) : State :=
  withRec h r (fun c => c.type == 0x21 && c.field 9 1 != 2) (fun c s =>
    if c.field 9 1 ≠ 1 then doneRec c 2 0 s
    else
      match tableRegCause s c with
      | some cause => postPanel c.p 0x2603 (tableBlock c.h) (c.field 16 8) (2 ^ 32 * cause) (doneRec c 2 0x2603 s)
      | none => doneRec c 0 0 (updTable (c.field 8 1) (fun _ =>
          { owner := some c.p, desc := readBytes s (c.field 16 8) 128 }) s)) s

/-- Abort the kernels of gathers that a slot still serves, and free it. -/
def freeTable (n : Nat) (s : State) : State :=
  let s := (tableSlot s n).jobs.foldl (fun s j => updMove j.core j.move (fun m => { m with done := true }) s) s
  updTable n (fun _ => {}) s

def doTableRelease (h r : Nat) (s : State) : State :=
  withRec h r (fun c => c.type == 0x21 && c.field 9 1 == 2) (fun c s =>
    if (tableSlot s (c.field 8 1)).owner = some c.p then doneRec c 0 0 (freeTable (c.field 8 1) s)
    else doneRec c 0 0 s) s

/-! ### Requests (R164) -/

def TableReq.f (q : TableReq) (o n : Nat) : Nat := fieldNat q.req o n

def TableReq.count (q : TableReq) : Nat := q.f 8 4

/-- Global row of list entry i, and its END bit. -/
def listRow (s : State) (q : TableReq) (i : Nat) : Nat := readNat s (q.f 16 8 + 8 * i) 8 % 2 ^ 40
def listEnd (s : State) (q : TableReq) (i : Nat) : Bool := bitOf (readNat s (q.f 16 8 + 8 * i) 8) 48

/-- Bytes of one output row. -/
def outRow (d : TableDesc) (q : TableReq) : Nat :=
  if q.f 6 1 = 0 then d.rowBytes else d.n * (if q.f 6 1 = 0x21 then 4 else 2)

/-- Number of output rows: entries, or bags. -/
def outRows (s : State) (q : TableReq) : Nat :=
  if q.f 5 1 = 0 then q.count else ((List.range q.count).filter (listEnd s q)).length

/-- Rows that a panel may name: those of the table for a member, those of the shard for the owner. -/
def rowOk (d : TableDesc) (member : Bool) (g : Nat) : Bool :=
  if member then g < d.shardRows * (if d.shards = 0 then 256 else d.shards) else d.first ≤ g && g < d.first + d.rows

/-- Cause of event 0x2603 for a request, before its list is read. -/
def reqCause (s : State) (q : TableReq) : Option Nat :=
  let t := tableSlot s (q.f 7 1)
  let op := q.f 4 1
  let member := panelKind s q.panel = 2
  let form := q.f 0 4 = 0x5254_4A47 && 1 ≤ op && op ≤ 3 && q.f 5 1 ≤ 3 && allZero (q.req.drop 41)
  if !form then some 1
  else if t.owner.isNone then some 2
  else if (t.owner ≠ some q.panel && !member) || (member && op ≠ 1) || (member && (t.owner.map (secure s)).getD false = false) then
    some 3
  else if op = 1 && (!([0, 0x21, 0x10].contains (q.f 6 1)) || (q.f 6 1 = 0 && q.f 5 1 ≠ 0)) then some 4
  else none

/-- Cause of event 0x2603 that the entry list of a request gives: bits that are not zero, a bag without END, a row outside the
table. -/
def listCause (s : State) (q : TableReq) : Option Nat :=
  let d := tableDesc (tableSlot s (q.f 7 1)).desc
  let op := q.f 4 1
  let word (i : Nat) : Nat := readNat s (q.f 16 8 + 8 * i) 8
  if op = 3 then none
  else if (List.range q.count).any (fun i => bitsOf (word i) 47 40 ≠ 0 || bitsOf (word i) 63 49 ≠ 0) then some 1
  else if op = 1 && q.f 5 1 ≠ 0 && q.count ≠ 0 && !listEnd s q (q.count - 1) then some 6
  else if op = 1 && (List.range q.count).any (fun i => !rowOk d (panelKind s q.panel = 2) (listRow s q i)) then some 7
  else none

/-- Areas that a request reads or writes by its panel's rights (R17), its list apart: write, address, bytes. A member's gather reads
no row by its own rights (R166). -/
def reqAreas (s : State) (q : TableReq) : List (Bool × Nat × Nat) :=
  let d := tableDesc (tableSlot s (q.f 7 1)).desc
  let op := q.f 4 1
  let rows := (d.base, d.rows * d.stride)
  let grad := (d.grad, 64 + d.slots * d.gradStride)
  if op = 1 then
    (true, q.f 24 8, outRows s q * outRow d q) :: (if panelKind s q.panel = 2 then [] else [(false, rows)])
  else if op = 2 then [(false, q.f 24 8, 4 * d.n * q.count), (true, d.map, 4 * d.rows), (true, grad)]
  else [(false, q.f 32 8, 4), (true, rows), (true, d.accum, 4 * d.rows), (true, d.map, 4 * d.rows), (true, grad)]

/-- The first area of a request that the panel may not reach. -/
def reqRegion (s : State) (q : TableReq) : Option Nat :=
  ((reqAreas s q).find? fun e => !grants s q.panel e.1 e.2.1 e.2.2).map (·.2.1)

/-- Refuse a request: event 0x2603 and the kernel's end. -/
def refuseReq (q : TableReq) (t cause : Nat) (s : State) : State :=
  let s := coreFault q.core 0x2603 (tableBlock t) q.addr (tagOnCore s q.core + 2 ^ 32 * cause) s
  updMove q.core q.move (fun m => { m with done := true }) s

def doneReq (q : TableReq) (s : State) : State := updMove q.core q.move (fun m => { m with done := true }) s

/-- The request ends with its kernel for data that is lost. -/
def loseReq (q : TableReq) (s : State) : State := doneReq q (abortKernel q.kid 0x2601 s)

/-- The engine waits for data under restore, its MOVE parked on it, or ends the kernel for data that is lost (R157, R158). -/
def waitData (q : TableReq) (areas : List (Nat × Nat)) (s : State) : Option (Bool × State) :=
  match readMeets (((moveOf s q.core q.move).map (·.served)).getD []) areas s with
  | (none, _) => none
  | (some (u, false), s) => some (false, updMove q.core q.move (fun m => { m with parked := some u }) s)
  | (some (_, true), s) => some (true, loseReq q s)

/-- The engine's write, unless it would merge into a lost unit (R142, R158). -/
def engineWrite (a : Nat) (b : Bytes) (s : State) : Option State :=
  if (lostPartly s a b.length).isSome then none else some (writeBytes a b s)

/-- Engine writes in order; none when one of them is not performed. -/
def engineWrites : List (Nat × Bytes) → State → Option State
  | [], s => some s
  | e :: l, s =>
    match engineWrite e.1 e.2 s with
    | some s => engineWrites l s
    | none => none

/-! ### Gathers (R165) -/

/-- Widen the elements of a row exactly. -/
def widenRow (d : TableDesc) (b : Bytes) : List Word32 :=
  (List.range d.n).map fun j =>
    let c := fieldNat b (j * d.elem) d.elem
    if d.fmt = 0x21 then BitVec.ofNat 32 c
    else if d.fmt = 0x10 then rne32 (vecVal 0x10 c)
    else rne32 (elemVal d.fmt c)

/-- Row values in the output format. -/
def outBytes (fmt : Nat) (l : List Word32) : Bytes :=
  if fmt = 0x21 then wordsBytes l else l.flatMap fun w => toLe 2 (packIeee 8 7 .rne (f32val w))

/-- rne32(1/n) for a count n. -/
def invCount (n : Nat) : Word32 :=
  match recipOf n 0 with
  | (q, t, sticky) => rne32 (.fin false q t) sticky

/-- Combine a bag in entry order. -/
def poolRows (pool : Nat) (l : List (List Word32)) : List Word32 :=
  match l with
  | [] => []
  | a :: rest =>
    let v := rest.foldl (fun acc r => List.zipWith (if pool = 3 then max32 else add32) acc r) a
    if pool = 2 then v.map fun x => mul32 x (invCount l.length) else v

/-- Output bytes of a gather whose entry i has the row bytes `row i`. -/
def gatherOut (s : State) (d : TableDesc) (q : TableReq) (row : Nat → Bytes) : Bytes :=
  if q.f 5 1 = 0 then
    (List.range q.count).flatMap fun i => if q.f 6 1 = 0 then row i else outBytes (q.f 6 1) (widenRow d (row i))
  else
    ((List.range q.count).foldl (fun (st : Bytes × List (List Word32)) i =>
      let bag := st.2 ++ [widenRow d (row i)]
      if listEnd s q i then (st.1 ++ outBytes (q.f 6 1) (poolRows (q.f 5 1) bag), []) else (st.1, bag)) ([], [])).1

def rowArea (d : TableDesc) (g : Nat) : Nat × Nat := (d.rowAddr (g - d.first), d.rowBytes)

/-- Take the request at the front of a tile's queue off. -/
def dropReq (t : Nat) (s : State) : State :=
  match s.tableQ.findIdx? (·.1 == t) with
  | some i => { s with tableQ := s.tableQ.eraseIdx i }
  | none => s

/-- A gather of the owning panel. -/
def gatherNow (t : Nat) (q : TableReq) (d : TableDesc) (s : State) : State :=
  let areas := (List.range q.count).map fun i => rowArea d (listRow s q i)
  match waitData q areas s with
  | some (true, s) => dropReq t s
  | some (false, s) => s
  | none =>
    let out := gatherOut s d q fun i => let e := rowArea d (listRow s q i); readBytes s e.1 e.2
    let s := areas.foldl (fun s e => noteRead e.1 e.2 s) s
    match engineWrite (q.f 24 8) out s with
    | some s => pumpCores q.panel (dropReq t (doneReq q s))
    | none => dropReq t (loseReq q s)

/-- A gather of a member panel: its entries stand at the merge queue. -/
def gatherMember (t : Nat) (q : TableReq) (s : State) : State :=
  let es := (List.range q.count).map fun i => Lookup.mk q.core q.move i (listRow s q i)
  let s := dropReq t s
  if es.isEmpty then doneReq q s
  else
    updTable (q.f 7 1) (fun x => { x with
      merge := x.merge ++ es
      jobs := x.jobs ++ [{ tile := t, core := q.core, move := q.move, kid := q.kid, panel := q.panel, req := q.req, rows := [] }] }) s

/-- Handle the request at the front of tile t's queue if it has operation `op`; one that is refused is refused whatever its
operation. What the list gives is judged once the list can be read. -/
def withReq (t op : Nat) (f : TableReq → TableDesc → State → State) (s : State) : State :=
  match s.tableQ.find? (·.1 == t) with
  | none => s
  | some (_, q) =>
    let list := (q.f 16 8, if q.f 4 1 = 3 then 0 else 8 * q.count)
    if !(s.kernels.any (·.kid == q.kid)) then dropReq t s
    else
      match reqCause s q with
      | some cause => dropReq t (refuseReq q t cause s)
      | none =>
        if !grants s q.panel false list.1 list.2 then dropReq t (doneReq q (regionAbort q.core list.1 s))
        else
          match waitData q [list] s with
          | some (true, s) => dropReq t s
          | some (false, s) => s
          | none =>
            match listCause s q with
            | some cause => dropReq t (refuseReq q t cause s)
            | none =>
              match reqRegion s q with
              | some a => dropReq t (doneReq q (regionAbort q.core a s))
              | none =>
                if q.f 4 1 = op then f q (tableDesc (tableSlot s (q.f 7 1)).desc) (noteRead list.1 list.2 s) else s

def doTableGather (t : Nat) (s : State) : State :=
  withReq t 1 (fun q d s => if panelKind s q.panel = 2 then gatherMember t q s else gatherNow t q d s) s

/-! ### Member batches (R166) -/

/-- The window is open. -/
def windowOpen (s : State) (d : TableDesc) : Bool := knotShows s d.window % 2 == 1

/-- Fabric ID of a shard. -/
def shardFab (s : State) (d : TableDesc) (i : Nat) : Nat := readNat s (d.shardMap + i) 1

/-- A row of a lookup has come. With every row there, the gather is delivered. -/
def rowCame (n : Nat) (l : Lookup) (b : Bytes) (s : State) : State :=
  let s := updTable n (fun x => { x with jobs := x.jobs.map fun j =>
    if j.core = l.core && j.move = l.move then { j with rows := sset [] j.rows l.entry b } else j }) s
  match (tableSlot s n).jobs.find? fun j => j.core = l.core && j.move = l.move with
  | none => s
  | some j =>
    let q : TableReq := { core := j.core, move := j.move, kid := j.kid, panel := j.panel, addr := 0, req := j.req }
    if j.rows.length < q.count then s
    else
      let d := tableDesc (tableSlot s n).desc
      let out := gatherOut s d q fun i => sget [] j.rows i
      let s := updTable n (fun x => { x with jobs := x.jobs.filter fun k => !(k.core = j.core && k.move = j.move) }) s
      match engineWrite (q.f 24 8) out s with
      | some s => pumpCores j.panel (doneReq q s)
      | none => loseReq q s

/-- Replies of other modules: their rows are values from outside, hence free. -/
def repliesCame (n : Nat) (bytes : Nat) (s : State) : State :=
  let fl := (tableSlot s n).flight.filter fun e => e.1 ≠ fabricId s
  let s := updTable n (fun x => { x with flight := x.flight.filter fun e => e.1 = fabricId s }) s
  fl.foldl (fun s e => e.2.foldl (fun s l => let v := freshBytes bytes s; rowCame n l v.1 v.2) s) s

/-- Padding: slots that no lookup fills take rows drawn from the shard by the CTR_DRBG (R166). No MOVE bears number 0, so their
replies find no gather. -/
def padLookups (d : TableDesc) (i : Nat) : Nat → State → List Lookup × State
  | 0, s => ([], s)
  | k + 1, s =>
    let v := freshVal s
    let r := padLookups d i k v.2
    (⟨0, 0, k, i * d.shardRows + v.1.toNat % max d.shardRows 1⟩ :: r.1, r.2)

/-- A message of the table engine on queue pair q to the module with fabric ID `fab`, sprayed (R166). The spec names no layout, no
message ID and no place at the far end: rows stand in slot order, and the ID counts batches (DESIGN CHOICE). -/
def tableMessage (q fab : Nat) (data : Bytes) (s : State) : State :=
  if (qpOf s q).st ≠ .ready then s
  else
    let ps := cutMessage [] false data
    ps.zipIdx.foldl (fun s e =>
      let h := qpHdr s q 0x01 1 e.1.2.1
      qpSend q
        { pkt := { hdr := { h with first := e.2 == 0, last := e.2 + 1 == ps.length, dstFab := BitVec.ofNat 8 fab
                                   msg := BitVec.ofNat 32 (odGet s 0x2601 10), off := BitVec.ofNat 32 e.1.1 }
                   ce := false, payload := e.1.2.1, tag := [] }
          core := 0, move := 0, kid := 0, resends := 0, nak := 0, backoffUs := 0 } s) s

/-- One batch to the shard of index i: its lookups, in order of arrival, and padding. It goes out as one message; this module's own
batch waits for its service. -/
def sendBatch (n : Nat) (d : TableDesc) (s : State) (i : Nat) : State :=
  let slots := odGet s 0x2600 5
  let mine := ((tableSlot s n).merge.filter fun l => l.row / max d.shardRows 1 = i).take slots
  let (pad, s) := padLookups d i (slots - mine.length) s
  let fab := shardFab s d i
  let s := updTable n (fun x => { x with
    merge := x.merge.filter fun l => !mine.contains l
    flight := x.flight ++ [(fab, mine ++ pad)] }) s
  let s := if fab = fabricId s then s else tableMessage d.qp fab ((mine ++ pad).flatMap fun l => toLe 8 l.row) s
  odCount 0x2601 10 1 (odCount 0x2601 11 pad.length s)

/-- TABLE_BATCH_PERIOD. -/
def doBatchPeriod (n : Nat) (s : State) : State :=
  let x := tableSlot s n
  let d := tableDesc x.desc
  if x.owner.isNone || !windowOpen s d then s
  else
    (List.range (if d.shards = 0 then 256 else d.shards)).foldl (sendBatch n d) (repliesCame n d.rowBytes s)

/-- Put a number in its place of a rising list. -/
def placeNat (n : Nat) : List Nat → List Nat
  | [] => [n]
  | x :: xs => if x < n then x :: placeNat n xs else n :: x :: xs

/-- A lookup's row cannot be had: the kernel that gathers it is aborted (R158), and its gather ends. -/
def failLookup (n code : Nat) (s : State) (l : Lookup) : State :=
  match (tableSlot s n).jobs.find? fun j => j.core = l.core && j.move = l.move with
  | none => s
  | some j =>
    let s := updTable n (fun x => { x with jobs := x.jobs.filter fun k => !(k.core = j.core && k.move = j.move) }) s
    updMove j.core j.move (fun m => { m with done := true }) (abortKernel j.kid code s)

/-- TABLE_BATCH_SERVE: a batch from fabric ID `src`: its rows are read in ascending order, and the reply has them in slot order.
This module's own batch is answered at once; another's gets a message. Rows outside the owner's grants are not read: its panel gets
event 0x3001, with tag 0 since no kernel of it asked (DESIGN CHOICE). A row that is not read goes back as zeros, and the kernel
that asked here is aborted. -/
def doBatchServe (n src : Nat) (rows : List Nat) (s : State) : State :=
  let x := tableSlot s n
  let d := tableDesc x.desc
  match x.owner with
  | none => s
  | some p =>
    let mine := match x.flight.find? fun e => e.1 = src with
      | some e => if src = fabricId s then e.2 else []
      | none => []
    let slots := rows ++ mine.map (·.row)
    let all := (slots.eraseDups.foldl (fun l n => placeNat n l) []).filter (rowOk d false)
    let may (g : Nat) : Bool := grants s p false (rowArea d g).1 (rowArea d g).2
    let gone (s : State) (g : Nat) : Bool := (lostIn s (rowArea d g).1 (rowArea d g).2).any fun u => !x.served.contains u
    match readMeets x.served ((all.filter fun g => may g && !gone s g).map (rowArea d)) s with
    | (some (_, false), s) => s
    | (_, s) =>
      let bad (g : Nat) : Bool := !rowOk d false g || !may g || gone s g
      let s := match all.find? fun g => !may g with
        | some g => postPanel p 0x3001 (tableBlock (rootPortOf s (rowArea d g).1)) (rowArea d g).1 0 s
        | none => s
      let s := (all.filter fun g => !bad g).foldl (fun s g => noteRead (rowArea d g).1 (rowArea d g).2 s) s
      let row (s : State) (g : Nat) : Bytes := if bad g then List.replicate d.rowBytes 0 else readBytes s (rowArea d g).1 d.rowBytes
      let s := if src = fabricId s || rows.isEmpty then s else tableMessage d.qp src (rows.flatMap (row s)) s
      let s := updTable n (fun x => { x with flight := if mine.isEmpty then x.flight else x.flight.erase (src, mine), served := [] }) s
      let s := (mine.filter fun l => rowOk d false l.row && bad l.row).foldl
        (fun s l => failLookup n (if may l.row then 0x2601 else 0x3001) s l) s
      mine.foldl (fun s l => if bad l.row then s else rowCame n l (row s l.row) s) s

/-! ### Scatter-add (R167) -/

/-- How a list entry ends: added or skipped, its slot beyond G, or its write not performed (R158). -/
inductive EntryEnd where
  | done
  | full
  | lost
deriving DecidableEq, Repr

/-- Add list entry i. -/
def scatterOne (d : TableDesc) (q : TableReq) (i : Nat) (s : State) : EntryEnd × State :=
  let g := listRow s q i
  if !rowOk d false g then (.done, s)
  else
    let r := g - d.first
    let m := readNat s (d.map + 4 * r) 4
    let src := readBytes s (q.f 24 8 + 4 * d.n * i) (4 * d.n)
    let s := noteRead (d.map + 4 * r) 4 (noteRead (q.f 24 8 + 4 * d.n * i) (4 * d.n) s)
    let go (l : List (Nat × Bytes)) : EntryEnd × State :=
      match engineWrites l s with
      | some s => (.done, s)
      | none => (.lost, s)
    if m = 0 then
      let k := readNat s d.grad 4
      if d.slots ≤ k then (.full, s)
      else go [(d.grad, toLe 4 (k + 1)), (d.map + 4 * r, toLe 4 (k + 1)), (d.grad + 64 + k * d.gradStride, toLe 8 r ++ src)]
    else
      let a := d.grad + 64 + (m - 1) * d.gradStride + 8
      go [(a, wordsBytes (List.zipWith add32 (wordsOf (readBytes s a (4 * d.n)) d.n) (wordsOf src d.n)))]

def scatterFrom (d : TableDesc) (q : TableReq) : Nat → Nat → State → EntryEnd × State
  | 0, _, s => (.done, s)
  | fuel + 1, i, s =>
    if q.count ≤ i then (.done, s)
    else
      match scatterOne d q i s with
      | (.done, s) => scatterFrom d q fuel (i + 1) s
      | r => r

def doTableScatter (t : Nat) (s : State) : State :=
  withReq t 2 (fun q d s =>
    match waitData q [(q.f 24 8, 4 * d.n * q.count), (d.map, 4 * d.rows), (d.grad, 64 + d.slots * d.gradStride)] s with
    | some (true, s) => dropReq t s
    | some (false, s) => s
    | none =>
      if (coreOf s q.core).suppress ≠ 0 then pumpCores q.panel (dropReq t (doneReq q (onceEffect q.core id s)))
      else
        match scatterFrom d q q.count 0 s with
        | (.done, s) => pumpCores q.panel (dropReq t (doneReq q (onceEffect q.core id s)))
        | (.full, s) => dropReq t (refuseReq q t 5 s)
        | (.lost, s) => dropReq t (loseReq q s)) s

/-! ### Update (R168) -/

/-- Apply R123 to the row of gradient slot k, unless a write before was not performed (R158). -/
def updateRow (d : TableDesc) (e : GroupEntry) (cf : Word32) (seed : Word64) (ok : Bool) (s : State) (k : Nat) : Bool × State :=
  if !ok then (false, s)
  else
    let a := d.grad + 64 + k * d.gradStride
    let r := readNat s a 8
    let G := wordsOf (readBytes s (a + 8) (4 * d.n)) d.n
    let w := widenRow d (readBytes s (d.rowAddr r) d.rowBytes)
    let o := adagradRow e cf (word32At s (d.accum + 4 * r)) G
    let codes := (List.zipWith (adagradElem e) w o.2).zipIdx.map fun x =>
      tableCode d.fmt d.rounding d.stream seed (r * d.n + x.2) x.1
    let s := noteRead (d.accum + 4 * r) 4 (noteRead a (8 + 4 * d.n) (noteRead (d.rowAddr r) d.rowBytes s))
    match engineWrites [(d.rowAddr r, codes.flatMap (toLe d.elem)), (d.accum + 4 * r, toLe 4 o.1.toNat), (d.map + 4 * r, toLe 4 0)] s with
    | some s => (true, s)
    | none => (false, s)

/-- Clip factor of an update; in host-assisted mode the request names no tensor tag, so its table entry is a free value. -/
def tableClip (q : TableReq) (t b : Nat) (s : State) : Word32 × State :=
  if odGet s 0x2500 1 = 1 then let v := freshVal s; (v.1.truncate 32, v.2)
  else ((clipOf s q.panel t b (q.f 40 1 % 64) 0 (q.f 32 8)).1, s)

def doTableUpdate (t : Nat) (s : State) : State :=
  withReq t 3 (fun q d s =>
    let used := min (readNat s d.grad 4) d.slots
    let rows := (List.range used).map fun k => readNat s (d.grad + 64 + k * d.gradStride) 8
    match waitData q ((q.f 32 8, 4) :: (d.grad, 64 + d.slots * d.gradStride) ::
        rows.flatMap fun r => [(d.rowAddr r, d.rowBytes), (d.accum + 4 * r, 4)]) s with
    | some (true, s) => dropReq t s
    | some (false, s) => s
    | none =>
      let gt := (panelOf s q.panel).groupTable
      let b := q.f 12 4 % 2
      let (cf, s) := tableClip q gt b s
      let e := groupEntry s gt b (q.f 40 1 % 64)
      if (coreOf s q.core).suppress ≠ 0 then pumpCores q.panel (dropReq t (doneReq q (onceEffect q.core id s)))
      else
        let r := (List.range used).foldl (fun st k => updateRow d e cf (coreOf s q.core).seed st.1 st.2 k) (true, noteRead (q.f 32 8) 4 s)
        match if r.1 then engineWrite d.grad (toLe 4 0) r.2 else none with
        | some s => pumpCores q.panel (dropReq t (doneReq q (onceEffect q.core id s)))
        | none => dropReq t (loseReq q r.2)) s

end Sys2Proof.Machine
end

