-- ==== Sys2Proof/Machine/Seam.lean ====
section
/-! DEFINITION. The seam (R226–R234): arming, joining and leaving, deposits, drops and discards, and releases. The functions
named `write…` answer an abort code of the object dictionary (0 for success) and the state. -/
namespace Sys2Proof.Machine

def seamBlock : Nat := 0x9000

/-! ### Configuration (Table 10.11) -/

def seamArea (s : State) : Nat := odGet s 0x3001 2
def seamSlots (s : State) : Nat := odGet s 0x3001 3
def slotBytes (s : State) : Nat := odGet s 0x3001 4
def seamClip (s : State) : Word32 := BitVec.ofNat 32 (odGet s 0x3001 7)
def seamSigma (s : State) : Word32 := BitVec.ofNat 32 (odGet s 0x3001 8)
def noiseMode (s : State) : Nat := odGet s 0x3001 9
def releaseBase (s : State) : Nat := odGet s 0x3001 0xA
def minContributors (s : State) : Nat := odGet s 0x3001 6

/-- Noise of the seam's own is added (R232). -/
def seamNoise (s : State) : Bool := noiseMode s = 0 && lt32 0 (seamSigma s)

/-- First byte of contributor j's staging buffer of slot n (R227). -/
def stagingOf (s : State) (j n : Nat) : Nat := seamArea s + (j * seamSlots s + n) * slotBytes s

/-! ### Seam status (R233), on the panel's control page -/

def statusAddr (p : Nat) : Nat := ctlBase + p * 0x1_0000 + 0x2040

/-- Byte 0: the panel's index. -/
def showIndex (p : Nat) (s : State) : State :=
  storeBytes (statusAddr p) (toLe 1 ((panelOf s p).seamIdx.getD 0xFF)) s

/-- A result: 1 accepted, 2 duplicate, 3 refused, 4 released, 5 discarded, 6 dropped. -/
def showResult (p result slot : Nat) (step tag : Word32) (cause : Nat) (s : State) : State :=
  storeBytes (statusAddr p + 1) (toLe 1 result ++ toLe 2 slot ++ toLe 4 step.toNat ++ toLe 4 tag.toNat ++ toLe 1 cause) s

/-- A status page on which nothing has happened. -/
def clearStatusPage (p : Nat) (s : State) : State :=
  storeBytes (statusAddr p) (0xFF :: List.replicate 63 0) s

/-! ### Arming (R226) -/

/-- The first of R226's conditions that fails, by the subindex of its entry. -/
def armCause (s : State) (p : Nat) : Option Nat :=
  let rel := 0x1_0000 + seamSlots s * slotBytes s
  let k := BitVec.ofNat 32 (odGet s 0x3001 0xB)
  if !inOwnCrown s p (seamArea s) (stagingSize s) then some 0x02
  else if !inOwnCrown s p (releaseBase s) rel || overlap (releaseBase s) rel (seamArea s) (stagingSize s) then some 0x0A
  else if !ownKnot s p k || (knotOf s (knotAt k)).poisoned then some 0x0B
  else if minContributors s < 2 || odGet s 0x3001 5 < minContributors s then some 0x06
  else if !finite32 (seamClip s) || !lt32 0 (seamClip s) then some 0x07
  else if !finite32 (seamSigma s) || lt32 (seamSigma s) 0 then some 0x08
  else none

def seamSlot (s : State) (n : Nat) : SeamSlot := sget {} s.seam.slots n
def updSeamSlot (n : Nat) (f : SeamSlot → SeamSlot) (s : State) : State :=
  { s with seam := { s.seam with slots := smod {} s.seam.slots n f } }

/-- Has contributor p completed the slot (R229). -/
def completed (s : State) (x : SeamSlot) (p : Nat) : Bool :=
  x.deposits.any (fun d => d.panel == p && d.kind != 2) &&
  (noiseMode s = 0 || x.kind = 3 || x.deposits.any fun d => d.panel == p && d.kind == 2)

/-- The contributors that have completed it and were not dropped, in ascending panel number (D of R231). -/
def doneBy (s : State) (x : SeamSlot) : List Nat :=
  (List.range 16).filter fun p => x.set.contains p && !x.dropped.contains p && completed s x p

/-- A slot that no contributor holds up any more enters RELEASING. -/
def settleSlot (n : Nat) (s : State) : State :=
  let x := seamSlot s n
  if x.st = .filling && x.set.all (fun p => x.dropped.contains p || completed s x p) then
    updSeamSlot n (fun x => { x with st := .releasing }) s
  else s

/-- Contributor p is dropped from slot n (R230). -/
def dropFrom (n p : Nat) (s : State) : State :=
  let x := seamSlot s n
  if x.st ≠ .filling || !x.set.contains p || x.dropped.contains p then s
  else
    let s := odCount 0x3002 3 1 (updSeamSlot n (fun x => { x with dropped := x.dropped ++ [p] }) s)
    postPanel p 0x3005 seamBlock n x.step.toNat (showResult p 6 n x.step x.tag 0 s)

def slotNumbers (s : State) : List Nat := s.seam.slots.map (·.1)

/-- Panel p's DEPOSIT entry is revoked, its index is free, and it is dropped from every slot in FILLING (R227). -/
def leaveSeam (p : Nat) (s : State) : State :=
  if (panelOf s p).seamIdx.isNone then s
  else
    let s := updPanel p (fun x => { x with seamIdx := none, regions := x.regions.filter (·.1 != 32) }) s
    let s := showIndex p (odPut (panelIdx p 2) 1 0 { s with seam := { s.seam with members := s.seam.members.filter (·.1 != p) } })
    (slotNumbers s).foldl (fun s n => settleSlot n (dropFrom n p s)) s

/-- Disarming: unreleased slots are discarded, every member leaves, the staging area is zeroed. -/
def disarmSeam (s : State) : State :=
  if !s.seam.armed then s
  else
    let n := (s.seam.slots.filter fun e => e.2.st = .filling || e.2.st = .releasing).length
    let s := odCount 0x3002 2 n { s with seam := { s.seam with slots := [] } }
    let s := (s.seam.members.map (·.1)).foldl (fun s p => leaveSeam p s) s
    let s := scrub (seamArea s) (stagingSize s) s
    odPut 0x3001 1 0 { s with seam := { s.seam with armed := false, badSteps := [], members := [] } }

/-- Write of `seam.arm` by the common panel p. -/
def writeArm (p : Nat) (v : Nat) (s : State) : Nat × State :=
  if 1 < v then (0x06, s)
  else if v = 0 then (0, disarmSeam s)
  else if s.seam.armed then (0, s)
  else
    match armCause s p with
    | some sub => (0x08, postPanel p 0x3003 seamBlock sub 0 s)
    | none =>
      let s := scrub (seamArea s) (stagingSize s) s
      (0, odPut 0x3001 1 1 { s with seam := { s.seam with
        armed := true, owner := p, members := [], slots := [], badSteps := [] } })

/-- Write of another entry of Table 10.11: rejected while the seam is armed. -/
def writeSeamConfig (sub v : Nat) (s : State) : Nat × State :=
  if s.seam.armed then (0x08, s) else (0, odPut 0x3001 sub v s)

/-! ### Joining (R227) -/

/-- A region-table entry that the hub writes (R221). -/
def hubEntry (kind : Nat) (rights : Byte) (world : Byte) (base n : Nat) : Region :=
  { base := base, limit := base + n - 1, kind := kind, rights := rights, world := world, valid := true
    raw := toLe 8 base ++ toLe 8 (base + n - 1) ++ [BitVec.ofNat 8 kind, rights, world] ++ List.replicate 11 0 }

def worldByte (s : State) (p : Nat) : Byte := if secure s p then 0 else 1

/-- Write of `panel.seam_join` of panel p. -/
def writeJoin (p : Nat) (v : Nat) (s : State) : Nat × State :=
  if 1 < v then (0x06, s)
  else if v = 0 then (0, leaveSeam p s)
  else if (panelOf s p).seamIdx.isSome then (0, s)
  else
    match (List.range (odGet s 0x3001 5)).find? fun j => !s.seam.members.any (·.2 == j) with
    | none => (0x08, s)
    | some j =>
      if !s.seam.armed || panelKind s p ≠ 2 then (0x08, s)
      else
        let r := hubEntry 6 2 (worldByte s p) (stagingOf s j 0) (seamSlots s * slotBytes s)
        let s := { s with seam := { s.seam with members := s.seam.members ++ [(p, j)] } }
        (0, showIndex p (odPut (panelIdx p 2) 1 1
          (updPanel p (fun x => { x with seamIdx := some j, regions := sset {} x.regions 32 r }) s)))

/-! ### Deposits (R228, R229) -/

/-- The fields of a deposit record (Table 10.4). -/
structure DepositRec where
  kind : Nat
  slot : Nat
  step : Word32
  tag : Word32
  count : Nat
  width : Nat
  norm : Word32
  bad : Bool
deriving DecidableEq, Repr

def depositRec (b : Bytes) : DepositRec :=
  let kind := fieldNat b 4 1
  let n := fieldNat b 20 2
  { kind := kind, slot := fieldNat b 6 2, step := BitVec.ofNat 32 (fieldNat b 8 4), tag := BitVec.ofNat 32 (fieldNat b 12 4)
    count := fieldNat b 16 4, width := n, norm := BitVec.ofNat 32 (fieldNat b 24 4)
    bad := fieldNat b 0 4 ≠ 0x4453_4A47 || kind = 0 || 4 < kind || fieldNat b 5 1 ≠ 0 || fieldNat b 22 2 ≠ 0 ||
      !allZero (b.drop 28) || (if kind = 3 then n = 0 || 1024 < n else n ≠ 0) }

/-- Bytes that a deposit stages; in noise mode 1 a contributor's DENSE and NOISE values count together (R232). -/
def stagedBytes (s : State) (d : DepositRec) : Nat :=
  if d.kind = 4 then 0
  else if d.kind = 3 then d.count * (8 + 4 * d.width)
  else if noiseMode s = 1 then 8 * d.count else 4 * d.count

/-- Does the slot stand under another step, tag, kind, count or width than the record's. -/
def otherSlot (x : SeamSlot) (d : DepositRec) : Bool :=
  x.step ≠ d.step || x.tag ≠ d.tag || x.count ≠ d.count || x.width ≠ d.width || (d.kind ≠ 2 && x.kind ≠ d.kind)

/-- Cause of a refusal (R229): the lowest-numbered that applies (R413). -/
def depositCause (s : State) (p : Nat) (d : DepositRec) : Option Nat :=
  let x := seamSlot s d.slot
  if d.bad then some 1
  else if seamSlots s ≤ d.slot || slotBytes s < stagedBytes s d then some 2
  else if d.kind = 4 then
    (if !s.seam.armed then some 4
      else if panelKind s p ≠ 1 || !(x.st = .released || x.st = .discarded) then some 5 else none)
  else if d.kind = 2 && (noiseMode s = 0 || x.st = .free || x.kind = 3) then some 3
  else if x.st ≠ .free && otherSlot x d then some 3
  else if !s.seam.armed || (panelOf s p).seamIdx.isNone ||
      (x.st ≠ .free && (!x.set.contains p || x.dropped.contains p)) then some 4
  else if s.seam.badSteps.contains d.step then some 6
  else if x.deposits.any fun e => e.panel == p && (e.kind == 2) == (d.kind == 2) then some 7
  else if x.st ≠ .free && x.st ≠ .filling then some 4
  else none

/-- Is the record one that the seam has accepted from this contributor for the slot, or one of the slot's last release. -/
def isDuplicate (s : State) (p : Nat) (d : DepositRec) (b : Bytes) : Bool :=
  let x := seamSlot s d.slot
  !d.bad && s.seam.armed && d.slot < seamSlots s &&
    ((x.deposits.any fun e => e.panel == p && e.record == b) || x.last.any fun e => e.panel == p && e.record == b)

/-- Sum of squares by fma in buffer order (R231). -/
def sumSquares (l : List Word32) : Word32 := l.foldl (fun a x => fma32 x x a) 0

/-- binary32 values at an address of memory. -/
def wordsAt (s : State) (a n : Nat) : List Word32 := wordsOf (readBytes s a (4 * n)) n

/-- The entries of a ROWED buffer: global row and values. -/
def rowsAt (s : State) (a n width : Nat) : List (Nat × List Word32) :=
  (List.range n).map fun i =>
    let e := a + i * (8 + 4 * width)
    (readNat s e 8 % 2 ^ 40, wordsAt s (e + 8) width)

/-- The values that count in N_seam for a deposit in staging buffer `a`. -/
def depositNorm (s : State) (d : DepositRec) (a : Nat) : Word32 :=
  if d.kind = 3 then sumSquares ((rowsAt s a d.count d.width).flatMap (·.2)) else sumSquares (wordsAt s a d.count)

/-- Accept a deposit of panel p with contributor index j. -/
def acceptDeposit (p j : Nat) (d : DepositRec) (b : Bytes) (s : State) : State :=
  let e : Deposit := { panel := p, idx := j, kind := d.kind, record := b, norm := d.norm
                       nseam := if d.kind = 2 then 0 else depositNorm s d (stagingOf s j d.slot) }
  let s := updSeamSlot d.slot (fun x =>
    if x.st = .free then
      { x with st := .filling, step := d.step, tag := d.tag, kind := d.kind, count := d.count, width := d.width
               set := s.seam.members.map (·.1), dropped := [], deposits := [e] }
    else { x with deposits := x.deposits ++ [e] }) s
  settleSlot d.slot (showResult p 1 d.slot d.step d.tag 0 s)

/-- The seam handles a deposit record of panel p. -/
def takeDeposit (p : Nat) (b : Bytes) (s : State) : State :=
  let d := depositRec b
  if isDuplicate s p d b then showResult p 2 d.slot d.step d.tag 0 s
  else
    match depositCause s p d with
    | some cause =>
      postPanel p 0x3004 seamBlock (d.slot + 2 ^ 16 * d.tag.toNat) (d.step.toNat + 2 ^ 32 * cause)
        (odCount 0x3002 4 1 (showResult p 3 d.slot d.step d.tag cause s))
    | none =>
      if d.kind = 4 then
        showResult p 1 d.slot d.step d.tag 0 (updSeamSlot d.slot (fun x => { last := x.last }) s)
      else acceptDeposit p ((panelOf s p).seamIdx.getD 0) d b s

/-- The oldest record that panel p's doorbell holds, if it is of the kind named or of no listed kind. -/
def doDeposit (p kind : Nat) (s : State) : State :=
  match s.seam.inbox.find? (·.1 == p) with
  | none => s
  | some e =>
    let k := fieldNat e.2 4 1
    if k = kind || k = 0 || 4 < k then
      takeDeposit p e.2 { s with seam := { s.seam with inbox := s.seam.inbox.erase e } }
    else s

/-! ### Discards and releases (R230–R233) -/

/-- Write the release record of slot n, then add 1 to the release knot (R233). -/
def closeSlot (n status done flags count : Nat) (s : State) : State :=
  let x := seamSlot s n
  let b := toLe 4 x.step.toNat ++ toLe 4 x.tag.toNat ++ toLe 2 n ++ toLe 1 status ++ toLe 1 done ++ toLe 1 x.set.length ++
    toLe 1 flags ++ toLe 2 0 ++ toLe 4 count ++ List.replicate 44 0
  panelKnot s.seam.owner seamBlock false (BitVec.ofNat 32 (odGet s 0x3001 0xB)) 1 (writeBytes (releaseBase s + 64 * n) b s)

/-- Discard one slot. -/
def discardOne (flags : Nat) (s : State) (n : Nat) : State :=
  let x := seamSlot s n
  let done := (doneBy s x).length
  let s := updSeamSlot n (fun x => { x with st := .discarded }) s
  let s := odCount 0x3002 2 1 (closeSlot n 2 done flags 0 s)
  x.set.foldl (fun s p => showResult p 5 n x.step x.tag 0 s) s

/-- Slot n is DISCARDED: so are its step and every other slot of that step in FILLING (R230). -/
def discardSlot (n flags : Nat) (s : State) : State :=
  let x := seamSlot s n
  let done := (doneBy s x).length
  let others := (slotNumbers s).filter fun i => i != n && (seamSlot s i).st = .filling && (seamSlot s i).step = x.step
  let who := (List.range 16).filter fun p => (n :: others).any fun i => (seamSlot s i).set.contains p
  let s := { s with seam := { s.seam with badSteps := s.seam.badSteps ++ [x.step] } }
  let s := others.foldl (discardOne 0) (discardOne flags s n)
  (s.seam.owner :: who).foldl (fun s p => postPanel p 0x3006 seamBlock n
    (x.step.toNat + 2 ^ 32 * done + 2 ^ 40 * minContributors s) s) s

/-- SEAM_SLOT_TIMEOUT. -/
def doSlotTimeout (n : Nat) (s : State) : State :=
  let x := seamSlot s n
  if x.st ≠ .filling then s
  else settleSlot n ((x.set.filter fun p => !completed s x p).foldl (fun s p => dropFrom n p s) s)

/-- Clip factor of a deposit (R231). -/
def depositFactor (c : Word32) (d : Deposit) : Word32 :=
  let n := max32 d.norm d.nseam
  if !finite32 n then 0
  else if le32 n (mul32 c c) then 0x3F80_0000
  else mul32 c (rsqrt32 n)

/-- The rule's sum of terms c_j · G_j. -/
def sumTerms : List (Word32 × Word32) → Word32
  | [] => 0
  | t :: ts => ts.foldl (fun a u => add32 a (mul32 u.1 u.2)) (mul32 t.1 t.2)

/-- One noise value of the seam's own (R232). -/
def seamDraw (s : State) : Word32 × State :=
  let (v, s) := freshVal s
  (rne32 (fmul (fmul (f32val (seamSigma s)) (f32val (seamClip s))) (f32val (Config.normal v))), s)

/-- Add the seam's noise to every value of a list. -/
def addNoise : List Word32 → State → List Word32 × State
  | [], s => ([], s)
  | x :: xs, s =>
    let (n, s) := seamDraw s
    let (ys, s) := addNoise xs s
    (add32 x n :: ys, s)

/-- Deposit of panel p in a slot, DENSE or ROWED. -/
def mainDeposit (x : SeamSlot) (p : Nat) : Option Deposit := x.deposits.find? fun d => d.panel == p && d.kind != 2

/-- Clip factor of each member of D, and the index under which it deposited: a member that leaves while the slot is RELEASING stays
in D. -/
def termsOf (s : State) (x : SeamSlot) : List (Word32 × Nat) :=
  (doneBy s x).filterMap fun p => (mainDeposit x p).map fun d => (depositFactor (seamClip s) d, d.idx)

/-- The sum of a DENSE slot. -/
def denseSum (s : State) (n : Nat) (x : SeamSlot) : List Word32 :=
  let cols := (termsOf s x).map fun t => (t.1, wordsAt s (stagingOf s t.2 n) x.count)
  (List.range x.count).map fun e => sumTerms (cols.map fun c => (c.1, c.2.getD e 0))

/-- Sum of the members' NOISE buffers (R232, mode 1). -/
def hostNoise (s : State) (n : Nat) (x : SeamSlot) : List Word32 :=
  let cols := (termsOf s x).map fun t => wordsAt s (stagingOf s t.2 n + 4 * x.count) x.count
  (List.range x.count).map fun e =>
    match cols.map (·.getD e 0) with
    | [] => 0
    | v :: vs => vs.foldl add32 v

/-- Insert a row in ascending order, adding to one that is there. -/
def addRow (r : Nat) (v : List Word32) : List (Nat × List Word32) → List (Nat × List Word32)
  | [] => [(r, v)]
  | (k, u) :: l => if r < k then (r, v) :: (k, u) :: l else if r = k then (k, List.zipWith add32 u v) :: l else (k, u) :: addRow r v l

/-- One contributor's entries, those of one row added in entry order. -/
def mergeRows (l : List (Nat × List Word32)) : List (Nat × List Word32) := l.foldl (fun m e => addRow e.1 e.2 m) []

/-- The sum of a ROWED slot, by ascending row. -/
def rowedSum (s : State) (n : Nat) (x : SeamSlot) : List (Nat × List Word32) :=
  let parts := (termsOf s x).map fun t => (t.1, mergeRows (rowsAt s (stagingOf s t.2 n) x.count x.width))
  let rows := (parts.flatMap fun p => p.2).foldl (fun m e => addRow e.1 [] m) []
  rows.map fun e => (e.1, (List.range x.width).map fun k =>
    sumTerms (parts.filterMap fun p => (p.2.find? (·.1 == e.1)).map fun v => (p.1, v.2.getD k 0)))

/-- Bytes of released rows, with the seam's noise where it adds any. -/
def releaseRows (noise : Bool) : List (Nat × List Word32) → State → Bytes × State
  | [], s => ([], s)
  | e :: l, s =>
    let (v, s) := if noise then addNoise e.2 s else (e.2, s)
    let (b, s) := releaseRows noise l s
    (toLe 8 e.1 ++ wordsBytes v ++ b, s)

/-- The release is written. -/
def finishRelease (n : Nat) (x : SeamSlot) (data : Bytes) (noise : Bool) (count : Nat) (s : State) : State :=
  let D := doneBy s x
  let s := writeBytes (releaseBase s + 0x1_0000 + n * slotBytes s) data s
  let s := updSeamSlot n (fun x => { x with st := .released, last := x.deposits.filter fun d => D.contains d.panel }) s
  let s := odCount 0x3002 1 1 (closeSlot n 1 D.length (if noise then 1 else 0) count s)
  D.foldl (fun s p => showResult p 4 n x.step x.tag 0 s) s

/-- SEAM_RELEASE. -/
def doSeamRelease (n : Nat) (s : State) : State :=
  let x := seamSlot s n
  if x.st ≠ .releasing then s
  else if (doneBy s x).length < minContributors s then discardSlot n 0 s
  else if x.kind = 3 then
    let rows := rowedSum s n x
    if slotBytes s < rows.length * (8 + 4 * x.width) then discardSlot n 2 s
    else
      let (b, t) := releaseRows (seamNoise s) rows s
      finishRelease n x b (seamNoise s) rows.length t
  else if noiseMode s = 1 then
    finishRelease n x (wordsBytes (List.zipWith add32 (denseSum s n x) (hostNoise s n x))) true x.count s
  else
    let (v, t) := if seamNoise s then addNoise (denseSum s n x) s else (denseSum s n x, s)
    finishRelease n x (wordsBytes v) (seamNoise s) x.count t

end Sys2Proof.Machine
end

