-- ==== Sys2Proof/Machine/Qp.lean ====
section
/-! DEFINITION. The receiving side of queue pairs (R269–R284): the context cache, placement of messages, acknowledgements,
NAKs, remote knot operations and their wakes, and the QP ring records. -/
namespace Sys2Proof.Machine

/-! ### The context cache (R282) -/

/-- Start the restore of a context that a packet met outside the cache. -/
def missQp (q : Nat) (s : State) : State :=
  let x := qpOf s q
  let s := msgCount x.owner 6 1 s
  if x.restoring then s
  else
    let s := updQp q (fun x => { x with restoring := true, byHost := odGet s 0x3200 1 == 1 }) s
    if odGet s 0x3200 1 = 1 then postPanel x.owner 0x3203 (qpBlock q) q 0 s else s

/-- A context that was not written back as it was: its numbers and its message prefixes are free (R282). -/
def openContext (s : State) (x : Qp) : Qp :=
  { x with sendPsn := (openWord 3 0 s).truncate 24, expPsn := (openWord 3 1 s).truncate 24
           rxPrefix := openWord 3 2 s, remPrefix := openWord 3 3 s }

/-- The context is back in the cache, once there is room for it. Bytes that are not those written out are a host-made
error, and the sequence state that the context holds is free. -/
def restoreQp (q : Nat) (s : State) : State :=
  let x := qpOf s q
  if !x.restoring || x.st = .free then s
  else
    match cacheRoom s with
    | none => s
    | some t =>
      let good := x.saved.isEmpty || readBytes t (qpTable t x.owner q + 64) 960 = x.saved.drop 64
      let t := if good then t else taint x.owner t
      updQp q (fun x => { (if good then x else openContext t x) with cached := true, restoring := false })
        { t with cacheOrder := q :: t.cacheOrder }

/-- CONTEXT_RESTORE_COMPLETE: of a restore that began in hardware mode, since the host writes the context otherwise (R399). -/
def doRestoreQp (q : Nat) (s : State) : State := if (qpOf s q).byHost then s else restoreQp q s

/-- Write of `msg.ctx_restored`. -/
def writeCtxRestored (p q : Nat) (s : State) : Nat × State :=
  if 4096 ≤ q then (0x06, s)
  else if (qpOf s q).st ≠ .free && (qpOf s q).owner = p && (qpOf s q).byHost then (0, restoreQp q s)
  else (0, s)

/-! ### Answers to a packet -/

/-- An answer to a packet whose QP is FREE or of another kind, or whose module is in D2: it goes back where the packet came from. It
is sealed under the QP's key; a FREE QP has none (DEDUCED). -/
def nakBack (pkt : Packet) (code : Nat) (s : State) : State :=
  let b := toLe 4 code ++ toLe 4 pkt.hdr.psn.toNat ++ toLe 8 0
  let h : PktHdr :=
    { ver := 1, cls := 2, op := 0x03, first := true, last := true, trail := false, enc := false, ece := false
      keySlot := 0, panel := BitVec.ofNat 4 (qpOf s pkt.hdr.dstQp.toNat).owner, dstFab := pkt.hdr.srcFab
      srcFab := BitVec.ofNat 8 (fabricId s), dstQp := pkt.hdr.srcQp, srcQp := pkt.hdr.dstQp, len := 16, psn := 0, msg := 0
      off := 0, nonce := 0 }
  let p : Packet := { hdr := h, ce := false, payload := b, tag := [] }
  let q := pkt.hdr.dstQp.toNat
  if (qpOf s q).st = .free then odCount 0x3206 5 1 (netSend 0 p s)
  else
    match sealPkt q p s with
    | none => spentKey q 0 0 s
    | some (p, s) => msgCount (qpOf s q).owner 5 1 (netSend 0 p s)

/-- The payload of a packet for QP q, opened when the panel is secure; none when it fails authentication (R237). -/
def openPkt (s : State) (x : Qp) (pkt : Packet) : Option Bytes :=
  if secure s x.owner then
    (if pkt.hdr.enc then
      gcmOpen (sget {} (panelOf s x.owner).keys x.keySlot).key (nonceBytes pkt.hdr) (hdrBytes pkt.hdr) pkt.payload pkt.tag
     else none)
  else if pkt.hdr.enc then none else some pkt.payload

/-- Place of a PSN relative to the receiver's window (R276). -/
inductive PsnFate where
  | new
  | duplicate
  | outside
deriving DecidableEq, Repr

def psnFate (x : Qp) (p : BitVec 24) : PsnFate :=
  let d := (p - x.expPsn).toNat
  if d < 256 then (if x.bitmap.contains p then .duplicate else .new)
  else if 2 ^ 23 ≤ d then .duplicate else .outside

/-- Advance the expected PSN past every leading set bit. -/
def advancePsn : Nat → BitVec 24 → List (BitVec 24) → BitVec 24 × List (BitVec 24)
  | 0, e, l => (e, l)
  | fuel + 1, e, l => if l.contains e then advancePsn fuel (e + 1) (l.filter (· != e)) else (e, l)

/-- The packet with this PSN has been taken. -/
def takePsn (q : Nat) (p : BitVec 24) (s : State) : State :=
  updQp q (fun x =>
    let r := advancePsn 257 x.expPsn (p :: x.bitmap)
    { x with expPsn := r.1, bitmap := r.2 }) s

/-- A packet acknowledged and dropped as a duplicate. -/
def dupPkt (q : Nat) (s : State) : State := sendAck q (msgCount (qpOf s q).owner 4 1 s)

def malformed (p : Nat) (s : State) : State := msgCount p 8 1 s

/-- A packet taken without further effect, and acknowledged. -/
def ackDrop (q : Nat) (p : BitVec 24) (s : State) : State := dupPkt q (takePsn q p s)

/-- Common checks of a packet for a QP of this device, of the kind that `control` names: a QP that is FREE or of another
kind, one in ERROR, a module in D2, a context not cached, a failed authentication, and the PSN window. `f` handles what is
new. -/
def receive (control : Bool) (pkt : Packet) (f : Nat → Qp → Bytes → State → State) (s : State) : State :=
  let q := pkt.hdr.dstQp.toNat
  let x := qpOf s q
  if pkt.hdr.dstFab.toNat ≠ fabricId s then s
  else if x.st = .free || x.control ≠ control then nakBack pkt 2 s
  else if s.startup.dstate = 2 then nakBack pkt 7 s
  else if x.st = .error then s
  else if x.remFab ≠ pkt.hdr.srcFab.toNat || x.remQp ≠ pkt.hdr.srcQp.toNat then malformed x.owner s
  else if !x.cached then sendNak q 1 pkt.hdr.psn (missQp q s)
  else
    match openPkt s x pkt with
    | none => odCount 0x3003 2 1 s
    | some b =>
      let s := touchQp q (if pkt.ce then updQp q (fun x => { x with ece := true }) s else s)
      match psnFate x pkt.hdr.psn with
      | .duplicate => dupPkt q s
      | .outside => malformed x.owner s
      | .new => f q (qpOf s q) b s

/-! ### Messages (R271–R278) -/

/-- Does a range lie wholly in the DIRECT ways of panel p on one tile. -/
def inDirectRun (s : State) (p a n : Nat) : Bool :=
  let t := (a - tbBase) / 0x400_0000
  let way (b : Nat) : Nat := (b - tbBase) % 0x400_0000 / 0x30_0000
  let e := a + n - 1
  tbBase ≤ a && e < tbEnd && 0 < n && (e - tbBase) / 0x400_0000 = t &&
    (List.range (way e + 1 - way a)).all fun i => (directWays s p t).contains (way a + i)

/-- Does a range lie wholly in panel p's Crown, one of its core stores or its DIRECT ways (R271). -/
def inOwnMemory (s : State) (p a n : Nat) : Bool :=
  inOwnCrown s p a n || (panelCores s p).any (fun c => inStoreOf c a n) || inDirectRun s p a n

/-- Place of byte `o` of receive entry n: address, or none when the key, the capacity, the range or the region table does
not allow n bytes there (R271). -/
def placeAt (s : State) (x : Qp) (entry o n : Nat) : Option Nat :=
  let key := readNat s entry 4
  let k := odGet s 0x3202 (x.owner + 1) + 32 * (key / 2 ^ 16)
  let base := readNat s k 6
  let len := readNat s (k + 8) 8
  let off := readNat s (entry + 8) 8
  let a := base + off + o
  if key / 2 ^ 16 < odGet s 0x3203 (x.owner + 1) && readNat s (k + 16) 2 = key % 2 ^ 16 && bitOf (readNat s (k + 18) 1) 0 &&
      bitOf (readNat s (k + 19) 1) 0 && o + n ≤ readNat s (entry + 16) 4 && off + o + n ≤ len &&
      inOwnMemory s x.owner base len &&
      grants s x.owner true a n && (lostPartly s a n).isNone then some a
  else none

/-- Is receive entry m posted (R272). -/
def entryPosted (s : State) (x : Qp) (m : Word32) : Bool :=
  let v := BitVec.ofNat 32 (knotOf s (knotAt x.postKnot)).value.toNat
  (v - (m + 1)).toNat < 2 ^ 31

/-- Set the message prefix past every message that is complete. -/
def advancePrefix : Nat → Word32 → List Word32 → Word32 × List Word32
  | 0, p, l => (p, l)
  | fuel + 1, p, l => if l.contains p then advancePrefix fuel (p + 1) (l.filter (· != p)) else (p, l)

/-- A report to the issuing panel on the CONTROL QP: result 1, discarded on a poisoned knot (R198). -/
def reportOrphan (p fab addr core count : Nat) (s : State) : State :=
  match controlQp s p fab with
  | some q => sendWake q addr 1 core count s
  | none => s

/-- A remote operation may name only a knot of the panel that owns the QP, and no restore knot (R195, R275). -/
def remoteKnotOk (s : State) (p : Nat) (a : Word32) : Bool := ownKnot s p a && !isRestoreKnot s (knotAt a)

/-- Apply a remote KADD or KSET to knot i. -/
def applyRemote (set : Bool) (i v : Nat) (g : Signaller) (s : State) : State :=
  odCount 0x2807 2 1 (if set then applyKset i v g s else applyKadd i v g s)

/-- The trailing operation of a message (R275), brought by the packet with PSN `psn`. -/
def trailingOp (q : Nat) (pkt : Packet) (psn : BitVec 24) (t : Bytes) (s : State) : State :=
  let x := qpOf s q
  let a := BitVec.ofNat 32 (fieldNat t 0 4)
  let op := fieldNat t 4 1
  let i := knotAt a
  if (op ≠ 0x40 && op ≠ 0x41) || !remoteKnotOk s x.owner a then sendNak q 5 psn s
  else if (knotOf s i).poisoned then reportOrphan x.owner pkt.hdr.srcFab.toNat a.toNat 0 0 s
  else applyRemote (op = 0x41) i (fieldNat t 6 6) ⟨pkt.hdr.srcFab.toNat, 0, 0, 16⟩ s

/-- Message m of QP q is complete (R273). -/
def completeMsg (q : Nat) (pkt : Packet) (m : InMsg) (s : State) : State :=
  let x := qpOf s q
  let s := writeBytes (recvEntry x m.id.toNat + 20) (toLe 4 (m.length.getD 0) ++ toLe 1 1) s
  let r := advancePrefix 65 x.rxPrefix (m.id :: x.rxDone)
  let s := updQp q (fun x => { x with
    rxPrefix := r.1, rxDone := r.2, inMsgs := x.inMsgs.filter (·.id != m.id) }) s
  let s := deviceKnot (qpBlock q) true x.doneKnot r.1.toNat s
  let s := match m.trail with
    | some (psn, t) => trailingOp q pkt psn t s
    | none => s
  sendAck q (msgCount x.owner 9 1 s)

/-- Data of a SEND packet, and its trailing operation. -/
def splitTrail (pkt : Packet) (b : Bytes) : Bytes × Option Bytes :=
  if pkt.hdr.trail then (b.take (b.length - 16), some (b.drop (b.length - 16))) else (b, none)

/-- The attempt of message m that a packet belongs to (R278): `none` for an earlier one. -/
def attemptOf (x : Qp) (m : Word32) (base : BitVec 24) : Option InMsg :=
  match x.inMsgs.find? (·.id == m) with
  | none => some ⟨m, base, 0, none, none⟩
  | some i =>
    if i.base = base then some i
    else if (base - i.base).toNat < 2 ^ 23 then some ⟨m, base, 0, none, none⟩ else none

/-- A placed packet is acknowledged at once, or counts towards the interval (R279). -/
def noteAck (q : Nat) (s : State) : State :=
  let n := (qpOf s q).sinceAck + 1
  if odGet s 0x3200 5 ≤ n then sendAck q s else updQp q (fun x => { x with sinceAck := n, ackDue := true }) s

/-- Place a packet of a message. -/
def placePkt (q : Nat) (pkt : Packet) (i : InMsg) (a : Nat) (d : Bytes) (t : Option Bytes) (s : State) : State :=
  let x := qpOf s q
  let s := msgCount x.owner 2 1 (writeBytes a d (takePsn q pkt.hdr.psn s))
  let i := { i with
    count := i.count + d.length
    length := if pkt.hdr.last then some (pkt.hdr.off.toNat + d.length) else i.length
    trail := match t with
      | some t => some (pkt.hdr.psn, t)
      | none => i.trail }
  let s := updQp q (fun x => { x with inMsgs := x.inMsgs.filter (·.id != i.id) ++ [i] }) s
  if i.length = some i.count then completeMsg q pkt i s else noteAck q s

/-- A new SEND packet. -/
def newSend (pkt : Packet) (q : Nat) (x : Qp) (b : Bytes) (s : State) : State :=
  let m := pkt.hdr.msg
  let ahead := (m - x.rxPrefix).toNat
  if pkt.hdr.trail && b.length < 16 then malformed x.owner s
  else if 2 ^ 31 ≤ ahead || x.rxDone.contains m then ackDrop q pkt.hdr.psn s
  else if 64 ≤ ahead then malformed x.owner s
  else
    match attemptOf x m (pkt.hdr.psn - BitVec.ofNat 24 (pkt.hdr.off.toNat / 4096)) with
    | none => ackDrop q pkt.hdr.psn s
    | some i =>
      let d := splitTrail pkt b
      if !entryPosted s x m then sendNak q 3 pkt.hdr.psn s
      else
        match placeAt s x (recvEntry x m.toNat) pkt.hdr.off.toNat d.1.length with
        | some a => placePkt q pkt i a d.1 d.2 s
        | none =>
          let s := setRecvStatus x m.toNat 3 (sendNak q 4 pkt.hdr.psn s)
          qpError q 2 2 m.toNat pkt.hdr.psn.toNat (updQp q (fun x => { x with inMsgs := x.inMsgs.filter (·.id != m) }) s)

/-- A packet of an opcode that Table 12.6 does not list is discarded and counted. -/
def badOpcode (pkt : Packet) (s : State) : State :=
  if pkt.hdr.op = 0 || 6 < pkt.hdr.op.toNat then malformed (qpOf s pkt.hdr.dstQp.toNat).owner s else s

/-- An effect outside the cores lets operations of a panel's cores go on. -/
def afterPkt (q : Nat) (s : State) : State := pumpCores (qpOf s q).owner (pumpPanel (qpOf s q).owner s)

/-- SEND. -/
def doSend (pkt : Packet) (s : State) : State :=
  if pkt.hdr.op ≠ 0x01 then badOpcode pkt s else afterPkt pkt.hdr.dstQp.toNat (receive false pkt (newSend pkt) s)

/-- ACK_TIMER. -/
def doAckTimer (q : Nat) (s : State) : State :=
  if (qpOf s q).ackDue && (qpOf s q).st = .ready then sendAck q s else s

/-! ### Acknowledgements and NAKs at the sender -/

/-- Rate limit after an ECE, at most once per 50 µs (R262). -/
def lowerRate (q : Nat) (s : State) : State :=
  let x := qpOf s q
  let soon : Bool := match x.eceAt with
    | some t => decide (s.time < t + 50000)
    | none => false
  if soon then s else updQp q (fun x => { x with rateMbps := max (x.rateMbps / 2) 1000, eceAt := some s.time }) s

/-- ECN_RATE_INCREASE. -/
def doRateIncrease (q : Nat) (s : State) : State :=
  if (qpOf s q).st = .free then s
  else updQp q (fun x => { x with rateMbps := min (x.rateMbps + odGet s 0x3100 0xF) 400000 }) s

/-- A SEND MOVE is complete when no packet of it is left. -/
def settleMoves (q : Nat) (gone : List OutPkt) (s : State) : State :=
  gone.foldl (fun s o =>
    if o.move = 0 || o.dead || (((qpOf s q).unacked ++ (qpOf s q).waiting).any fun v => !v.dead && v.core = o.core && v.move = o.move)
      then s
    else dropSend o.core o.move s) s

/-- Free the PSNs that a test picks out. -/
def freePsns (q : Nat) (pick : BitVec 24 → Bool) (s : State) : State :=
  let x := qpOf s q
  let gone := x.unacked.filter fun o => pick o.pkt.hdr.psn
  let s := updQp q (fun x => { x with unacked := x.unacked.filter fun o => !pick o.pkt.hdr.psn }) s
  settleMoves q gone s

/-- May an acknowledgement or NAK reach QP q: its opened payload. NAK 2 of a FREE QP comes unsealed, for want of a key (DEDUCED). -/
def answerFor (s : State) (pkt : Packet) : Option Bytes :=
  let x := qpOf s pkt.hdr.dstQp.toNat
  if pkt.hdr.dstFab.toNat ≠ fabricId s || x.st ≠ .ready || x.remFab ≠ pkt.hdr.srcFab.toNat ||
      x.remQp ≠ pkt.hdr.srcQp.toNat then none
  else if pkt.hdr.op = 0x03 && !pkt.hdr.enc && fieldNat pkt.payload 0 1 = 2 then some pkt.payload
  else openPkt s x pkt

/-- Count a packet that fails authentication for a READY QP. -/
def noteAuth (pkt : Packet) (s : State) : State :=
  let x := qpOf s pkt.hdr.dstQp.toNat
  if x.st = .ready && pkt.hdr.dstFab.toNat = fabricId s && (openPkt s x pkt).isNone then odCount 0x3003 2 1 s else s

/-- Is PSN p covered by an ACK with expected PSN e and this bitmap. -/
def ackCovers (e : BitVec 24) (bits : Bytes) (p : BitVec 24) : Bool :=
  let d := (p - e).toNat
  2 ^ 23 ≤ d || (d < 256 && (bits.getD (d / 8) 0).getLsbD (d % 8))

/-- ACK. -/
def doAck (pkt : Packet) (s : State) : State :=
  let q := pkt.hdr.dstQp.toNat
  if pkt.hdr.op ≠ 0x02 then badOpcode pkt s
  else
    match answerFor s pkt with
    | none => noteAuth pkt s
    | some b =>
      let pre := BitVec.ofNat 32 (fieldNat b 4 4)
      let s := if pkt.hdr.ece then lowerRate q s else s
      let s := updQp q (fun x => { x with remPrefix := if (pre - x.remPrefix).toNat < 2 ^ 31 then pre else x.remPrefix }) s
      afterPkt q (pumpQp q 256 (freePsns q (ackCovers (BitVec.ofNat 24 (fieldNat b 0 4)) (b.drop 8)) s))

def updOut (q : Nat) (psn : BitVec 24) (f : OutPkt → OutPkt) (s : State) : State :=
  updQp q (fun x => { x with unacked := x.unacked.map fun o => if o.pkt.hdr.psn = psn then f o else o }) s

def outPkt (s : State) (q : Nat) (psn : BitVec 24) : Option OutPkt := (qpOf s q).unacked.find? (·.pkt.hdr.psn == psn)

/-- Tag of the kernel that issued a packet. -/
def outTag (s : State) (o : OutPkt) : Nat :=
  match kernelBy s o.kid with
  | some k => k.tag.toNat
  | none => 0

/-- NAK 5: the operation was refused at its target (R195). -/
def refusedRemote (q : Nat) (o : OutPkt) (s : State) : State :=
  let p := (qpOf s q).owner
  abortKernel o.kid 0x2803 (postPanel p 0x2803 (coreBlock s o.core) (o.addr + 2 ^ 40) (outTag s o) s)

/-- NAK. -/
def doNak (pkt : Packet) (s : State) : State :=
  let q := pkt.hdr.dstQp.toNat
  if pkt.hdr.op ≠ 0x03 then badOpcode pkt s
  else
    match answerFor s pkt with
    | none => noteAuth pkt s
    | some b =>
      let code := fieldNat b 0 1
      let psn := BitVec.ofNat 24 (fieldNat b 4 4)
      match outPkt s q psn with
      | none => s
      | some o =>
        if code = 4 then qpError q 1 2 o.pkt.hdr.msg.toNat psn.toNat s
        else if code = 5 then afterPkt q (freePsns q (· == psn) (refusedRemote q o s))
        else if code = 0 || 7 < code then s
        else
          odCount 0x2807 3 (if code = 6 then 1 else 0)
            (updOut q psn (fun o => { o with nak := code, backoffUs := if o.backoffUs = 0 then 2 else min 64 (2 * o.backoffUs) }) s)

/-- Send an unacknowledged packet again, unless its SEND's core has been remapped (R278). -/
def resendPkt (o : OutPkt) (s : State) : State := if o.dead then s else netSend o.src o.pkt s

/-- NAK_RETRY: after the backoff; a wait whose target had no waiter record is sent again by its core. -/
def doNakRetry (q : Nat) (psn : BitVec 24) (s : State) : State :=
  match outPkt s q psn with
  | some o => if o.nak = 0 || o.nak = 6 || (qpOf s q).st ≠ .ready then s else resendPkt o s
  | none => s

/-- Does core c still wait for the answer to a packet: an aborted kernel's wait is withdrawn (R203). -/
def stillWaits (s : State) (c : Nat) (o : OutPkt) : Bool := (coreOf s c).remoteWait.isSome && (coreOf s c).kid = o.kid

/-- REMOTE_WAIT_RETRY: the wait of core c that met a full target. -/
def doRemoteWaitRetry (c : Nat) (s : State) : State :=
  match s.qps.findSome? fun e => (e.2.unacked.find? fun o => o.core = c && o.nak = 6 && e.2.st = .ready) with
  | some o => if stillWaits s c o then resendPkt o s else s
  | none => s

/-- The KNOT packets of QP q whose far end, by their NAKs, belongs to no panel (R198): for each KADD or KSET the issuing panel gets
event 0x2804 with cause 2. -/
def postFarGone (q : Nat) (s : State) : State :=
  let x := qpOf s q
  (x.unacked.filter fun o => o.pkt.hdr.op = 0x04 && o.nak = 2 && !stillWaits s o.core o).foldl (fun s o =>
    postPanel x.owner 0x2804 (coreBlock s o.core) o.addr (outTag s o + 2 ^ 32 * 2) s) s

/-- The trailing operations that QP q sent to a far end that belongs to no panel: the same event. -/
def postTrailGone (q : Nat) (s : State) : State :=
  let x := qpOf s q
  (x.unacked.filter fun o => o.ofSend && o.pkt.hdr.trail && o.nak = 2).foldl (fun s o =>
    postPanel x.owner 0x2804 (coreBlock s o.core) o.addr (outTag s o + 2 ^ 32 * 2) s) s

/-- NAK_LIMIT_EXPIRY. -/
def doNakLimit (q : Nat) (psn : BitVec 24) (s : State) : State :=
  match outPkt s q psn with
  | some o => if o.nak = 0 then s else qpError q 4 2 o.pkt.hdr.msg.toNat psn.toNat (postTrailGone q (postFarGone q s))
  | none => s

/-- RETRY_TIMEOUT. -/
def doRetryTimeout (q : Nat) (psn : BitVec 24) (s : State) : State :=
  match outPkt s q psn with
  | none => s
  | some o =>
    if (qpOf s q).st ≠ .ready || o.dead then s
    else if odGet s 0x3200 3 ≤ o.resends then qpError q 3 2 o.pkt.hdr.msg.toNat psn.toNat s
    else msgCount (qpOf s q).owner 3 1 (resendPkt o (updOut q psn (fun o => { o with resends := o.resends + 1 }) s))

/-! ### Remote knot operations (R283, R284) -/

/-- The fields of a KNOT payload (Table 12.9). -/
structure KnotMsg where
  addr : Word32
  op : Nat
  value : Nat
  core : Nat
  count : Word32
  tag : Nat
deriving DecidableEq, Repr

def knotMsg (b : Bytes) : KnotMsg :=
  { addr := BitVec.ofNat 32 (fieldNat b 0 4), op := fieldNat b 4 1, value := fieldNat b 6 6, core := fieldNat b 12 1
    count := BitVec.ofNat 32 (fieldNat b 16 4), tag := fieldNat b 20 4 }

/-- Waiter records that other devices hold at the core of a knot. -/
def recordsFull (s : State) (i : Nat) : Bool :=
  64 ≤ (s.waiters.filter fun w => w.fab.isSome && w.knot / 256 = i / 256).length

/-- Register a remote wait, or wake its issuer at once. -/
def remoteWait (q fab : Nat) (m : KnotMsg) (s : State) : State :=
  let i := knotAt m.addr
  let v := if m.op = 0x44 then m.value % 2 ^ 16 else m.value
  if waitMet (knotOf s i) m.op v then sendWake q m.addr.toNat 0 m.core m.count.toNat s
  else { s with waiters := s.waiters ++
    [{ knot := i, fab := some fab, core := m.core, op := m.op, mode := 0, value := v, qp := q, count := m.count.toNat
       since := s.time }] }

/-- The count is stored and the packet's number taken. -/
def storeKnot (q : Nat) (pkt : Packet) (m : KnotMsg) (s : State) : State :=
  takePsn q pkt.hdr.psn (updQp q (fun x => { x with counts := sset 0 x.counts m.core m.count.toNat }) s)

/-- The same for an operation that is accepted: it counts towards the next ACK. -/
def takeKnot (q : Nat) (pkt : Packet) (m : KnotMsg) (s : State) : State := noteAck q (storeKnot q pkt m s)

/-- A new KNOT packet. -/
def newKnot (pkt : Packet) (q : Nat) (x : Qp) (b : Bytes) (s : State) : State :=
  let m := knotMsg b
  let i := knotAt m.addr
  let fab := pkt.hdr.srcFab.toNat
  let wait := m.op = 0x42 || m.op = 0x43 || m.op = 0x44
  let d := (m.count - BitVec.ofNat 32 (sget 0 x.counts m.core)).toNat
  if b.length ≠ 32 || m.op < 0x40 || 0x44 < m.op then malformed x.owner s
  else if d = 0 || 2 ^ 31 ≤ d then ackDrop q pkt.hdr.psn s
  else if !remoteKnotOk s x.owner m.addr then
    (if wait then sendWake q m.addr.toNat 2 m.core m.count.toNat (takeKnot q pkt m s)
     else sendNak q 5 pkt.hdr.psn (storeKnot q pkt m s))
  else if (knotOf s i).poisoned then
    sendWake q m.addr.toNat 1 m.core m.count.toNat (odCount 0x2807 5 (if wait then 1 else 0) (takeKnot q pkt m s))
  else if wait && recordsFull s i then sendNak q 6 pkt.hdr.psn s
  else
    let g : Signaller := ⟨fab, m.core, m.tag, 16⟩
    let s := takeKnot q pkt m s
    if m.op = 0x40 then applyRemote false i m.value g s
    else if m.op = 0x41 then applyRemote true i m.value g s
    else if m.op = 0x44 then remoteWait q fab m (odCount 0x2807 2 1 (applyArrive i (m.value % 2 ^ 16) x.owner g s))
    else remoteWait q fab m (odCount 0x2807 2 1 s)

/-- KNOT. -/
def doKnot (pkt : Packet) (s : State) : State :=
  if pkt.hdr.op ≠ 0x04 then badOpcode pkt s else afterPkt pkt.hdr.dstQp.toNat (receive true pkt (newKnot pkt) s)

/-- The core's remote wait that a WAKE names is over (R200). -/
def endRemoteWait (c : Nat) (s : State) : State := updCore c (fun x => { knotReady x with remoteWait := none }) s

/-- The packet that sent a trailing operation of panel p on knot address `addr` to fabric ID f, if one is unacknowledged still. -/
def trailSent (s : State) (p f addr : Nat) : Option OutPkt :=
  s.qps.findSome? fun e =>
    if e.2.owner = p && !e.2.control && e.2.remFab = f then
      e.2.unacked.find? fun o => o.pkt.hdr.op = 0x01 && o.pkt.hdr.trail && o.addr = addr
    else none

/-- A report that an operation of this panel was discarded on a poisoned knot (R198). A count of 0, which no KNOT packet carries,
names a trailing operation. -/
def reportDiscard (x : Qp) (addr c count : Nat) (s : State) : State :=
  let post (src tag : Nat) : State := postPanel x.owner 0x2804 (coreBlock s src) addr (tag + 2 ^ 32) s
  if count = 0 then
    match trailSent s x.owner x.remFab addr with
    | some o => post o.core (outTag s o)
    | none => post 0 0
  else if c < 128 && ownerOfCore s c == some x.owner then post c (tagOnCore s c)
  else post (c % 128) 0

/-- A new WAKE packet: result 0 satisfied, 1 ORPHANED or discarded, 2 refused. -/
def newWake (pkt : Packet) (q : Nat) (x : Qp) (b : Bytes) (s : State) : State :=
  let addr := fieldNat b 0 4
  let result := fieldNat b 4 1
  let c := fieldNat b 12 1
  let s := noteAck q (takePsn q pkt.hdr.psn s)
  let mine := c < 128 && ownerOfCore s c == some x.owner && (coreOf s c).remoteWait.isSome &&
    sget 0 (coreOf s c).remote q = fieldNat b 16 4
  if result = 0 then (if mine then endRemoteWait c s else s)
  else if result = 1 then
    (if mine then orphanOp c addr s else reportDiscard x addr c (fieldNat b 16 4) s)
  else if mine then knotRefuse c addr 0 1 s
  else s

/-- WAKE. -/
def doWake (pkt : Packet) (s : State) : State :=
  if pkt.hdr.op ≠ 0x05 then badOpcode pkt s else afterPkt pkt.hdr.dstQp.toNat (receive true pkt (newWake pkt) s)

/-! ### QP ring records (R270) -/

/-- Fields of a slot's software part (Table 12.1). -/
structure QpSoft where
  magic : Nat
  kind : Nat
  key : Nat
  fab : Nat
  qp : Nat
  ring : Nat
  entries : Nat
  post : Word32
  done : Word32
deriving DecidableEq, Repr

def qpSoft (s : State) (p q : Nat) : QpSoft :=
  let b := readBytes s (qpTable s p q) 64
  { magic := fieldNat b 0 4, kind := fieldNat b 4 1, key := fieldNat b 5 1 % 16, fab := fieldNat b 8 1
    qp := fieldNat b 10 2 % 4096, ring := fieldNat b 16 8, entries := fieldNat b 24 4
    post := BitVec.ofNat 32 (fieldNat b 28 4), done := BitVec.ofNat 32 (fieldNat b 32 4) }

/-- Cause of event 0x3204 for a create. -/
def qpCause (s : State) (p q : Nat) (w : QpSoft) : Option Nat :=
  if 4096 ≤ q || (qpOf s q).st ≠ .free then some 1
  else if !inOwnCrown s p (qpTable s p q) 1024 || w.magic ≠ 0x5051_4A47 || w.kind = 0 || 2 < w.kind then some 2
  else if odGet s 0x3100 3 ≤ w.fab then some 3
  else if w.kind = 2 && s.qps.any (fun e => e.2.st ≠ .free && e.2.control && e.2.owner = p && e.2.remFab = w.fab) then some 4
  else if secure s p && (sget {} (panelOf s p).keys w.key).purpose ≠ 2 then some 5
  else if w.kind = 1 && (!inOwnCrown s p w.ring (32 * w.entries) || w.ring % 32 ≠ 0 || !powerOfTwo w.entries || 65536 < w.entries)
    then some 6
  else if !ownKnot s p w.post || !ownKnot s p w.done then some 7
  else none

/-- A core's counts on QP q start at 0 again (R283). -/
def clearCounts (q : Nat) (s : State) : State :=
  { s with cores := s.cores.map fun e => (e.1, { e.2 with remote := sset 0 e.2.remote q 0 }) }

/-- The context of a READY QP whose sequence state is at its start. -/
def freshQp (p : Nat) (w : QpSoft) : Qp :=
  { st := .ready, control := w.kind = 2, owner := p, keySlot := w.key, remFab := w.fab, remQp := w.qp
    ring := if w.kind = 1 then w.ring else 0, entries := if w.kind = 1 then w.entries else 0, postKnot := w.post
    doneKnot := w.done }

def postQp (c : Rec) (cause : Nat) (s : State) : State :=
  postPanel c.p 0x3204 c.hub (c.field 10 2 % 4096 + 2 ^ 16 * cause) 0 (doneRec c 2 0x3204 s)

def qpRec (op : Nat) (c : Rec) : Bool := c.type == 0x22 && c.field 8 1 == op

def doQpCreate (h r : Nat) (s : State) : State :=
  withRec h r (fun c => c.type == 0x22 && c.field 8 1 != 2 && c.field 8 1 != 3) (fun c s =>
    let q := c.field 10 2
    let w := qpSoft s c.p q
    if c.field 8 1 ≠ 1 then doneRec c 2 0 s
    else
      match qpCause s c.p q w with
      | some cause => postQp c cause s
      | none =>
        let s := storeBytes (qpTable s c.p q + 64) (List.replicate 960 0) s
        let s := touchQp q (clearCounts q (updQp q (fun _ => freshQp c.p w) s))
        doneRec c 0 0 s) s

/-- Receive entries that are posted and not yet complete take status 2. -/
def failEntries (x : Qp) (s : State) : State :=
  if x.entries = 0 then s
  else
    let n := (BitVec.ofNat 32 (knotOf s (knotAt x.postKnot)).value.toNat - x.rxPrefix).toNat
    (List.range (if 2 ^ 31 ≤ n then 0 else min n x.entries)).foldl (fun s i =>
      let m := x.rxPrefix + BitVec.ofNat 32 i
      if x.rxDone.contains m then s else setRecvStatus x m.toNat 2 s) s

/-- What destroy and reset share. -/
def stopQp (q : Nat) (s : State) : State :=
  let x := qpOf s q
  let out := (x.unacked ++ x.waiting).filter (·.ofSend)
  let first := match out with
    | o :: _ => some (o.pkt.hdr.msg.toNat + 2 ^ 32 * o.pkt.hdr.psn.toNat)
    | [] => s.cores.findSome? fun e => (e.2.moves.find? (·.gathersFor q)).bind fun m => m.send.map (·.msg.toNat)
  let s := endSends q 0x3201 s
  let s := match first with
    | none => s
    | some b => postPanel x.owner 0x3201 (qpBlock q) (q + 2 ^ 16 * 5) b s
  let s := failEntries x s
  let s := { s with waiters := s.waiters.filter fun w => !(w.fab.isSome && w.qp = q) }
  clearCounts q (storeBytes (qpTable s x.owner q + 64) (List.replicate 960 0) s)

/-- QP q is FREE again. -/
def destroyQp (q : Nat) (s : State) : State :=
  let s := stopQp q s
  { updQp q (fun _ => {}) s with cacheOrder := s.cacheOrder.filter (· != q) }

/-- QP q is READY again. -/
def resetQp (q : Nat) (s : State) : State :=
  let x := qpOf s q
  updQp q (fun y => { st := .ready, control := x.control, owner := x.owner, keySlot := x.keySlot, remFab := x.remFab
                      remQp := x.remQp, ring := x.ring, entries := x.entries, postKnot := x.postKnot, doneKnot := x.doneKnot
                      cached := y.cached, restoring := y.restoring, byHost := y.byHost }) (stopQp q s)

/-- Destroy and reset act on a QP of the panel. -/
def doQpRec (h r op : Nat) (f : Nat → State → State) (s : State) : State :=
  withRec h r (qpRec op) (fun c s =>
    let q := c.field 10 2
    if 4096 ≤ q || (qpOf s q).st = .free || (qpOf s q).owner ≠ c.p then postQp c 1 s
    else pumpCores c.p (doneRec c 0 0 (f q s))) s

def doQpDestroy (h r : Nat) (s : State) : State := doQpRec h r 2 destroyQp s
def doQpReset (h r : Nat) (s : State) : State := doQpRec h r 3 resetQp s

/-- Destroy every QP of a panel (R270). -/
def destroyQps (p : Nat) (s : State) : State :=
  ((s.qps.filter fun e => e.2.st ≠ .free && e.2.owner = p).map (·.1)).foldl (fun s q => destroyQp q s) s

end Sys2Proof.Machine
end

