-- ==== Sys2Proof/Machine/Panels.lean ====
section
/-! DEFINITION. Panels (R215–R225, R241, R362): opening, the region table as a host writes it, release with its scrub, and
reset. -/
namespace Sys2Proof.Machine

/-! ### The region table (R221–R224) -/

def updRegion (p i : Nat) (f : Region → Region) (s : State) : State :=
  updPanel p (fun x => { x with regions := smod {} x.regions i f }) s

/-- Entries 0–31 that the hub writes at an open. -/
def hubEntries (s : State) (p : Nat) : Sparse Region :=
  let w := worldByte s p
  let l := ((List.range 16).filter fun g => bitOf (panelGroups s p) g).foldl (fun l g =>
    sset {} l g (hubEntry 1 3 w (g * stackSize) fwOffset)) []
  ((List.range 16).filter fun i => bitOf (panelWindows s p) i).foldl (fun l i =>
    sset {} l (16 + i) (hubEntry 3 2 w (hostBase + i / 4 * 2 ^ 43 + i % 4 * 2 ^ 41) (2 ^ 41))) l

/-- The entry that the 30 host-written bytes spell (Table 10.3). -/
def parseRegion (raw : Bytes) : Region :=
  { base := fieldNat raw 0 6, limit := fieldNat raw 8 6, kind := fieldNat raw 16 1, rights := raw.getD 17 0
    world := raw.getD 18 0, peer := fieldNat raw 19 1, rootMode := raw.getD 20 0, ctrBase := fieldNat raw 24 6, raw := raw }

/-- Bits that Table 10.3 gives as zero. -/
def regionReserved (s : State) (p : Nat) (raw : Bytes) (valid : Byte) : Bool :=
  let r := parseRegion raw
  fieldNat raw 6 2 ≠ 0 || fieldNat raw 14 2 ≠ 0 || 4 ≤ r.rights.toNat || fieldNat raw 21 3 ≠ 0 || 2 ≤ valid.toNat ||
    1 < r.rootMode.toNat || (r.rootMode ≠ 0 && !(r.kind = 2 && secure s p))

/-- Kinds that a panel's host may write (Table 10.1, R221). -/
def kindAllowed (s : State) (p kind : Nat) : Bool :=
  match kind with
  | 1 => true
  | 2 => panelKind s p ≠ 2
  | 3 => true
  | 4 => panelKind s p = 1
  | 5 => panelKind s p = 2
  | _ => false

/-- Does [a, a + n) lie in one CROWN hub entry of panel p. -/
def inHubCrown (s : State) (p a n : Nat) : Bool := inOwnCrown s p a n

/-- Bytes that the ROOT entries of a panel take of its limit: with the tag areas for a secure panel (R151). -/
def rootUsed (s : State) (p : Nat) (r : Region) : Nat :=
  let size (e : Region) : Nat := e.limit + 1 - e.base
  let total := (panelOf s p).regions.foldl (fun n e => if e.2.valid && e.2.kind == 2 then n + size e.2 else n) (size r)
  if secure s p then total * 33 / 32 else total

/-- Smallest usable capacity of the four ports (R148). -/
def stripeCap (s : State) : Nat :=
  (List.range 4).foldl (fun n x => min n (rootPort s x).capacity) 0x0400_0000_0000

/-- Does [a, a + n) lie in a Root port that panel p owns, or in the stripe set. -/
def inOwnRoot (s : State) (p a n : Nat) : Bool :=
  rootBase ≤ a && 0 < n &&
  (if s.root.mode = 0 then
    let x := (a - rootBase) / 0x0400_0000_0000
    x < 4 && bitOf (panelRoots s p) x && a + n ≤ portBase x + min (rootPort s x).capacity 0x0400_0000_0000
   else panelRoots s p = 15 && a + n ≤ rootBase + 3 * stripeCap s)

/-- Where firmware places the tag area of a secure ROOT entry: at the highest free addresses of its port or stripe set, below
every tag area and entry there (R151, R236); none when there is no room. -/
def tagPlace (s : State) (p : Nat) (r : Region) : Option Nat :=
  let x := (r.base - rootBase) / 0x0400_0000_0000
  let lo := if s.root.mode = 0 then portBase x else rootBase
  let top := if s.root.mode = 0 then portBase x + min (rootPort s x).capacity 0x0400_0000_0000 else rootBase + 3 * stripeCap s
  let used : List (Nat × Nat) := (r.base, r.limit + 1 - r.base) ::
    (panelOf s p).regions.flatMap fun e =>
      if e.2.valid && e.2.kind == 2 then [(e.2.base, e.2.limit + 1 - e.2.base), (e.2.tagBase, e.2.tagBytes)] else []
  ((top :: used.map (·.1)).map fun t => (t - r.tagBytes) / 256 * 256).foldl (fun best a =>
    if lo ≤ a && a + r.tagBytes ≤ top && used.all (fun u => !overlap a r.tagBytes u.1 u.2) &&
        (match best with | some b => decide (b < a) | none => true) then some a else best) none

/-- The quota of R155: owned stacks, owned ports and the Root limit, and a member's stack for a publication grant. -/
def quotaBad (s : State) (p : Nat) (r : Region) : Bool :=
  let n := r.limit + 1 - r.base
  match r.kind with
  | 2 => !inOwnRoot s p r.base n || odGet s 0x2606 (p + 1) < rootUsed s p r || anySanitizing s ||
      (secure s p && (tagPlace s p r).isNone)
  | 3 => !(List.range 16).any fun i => bitOf (panelWindows s p) i &&
      within r.base n (hostBase + i / 4 * 2 ^ 43 + i % 4 * 2 ^ 41) (hostBase + i / 4 * 2 ^ 43 + i % 4 * 2 ^ 41 + 2 ^ 41 - 1)
  | 4 => !(List.range 16).any fun q => panelLive s q && panelKind s q = 2 && inHubCrown s q r.base n
  | _ => !inHubCrown s p r.base n

/-- Does the entry overlap one of the table that is not its own, a MIRROR apart within a CROWN hub entry (R223). -/
def overlapBad (s : State) (p i : Nat) (r : Region) : Bool :=
  (panelOf s p).regions.any fun e => e.1 ≠ i && e.2.valid && !(r.kind = 5 && e.1 < 16) &&
    overlap r.base (r.limit + 1 - r.base) e.2.base (e.2.limit + 1 - e.2.base)

def peerBad (s : State) (r : Region) : Bool :=
  match r.kind with
  | 4 => !(panelLive s r.peer && panelKind s r.peer = 2 && inHubCrown s r.peer r.base (r.limit + 1 - r.base))
  | 5 => commonPanel s ≠ some r.peer
  | _ => r.peer ≠ 0

/-- The counter area of a full-mode ROOT entry (R222). -/
def counterBad (s : State) (p : Nat) (r : Region) : Bool :=
  if r.kind = 2 && r.rootMode = 1 && secure s p then
    let n := (r.limit + 1 - r.base) / 1024
    r.ctrBase % 4096 ≠ 0 || !inOwnCrown s p r.ctrBase n ||
    (s.panels.any fun q => q.2.regions.any fun e => e.2.valid && e.2.kind == 2 && e.2.rootMode == 1 &&
      overlap r.ctrBase n e.2.ctrBase ((e.2.limit + 1 - e.2.base) / 1024)) ||
    (s.seam.armed && (overlap r.ctrBase n (seamArea s) (stagingSize s) ||
      overlap r.ctrBase n (releaseBase s) (0x1_0000 + seamSlots s * slotBytes s)))
  else r.ctrBase ≠ 0

/-- Status of an entry (R222): 0 accepted, else the lowest-numbered cause that applies (R413). -/
def regionStatus (s : State) (p i : Nat) (raw : Bytes) (valid : Byte) : Nat :=
  let r := parseRegion raw
  if r.base % 4096 ≠ 0 || r.limit % 4096 ≠ 4095 || r.limit < r.base then 1
  else if !kindAllowed s p r.kind then 2
  else if quotaBad s p r then 3
  else if overlapBad s p i r then 4
  else if r.world ≠ worldByte s p then 5
  else if peerBad s r then 6
  else if counterBad s p r then 7
  else if regionReserved s p raw valid then 8
  else 0

/-- Write of 1 (or of a byte with bit 0 set) to VALID of a host entry. -/
def validateEntry (p i : Nat) (valid : Byte) (s : State) : State :=
  let e := sget {} (panelOf s p).regions i
  if i < 48 || 256 ≤ i || e.valid || (panelOf s p).st ≠ .open then s
  else
    let raw := padTo 30 e.raw
    let st := regionStatus s p i raw valid
    if st = 0 then
      let r := parseRegion raw
      let tags := if r.kind = 2 && secure s p then (tagPlace s p r).getD 0 else 0
      updRegion p i (fun _ => { r with valid := true, tagBase := tags }) s
    else updRegion p i (fun e => { e with status := BitVec.ofNat 8 st }) s

/-- Write of 0 to VALID of a host entry. -/
def revokeEntry (p i : Nat) (s : State) : State :=
  if i < 48 || 256 ≤ i || !(sget {} (panelOf s p).regions i).valid then s
  else updRegion p i (fun e => { e with valid := false }) s

def doRegionValidate (h w i : Nat) (s : State) : State :=
  match ownerOfSlot s h w with
  | some p => validateEntry p i 1 s
  | none => s

def doRegionRevoke (h w i : Nat) (s : State) : State :=
  match ownerOfSlot s h w with
  | some p => revokeEntry p i s
  | none => s

/-- One byte that a host writes at offset o of panel p's control page (R220, R222). -/
def ctlByte (p : Nat) (s : State) (e : Nat × Byte) : State :=
  let i := e.1 / 32
  let b := e.1 % 32
  if i < 48 || 256 ≤ i || b = 30 then s
  else if b = 31 then (if e.2.getLsbD 0 then validateEntry p i e.2 s else revokeEntry p i s)
  else if (sget {} (panelOf s p).regions i).valid then s
  else updRegion p i (fun r => { r with raw := patch (padTo 30 r.raw) b [e.2] }) s

/-- A host write to panel p's control page. -/
def ctlWrite (p o : Nat) (d : Bytes) (s : State) : State := (d.zipIdx o).foldl (fun s e => ctlByte p s (e.2, e.1)) s

/-! ### Opening (R217) -/

def openPanels (s : State) (p : Nat) : List Nat := (List.range 16).filter fun q => q ≠ p && panelLive s q

/-- Do two resource masks share a bit. -/
def maskShare (a b : Nat) : Bool := a &&& b ≠ 0

/-- Slots of port h in a window mask. -/
def portSlots (m h : Nat) : Nat := m / 16 ^ h % 16

/-- Cause of event 0x3002. -/
def openCause (s : State) (p : Nat) : Option Nat :=
  let k := panelKind s p
  let qs := openPanels s p
  let g := panelGroups s p
  let w := panelWindows s p
  let r := panelRoots s p
  if k = 0 || 3 < k || (k = 1 && qs.any fun q => panelKind s q = 1) then some 1
  else if g = 0 || qs.any (fun q => maskShare g (panelGroups s q)) then some 2
  else if (List.range 4).any (fun t => panelWays s p / 2 ^ (16 * t) % 2 ^ 16 ≠ 0 && g / 16 ^ t % 16 = 0) ||
      qs.any (fun q => maskShare (panelWays s p) (panelWays s q)) then some 3
  else if (r ≠ 0 && k = 2) || qs.any (fun q => maskShare r (panelRoots s q)) || (s.root.mode ≠ 0 && r ≠ 0 && r ≠ 15) then some 4
  else if qs.any (fun q => maskShare w (panelWindows s q) || (List.range 4).any fun h =>
      portSlots w h ≠ 0 && portSlots (panelWindows s q) h ≠ 0 && (k = 2 || panelKind s q = 2)) then some 5
  else if 64 < qs.foldl (fun n q => n + odGet s (panelIdx q 0) 6) (odGet s (panelIdx p 0) 6) then some 6
  else none

/-- A fresh ML-KEM key pair for a secure panel. -/
def drawKem (p : Nat) (s : State) : State :=
  if !secure s p then updPanel p (fun x => { x with kemPub := [], kemPriv := [] }) s
  else
    let (priv, s) := drawBytes 64 s
    updPanel p (fun x => { x with kemPriv := priv, kemPub := (List.range 1568).map (Config.kemPublicByte priv) }) s

/-- A write of 1 to `panel.command`. A check that fails leaves the panel FREE; the command itself was accepted. -/
def writeOpen (p : Nat) (s : State) : Nat × State :=
  if (panelOf s p).st ≠ .free then (0x08, s)
  else
    match openCause s p with
    | some cause => (0, postMgmt p 0x3002 (panelHub s p) p cause s)
    | none =>
      let s := updPanel p (fun x => { st := .open, epochs := x.epochs, regions := hubEntries s p }) s
      let s := drawKem p (drawRootKeys p s)
      let s := (panelCores s p).foldl (fun s c => updCore c (fun x => { x with phaseSince := s.time }) s) s
      (0, clearStatusPage p (clearRestoreKnots p s))

/-! ### What reset and release share -/

/-- Zero a core but for the marks that its hardware carries (R362 step 7). It counts as idle from now on (R129). -/
def zeroCore (s : State) (c : Nat) : State :=
  setCore c { failed := (coreOf s c).failed, awaitHost := (coreOf s c).awaitHost, lost := (coreOf s c).lost
              phaseSince := s.time } (heal (privBase c) 0x11_0800 (heal (privBase c + 0x11_0800) (16 * imageSize) s))

/-- Stores (the spare's too), banks, needle stores and function slots of panel p's cores become zero. -/
def zeroCores (p : Nat) (s : State) : State :=
  let gs := (List.range 16).filter fun g => bitOf (panelGroups s p) g
  let s := gs.foldl (fun s g => scrub (storeBase + 9 * g * slotSize) (9 * slotSize) s) s
  (panelCores s p).foldl zeroCore s

/-- Zero and disable the slot and ring blocks of panel p's window slots (R362 step 8). -/
def zeroBlocks (p : Nat) (s : State) : State :=
  ((List.range 16).filter fun i => bitOf (panelWindows s p) i).foldl (fun s i =>
    let h := i / 4
    let w := i % 4
    let s := dropCache h w (fun _ => true) (updSlot h w (fun _ => {}) s)
    let s := updPort h (fun x => { x with held := x.held.filter fun d => d.ring / 16 ≠ w }) s
    (List.range 16).foldl (fun s j => updRing h (16 * w + j) (fun _ => {}) s) s) s

/-- Is subindex `sub` of row r the panel's (R169, R189): one of sixteen, or one of four per panel. -/
def panelSub (r : OdRow) (p sub : Nat) : Bool :=
  (r.first = 1 && r.last = 16 && sub = p + 1) || (r.first = 1 && r.last = 64 && (sub - 1) / 4 = p)

/-- Is an entry one of panel p's own: in its block, a subindex of its own, or the seam's when p is the common panel. -/
def panelEntry (s : State) (p k : Nat) : Bool :=
  let index := k / 256
  if index / 0x1000 = 4 then index / 256 % 16 = p
  else if index = 0x3001 then panelKind s p = 1
  else match odRow index (k % 256) with
    | some r => panelSub r p (k % 256)
    | none => false

def classOf (k : Nat) : Option OdClass := (odRow (k / 256) (k % 256)).map (·.cls)

/-- P and V entries of panel p return to their defaults. -/
def defaultPanelEntries (p : Nat) (s : State) : State :=
  { s with od := s.od.filter fun e => !(panelEntry s p e.1 && (classOf e.1 == some .p || classOf e.1 == some .v)) }

/-- The resident model is dropped when panel p owns it. -/
def dropModel (p : Nat) (s : State) : State :=
  if s.model.owner = some p then { s with model := {} } else s

/-- Table slots and graft IDs of panel p are released. -/
def releaseShared (p : Nat) (s : State) : State :=
  let s := ((s.tables.filter fun e => e.2.owner = some p).map (·.1)).foldl (fun s n => freeTable n s) s
  { s with
    tableQ := s.tableQ.filter fun e => e.2.panel ≠ p
    tables := s.tables.map fun e => (e.1, { e.2 with jobs := e.2.jobs.filter fun j => j.panel ≠ p })
    grafts := s.grafts.filter fun g => g.2.1 ≠ p }

/-- A member leaves the seam; the common panel disarms it. -/
def seamGone (p : Nat) (s : State) : State :=
  let s := { s with seam := { s.seam with inbox := s.seam.inbox.filter (·.1 != p) } }
  if panelKind s p = 1 then disarmSeam s else leaveSeam p s

/-! ### Release (R241) -/

/-- A write of 2 to `panel.command`. The knots are poisoned before the queue pairs go, so that waiters of other devices are told
(R202, item 1). -/
def writeRelease (p : Nat) (s : State) : Nat × State :=
  if (panelOf s p).st ≠ .open then (0x08, s)
  else
    let s := updPanel p (fun x => { x with st := .releasing, streamer := none }) s
    let s := ((s.kernels.filter (·.panel == p)).map (·.kid)).foldl (killKernel 0) s
    let s := seamGone p (abandonSnap p s)
    let s := destroyQps p (poisonCores (panelCores s p) s)
    let s := updPanel p (fun x => { x with regions := x.regions.map fun e => (e.1, { e.2 with valid := false }) }) s
    (0, { s with panels := s.panels.map fun q => (q.1, { q.2 with regions := q.2.regions.map fun e =>
        if e.2.kind = 4 && e.2.peer = p then (e.1, { e.2 with valid := false }) else e }) })

/-- PANEL_SCRUB_COMPLETE: everything of Table 10.9 is done, and the panel is FREE. -/
def doScrubComplete (p ms : Nat) (s : State) : State :=
  if (panelOf s p).st ≠ .releasing then s
  else
    let gs := (List.range 16).filter fun g => bitOf (panelGroups s p) g
    let s := dropModel p (releaseShared p (dropKernels p s))
    let s := poisonCores (panelCores s p) s
    let s := zeroCores p s
    let s := gs.foldl (fun s g => scrub (g * stackSize) fwOffset s) s
    let s := (List.range 4).foldl (fun s t => (directWays s p t).foldl (fun s w => scrub (wayBase t w) 0x30_0000 s) s) s
    let s := { s with tb := s.tb.filter fun l => !tbOfPanel s p l, restores := s.restores.filter (·.panel != p) }
    let s := zeroBlocks p s
    let s := dropRootKeys p (clearStatusPage p s)
    odPut (panelIdx p 0) 9 ms (updPanel p (fun x => { epochs := x.epochs }) s)

/-! ### Reset of a panel (R362) -/

def hubRegions (x : Panel) : Sparse Region := x.regions.filter (·.1 < 48)

/-- R362 without its event. With its restore knots at 0 the panel has no restore pending any more (DEDUCED). -/
def resetPanel (p : Nat) (s : State) : State :=
  let s := dropKernels p s
  let s := updPanel p (fun x => { x with streamer := none }) (abandonSnap p s)
  let s := seamGone p (releaseShared p s)
  let s := clearRestoreKnots p (destroyQps p (poisonCores (panelCores s p) s))
  let s := { s with restores := s.restores.filter (·.panel != p) }
  let s := zeroBlocks p (zeroCores p s)
  let s := updPanel p (fun x =>
    { st := x.st, regions := hubRegions x, epochs := x.epochs, rootXts := x.rootXts, rootTag := x.rootTag
      quiesced := x.quiesced }) s
  let s := clearStatusPage p (drawKem p s)
  dropModel p (defaultPanelEntries p s)

/-- A write of 1 to `startup.panel_reset` of panel p. A panel that is not OPEN has nothing to reset. -/
def writePanelReset (p v : Nat) (s : State) : Nat × State :=
  if 1 < v then (0x06, s)
  else if v = 0 then (0, s)
  else if (panelOf s p).st ≠ .open then (0x08, s)
  else (0, pumpAll (postBoth p 0x1804 (panelHub s p) p 1 (resetPanel p s)))

end Sys2Proof.Machine
end

