-- ==== Sys2Proof/Machine/Waits.lean ====
section
/-! DEFINITION. The watchdog of waits (R201), knot grant lists (R196) and the sampling of spools (R205, Table 9.7). -/
namespace Sys2Proof.Machine

/-! ### Waits (R201) -/

/-- A wait as event 0x2801 names it: its entry in the queue, knot address, mode and spool. -/
structure WaitInfo where
  pos : Nat
  opcode : Nat
  knot : Nat
  mode : Nat
  spool : Nat
deriving DecidableEq, Repr

/-- Mode and spool of a wait operation. -/
def waitForm (i : Instr) : Nat × Nat :=
  match i with
  | .spaceWait _ _ n _ => (2, n.toNat)
  | .dataWait _ _ n _ => (3, n.toNat)
  | .kwaitge _ _ f => (f.mode.toNat, if 2 ≤ f.mode.toNat then f.reg.toNat else 0)
  | .kwaiteq _ _ f => (f.mode.toNat, 0)
  | .karrive _ _ f => (f.mode.toNat, 0)
  | _ => (0, 0)

/-- Knot that a remote wait names. -/
def remoteTarget (s : State) (c : Nat) (i : Instr) : Nat :=
  match i with
  | .kwaitge _ _ f => (shiftKnotOn s c f.knot).toNat
  | .kwaiteq _ _ f => (shiftKnotOn s c f.knot).toNat
  | .karrive _ _ f => (shiftKnotOn s c f.knot).toNat
  | _ => 0

/-- Does an operation wait for its scale under R60. -/
def waitsScale (s : State) (c p : Nat) (x : Core) (e : QEntry) : Bool :=
  let gate (foot : Bool) (ca : BitVec 24) (rows len : Nat) : ConvGate :=
    if (badOperand [(caAddr x ca, 32)]).isSome then .go
    else convGate s p c x e.idx foot (convDesc (storeRead s c (caAddr x ca) 32)) rows len
  match e.cmd with
  | .drain _ _ f =>
    let b := rowPlace f.target.toNat f.base.toNat 0
    f.dest = 0 && (0 < e.got.length || drainable x f.target.toNat f.base.toNat e.seq 0) &&
      gate true f.desc (f.rows1.toNat + 1) (rowInfo x b.1 b.2).width = .wait
  | .vcvt _ _ f => gate false f.b (f.rows1.toNat + 1) (f.len1.toNat + 1) = .wait
  | .vopt _ _ _ a => emitGate s c p x e.idx (updDesc (storeRead s c (caAddr x a) 128)) = .wait
  | _ => false

/-- A FUSE row that its LAST pass has written and whose needle contribution has not come, or an NGRAFT2 that does not get to
make one (R41). -/
def waitsNeedle (s : State) (c p : Nat) (x : Core) : Bool :=
  (x.arrays.any fun a => a.2.rows.any fun r => r.2.fuse) ||
    match (queueAt x 8).entries with
    | e :: _ => !e.started && opcodeOf e.cmd = 0x1B && depMet x e.depQ e.need && startOp c p { x with areg := e.areg } e s = .hold
    | [] => false

/-- The wait of queue q of core c: a knot wait, a conversion waiting under R60, a parked consumer, or a FUSE row's wait for the
needle, which is that of queue 8. The built-in kernel of a collective waits for its members on its worker core, where it stands
for queue 12 (DESIGN CHOICE: the event names no operation and no knot then). -/
def waitOf (s : State) (c q : Nat) : Option WaitInfo :=
  let x := coreOf s c
  let es := (queueAt x q).entries
  match kernelOnCore s c with
  | none => none
  | some k =>
    if q = 12 then
      match es with
      | e :: _ =>
        if e.started && !e.ready && isKnotWait e.cmd then
          let knot := match s.waiters.find? fun w => w.fab.isNone && w.core == c with
            | some w => knotAddr s w.knot
            | none => remoteTarget s c e.cmd
          some ⟨0, opcodeOf e.cmd, knot, (waitForm e.cmd).1, (waitForm e.cmd).2⟩
        else none
      | [] => if k.phase = .running && s.colls.any (·.kid == k.kid) then some ⟨0, 0, 0, 0, 0⟩ else none
    else if q = 11 then
      match es.findIdx? fun e => e.started && x.moves.any fun m => m.id == e.move && m.parked.isSome with
      | some i => some ⟨i, opcodeOf ((es[i]?.map (·.cmd)).getD (.nop 0 ⟨0, 0⟩)), 0, 0, 0⟩
      | none => none
    else if q = 8 then (if waitsNeedle s c k.panel x then some ⟨16, 0x1B, 0, 0, 0⟩ else none)
    else
      match es with
      | e :: _ =>
        if !e.started && depMet x e.depQ e.need && waitsScale s c k.panel { x with areg := e.areg } e then
          some ⟨0, opcodeOf e.cmd, 0, 0, 0⟩
        else none
      | [] => none

/-- Some wait of a kernel is outstanding. -/
def kernelWaits (s : State) (kid : Nat) : Bool :=
  (coresOf s kid).any fun c => (List.range 13).any fun q => (waitOf s c q).isSome

/-- A wait that a restore keeps waiting ends with the kernel that its expiry or the panel's host aborts: "a wait that can never be
satisfied therefore always ends by the watchdog or by the host" (R201). A MOVE parked when its kernel is aborted otherwise runs to
retirement (R74). DEDUCED -/
def endParked (kid : Nat) (s : State) : State :=
  (coresOf s kid).foldl (fun s c => updCore c (fun x =>
    { x with moves := x.moves.map fun m => if m.parked.isSome then { m with done := true } else m }) s) s

/-- WATCHDOG_EXPIRY. -/
def doWatchdog (c q : Nat) (s : State) : State :=
  match waitOf s c q, kernelOnCore s c with
  | some w, some k =>
    let n := (((queueAt (coreOf s c) q).entries[w.pos]?.map (·.expiries)).getD (sget 0 (coreOf s c).expiries q)) + 1
    let s := updQueue c q (fun y => { y with entries := y.entries.modify w.pos fun e => { e with expiries := n } })
      (updCore c (fun x => { x with expiries := sset 0 x.expiries q n }) s)
    let s := postPanel k.panel 0x2801 (coreBlock s c)
      (w.knot + 2 ^ 32 * w.opcode + 2 ^ 40 * w.mode + 2 ^ 42 * w.spool) (k.tag.toNat + 2 ^ 32 * n) (odCount 0x2807 4 1 s)
    if odGet s 0x2800 1 = 0 then endParked k.kid (abortKernel k.kid 0x2801 s) else s
  | _, _ => s

/-- Write of `knots.wait_abort`: every waiting kernel of the panel with that tag; a tag not waiting is ignored. -/
def writeWaitAbort (p : Nat) (tag : Word32) (s : State) : Nat × State :=
  (0, ((s.kernels.filter fun k => k.panel == p && k.tag == tag && kernelWaits s k.kid).map (·.kid)).foldl
    (fun s kid => endParked kid (abortKernel kid 0x2801 s)) s)

/-! ### Grant lists (R196) -/

/-- Is an entry of a list that panel p writes allowed. -/
def grantEntryOk (s : State) (p e : Nat) : Bool :=
  let a := BitVec.ofNat 32 e
  e = 0 || (e < 2 ^ 51 && a ≠ 0 && ownKnot s p a && !isRestoreKnot s (knotAt a) &&
    (List.range 16).all fun q => !bitOf e (32 + q) || !panelLive s q || secure s q == secure s p)

/-- Write of `knots.grants`. -/
def writeGrants (p : Nat) (data : Bytes) (s : State) : Nat × State :=
  if data.length ≠ 512 then (0x07, s)
  else
    let es := (List.range 64).map fun i => fieldNat data (8 * i) 8
    if es.all (grantEntryOk s p) then
      (0, updPanel p (fun x => { x with grants := es.zipIdx.foldl (fun m e => sset 0 m e.2 (BitVec.ofNat 64 e.1)) [] }) s)
    else (0x06, s)

/-- The list as it reads. -/
def grantBytes (s : State) (p : Nat) : Bytes :=
  (List.range 64).flatMap fun i => toLe 8 (sget 0 (panelOf s p).grants i).toNat

/-! ### Spool sampling (Table 9.7) -/

/-- SPOOL_OCCUPANCY_SAMPLE: the sum of P − F and the number of samples go on. -/
def doSpoolSample (p n : Nat) (s : State) : State :=
  if 64 ≤ n || !panelOpen s p || !spoolOk s p n then s
  else
    let r := spoolRec s p n
    let occ := (knotOf s (knotAt r.pKnot)).value.toNat - (knotOf s (knotAt r.cKnot)).value.toNat
    let a := spoolAddr s p n
    storeBytes (a + 72) (toLe 8 (readNat s (a + 72) 8 + occ) ++ toLe 8 (readNat s (a + 80) 8 + 1)) (markHigh s p n)

end Sys2Proof.Machine
end

