-- ==== Sys2Proof/Machine/Keys.lean ====
section
/-! DEFINITION. Key slots (R237, R238) and attestation (R240). -/
namespace Sys2Proof.Machine

/-- The security controller that acts for panel p: that of the tile of its lowest core group. -/
def secBlock (s : State) (p : Nat) : Nat := 0xC000 + lowGroup s p / 4

/-! ### Key slots (R238) -/

/-- A key request is refused with event 0x3007. -/
def keyRefuse (p slot purpose cause code : Nat) (s : State) : Nat × State :=
  (code, postPanel p 0x3007 (secBlock s p) (slot + 2 ^ 8 * purpose) cause s)

/-- Put a key into a slot. A LINK install first raises the slot's epoch (R237); a QP's later packets use the new key. -/
def installKey (p slot purpose : Nat) (key : Bytes) (s : State) : State :=
  updPanel p (fun x => { x with
    keys := sset {} x.keys slot { purpose := BitVec.ofNat 8 purpose, key := key, packet := 0 }
    epochs := if purpose = 2 then sset 0 x.epochs slot (sget 0 x.epochs slot + 1) else x.epochs }) s

/-- Checks that both kinds of install share, lowest cause first (R413): slot in use, purpose, length, and the epoch. -/
def keyCause (s : State) (p slot purpose : Nat) (lengthOk unwrapOk : Bool) : Option (Nat × Nat) :=
  if (sget {} (panelOf s p).keys slot).purpose ≠ 0 then some (1, 0x08)
  else if purpose = 0 || 3 < purpose then some (2, 0x06)
  else if !lengthOk then some (3, 0x07)
  else if !unwrapOk then some (4, 0x06)
  else if purpose = 2 && 0xFFFF ≤ sget 0 (panelOf s p).epochs slot then some (5, 0x08)
  else none

/-- Salt of the derivation: the hash of the encapsulation key. -/
def kemSalt (s : State) (p : Nat) : Bytes := sha256 (panelOf s p).kemPub

/-- The slot key of R238 step 4. -/
def slotKey (s : State) (p slot purpose : Nat) (cipher : Bytes) : Bytes :=
  let shared := (List.range 32).map (Config.kemDecapsByte (panelOf s p).kemPriv cipher)
  hkdf32 (kemSalt s p) shared ([0x47, 0x4A, 0x4B, 0x53] ++ toLe 1 p ++ toLe 1 slot ++ toLe 1 purpose)

/-- Write of `panel.key_establish`. -/
def writeKeyEstablish (p : Nat) (data : Bytes) (s : State) : Nat × State :=
  let slot := fieldNat data 0 1
  let purpose := fieldNat data 1 1
  if !(secure s p) || (panelOf s p).st ≠ .open then (0x08, s)
  else if 16 ≤ slot || !allZero ((data.drop 2).take 30) then (0x06, s)
  else
    match keyCause s p slot purpose (data.length = 1600) true with
    | some (cause, code) => keyRefuse p slot purpose cause code s
    | none =>
      let key := slotKey s p slot purpose (data.drop 32)
      (0, updPanel p (fun x => { x with check := (hmac key [1]).take 8 }) (installKey p slot purpose key s))

/-- Write of `panel.key_install`. -/
def writeKeyInstall (p : Nat) (data : Bytes) (s : State) : Nat × State :=
  let slot := fieldNat data 0 1
  let purpose := fieldNat data 1 1
  let wrap := sget {} (panelOf s p).keys (fieldNat data 2 1)
  let key := if fieldNat data 2 1 < 16 && wrap.purpose = 3 then unwrapKey wrap.key (data.drop 8) else none
  if !(secure s p) || (panelOf s p).st ≠ .open then (0x08, s)
  else if 16 ≤ slot || !allZero ((data.drop 3).take 5) then (0x06, s)
  else
    match keyCause s p slot purpose (data.length = 48) key.isSome with
    | some (cause, code) => keyRefuse p slot purpose cause code s
    | none => (0, installKey p slot purpose (key.getD []) s)

/-- `panel.key_slots` as it reads. -/
def keySlotBytes (s : State) (p : Nat) : Bytes := (List.range 16).map fun n => (sget {} (panelOf s p).keys n).purpose

/-! ### Attestation (R240) -/

/-- Number of signatures that a device key allows. -/
def leafLimit : Nat := 2 ^ 25

/-- Write of `attest.nonce` by reader n: one request waits at its place, and a newer nonce replaces an older one. -/
def writeNonce (n : Nat) (data : Bytes) (s : State) : Nat × State :=
  let panel := fieldNat data 32 1
  if data.length ≠ 33 then (0x07, s)
  else if 16 ≤ panel && panel ≠ 0xFF then (0x06, s)
  else if leafLimit ≤ s.attest.leaf then (0x08, postMgmt 0xFF 0x3008 0xC000 s.attest.leaf 0 s)
  else
    (0, { s with attest := { s.attest with
      nonces := sset [] s.attest.nonces n data
      quotes := sset [] s.attest.quotes n []
      waiting := if s.attest.waiting.contains n then s.attest.waiting else s.attest.waiting ++ [n] } })

/-- The 32 bytes of entry e of a region table as the page shows them. -/
def regionBytes (e : Region) : Bytes :=
  let body :=
    if e.raw.isEmpty then
      toLe 8 e.base ++ toLe 8 e.limit ++ toLe 1 e.kind ++ [e.rights, e.world] ++ toLe 1 e.peer ++ [e.rootMode] ++ toLe 3 0 ++
        toLe 6 e.ctrBase
    else padTo 30 e.raw
  body ++ [e.status] ++ toLe 1 e.valid.toNat

/-- Bytes 140–223 of a quote for panel p. -/
def quotePanel (s : State) (p : Nat) : Bytes :=
  toLe 2 (panelGroups s p) ++ toLe 1 (panelRoots s p) ++ [worldByte s p] ++ toLe 8 (panelWays s p) ++
    toLe 2 (panelWindows s p) ++ toLe 6 0 ++ sha256 (padTo 1568 (panelOf s p).kemPub) ++
    sha256 (((panelOf s p).regions.filter (·.2.valid)).flatMap fun e => regionBytes e.2)

def joinedMask (s : State) : Nat := s.seam.members.foldl (fun n m => n ||| 2 ^ m.1) 0

/-- Bytes 0–255 of a quote (Table 10.8). -/
def quoteBody (s : State) (data : Bytes) : Bytes :=
  let p := fieldNat data 32 1
  [0x47, 0x4A, 0x41, 0x51] ++ toLe 2 1 ++ toLe 1 p ++ toLe 1 (if p < 16 then panelKind s p else 0) ++
    (List.range 16).map Config.serial ++ [0xB0] ++ toLe 3 0 ++ toLe 4 (odGet s 0x2200 5) ++
    padTo 32 s.startup.fwHash ++ configDigest s ++ data.take 32 ++ toLe 8 s.time ++ toLe 4 s.attest.leaf ++
    (if p < 16 then quotePanel s p else toLe 84 0) ++ toLe 4 (seamClip s).toNat ++ toLe 4 (seamSigma s).toNat ++
    toLe 1 (minContributors s) ++ toLe 1 (odGet s 0x3001 5) ++ toLe 1 (noiseMode s) ++ toLe 1 s.seam.armed.toNat ++
    toLe 2 (joinedMask s) ++ toLe 18 0

/-- QUOTE_READY: the request at the front is answered; with a leaf index that cannot be stored no quote is released, and with none left
the request is refused. -/
def doQuoteReady (leafOk : Bool) (s : State) : State :=
  match s.attest.waiting with
  | [] => s
  | n :: rest =>
    let s := { s with attest := { s.attest with waiting := rest } }
    if leafLimit ≤ s.attest.leaf then postMgmt 0xFF 0x3008 0xC000 s.attest.leaf 0 s
    else if !leafOk then s
    else
      let b := quoteBody s (sget [] s.attest.nonces n)
      let q := b ++ (List.range 3124).map (Config.hssSignByte s.attest.leaf b)
      { s with attest := { s.attest with leaf := s.attest.leaf + 1, quotes := sset [] s.attest.quotes n q } }

end Sys2Proof.Machine
end

