-- ==== Sys2Proof/Machine/Links.lean ====
section
/-! DEFINITION. What reaches an Ashlink (R245–R268, R372): training, flits with their acknowledgements and credits, replay
and retrain, IDENT, speed changes, packets that come in, forwarding, underruns, the Ethernet mode's frames, and configuration
digests. -/
namespace Sys2Proof.Machine

/-! ### A link that is lost (R253) -/

/-- Packets that a link still owes its partner whole, oldest first: those that end in a flit not acknowledged, and those that wait. -/
def owedPackets (x : Link) : List LinkWait :=
  ((x.replay.flatMap (·.ends)) ++ x.backlog).filter (·.stomp.isNone)

/-- Send a packet on by the channel it is in, with the queue pair or core that chooses its links. -/
def reroute (s : State) (w : LinkWait) : State :=
  if native s then (if w.vc = 1 then sendSprayed (w.src % 4) w.pkt s else sendOrdered w.vc w.src none w.pkt s) else netSend w.src w.pkt s

/-- A link whose partner is gone: sequence state starts anew, and what it owed leaves by other links. -/
def loseLink (l : Nat) (s : State) : State :=
  let ps := owedPackets (linkOf s l)
  let s := updLink l (fun x => { ctStep := x.ctStep, ctPackets := x.ctPackets, ctr := x.ctr, packets := x.packets, out := x.out }) s
  ps.foldl reroute s

/-- The link exchanges flits. -/
def carrying (s : State) (l : Nat) : Bool := l < 24 && linkRuns (linkOf s l)

/-! ### IDENT and the digest (R263–R265) -/

def identMsg (s : State) (l : Nat) : IdentMsg :=
  { fabric := if fabricSet s then BitVec.ofNat 8 (fabricId s) else 0xFF, link := BitVec.ofNat 8 l
    unassigned := !fabricSet s, digest := configDigest s }

def sendIdent (l : Nat) (s : State) : State := sendLinkctl l (.ident (identMsg s l)) s

/-- First of the causes of event 0x3101 that keep link l out of UP; none when both ends agree. An end without a fabric ID shows 0xFF
and is no neighbour. -/
def identCause (s : State) (l : Nat) : Option Nat :=
  let x := linkOf s l
  if x.nbDigest ≠ configDigest s then some 1
  else if !fabricSet s || x.nbFab = 0xFF || x.nbFab.toNat ≠ neighbour s (fabricId s) (l % 6) then some 2
  else if x.nbLink.toNat ≠ (if l % 2 = 0 then l + 1 else l - 1) then some 3
  else none

/-- Set a link's state by its partner's last IDENT. -/
def judgeLink (l : Nat) (s : State) : State :=
  let x := linkOf s l
  match identCause s l with
  | none => retrySprayed (pumpLink l (updLink l (fun x => { x with st := .up }) s))
  | some cause =>
    pumpLink l (postMgmt 0xFF 0x3101 (linkBlock l) (l + 2 ^ 8 * cause) (x.nbFab.toNat + 2 ^ 8 * x.nbLink.toNat)
      (updLink l (fun x => { x with st := .quarantine }) s))

/-- A DIGEST packet to fabric ID f (Table 12.6). -/
def digestPacket (s : State) (f : Nat) : Packet :=
  let b := toLe 4 s.startup.fwVersion.toNat ++ toLe 4 (odGet s 0x2200 5) ++ configDigest s
  { hdr := { ver := 1, cls := 3, op := 0x06, first := true, last := true, trail := false, enc := false, ece := false
             keySlot := 0, panel := 0, dstFab := BitVec.ofNat 8 f, srcFab := BitVec.ofNat 8 (fabricId s), dstQp := 0
             srcQp := 0, len := BitVec.ofNat 16 b.length, psn := 0, msg := 0, off := 0, nonce := 0 }
    ce := false, payload := b, tag := [] }

/-- Does some link carry the management class. -/
def anyLink (s : State) : Bool := (List.range 24).any (linkUp s true)

/-- DIGEST_ANNOUNCE: to every other fabric ID. -/
def doAnnounce (s : State) : State :=
  if !fabricSet s || !anyLink s then s
  else ((List.range (odGet s 0x3100 3)).filter (· ≠ fabricId s)).foldl (fun s f => netSend 0 (digestPacket s f) s) s

/-- Go to the state that an IDENT gives; the first link to carry management announces the digest. -/
def identDone (l : Nat) (s : State) : State :=
  let before := anyLink s
  let s := judgeLink l s
  if before then s else doAnnounce s

/-- An IDENT message. One that shows a new digest of the partner is answered with this end's own (R264). -/
def takeIdent (l : Nat) (m : IdentMsg) (s : State) : State :=
  let x := linkOf s l
  let s := updLink l (fun x => { x with nbFab := if m.unassigned then 0xFF else m.fabric, nbLink := m.link, nbDigest := m.digest }) s
  let s := if x.st ≠ .config && x.nbDigest ≠ m.digest then sendIdent l s else s
  identDone l s

/-- Status byte of Table 11.9 for a digest. -/
def digestStatus (s : State) (value : Bytes) : Byte := if value = configDigest s then 1 else 2

/-- Packets that waited for a quarantined device may go. -/
def pumpLinks (s : State) : State := (List.range 24).foldl (fun s l => pumpLink l s) s

/-- A digest of fabric ID f is known: entry, and in Ethernet mode the device's quarantine. -/
def noteDigest (f : Nat) (value : Bytes) (s : State) : State :=
  let st := digestStatus s value
  let was := (sget [] s.digests f).headD 0
  let s := { s with digests := sset [] s.digests f (st :: value) }
  if st = 2 && was ≠ 2 && !native s then postMgmt 0xFF 0x3101 (linkBlock 0) (0xFF + 2 ^ 8) f s else s

/-- DIGEST: an announcement of its source fabric ID (Table 12.6). A packet with an opcode that the table does not list is counted. -/
def doDigest (p : Packet) (s : State) : State :=
  let f := p.hdr.srcFab.toNat
  if p.hdr.op = 0 || 6 < p.hdr.op.toNat then odCount 0x3206 8 1 s
  else if p.hdr.op ≠ 0x06 || p.payload.length ≠ 40 || p.hdr.dstFab.toNat ≠ fabricId s || f = fabricId s then s
  else pumpLinks (noteDigest f (p.payload.drop 8) s)

/-- The digest or the fabric ID of this module has changed: the table is judged again, every native link exchanges IDENT, and
the digest is announced (R264, R265, R383). -/
def digestChanged (s : State) : State :=
  let s := s.digests.foldl (fun s e => noteDigest e.1 (e.2.drop 1) s) s
  let s := if native s then
      ((List.range 24).filter (carrying s)).foldl (fun s l => sendIdent l s) s
    else s
  pumpLinks (doAnnounce s)

/-! ### Training and loss (R246) -/

/-- The Ashlink complexes have power and have come through calibration (R349, R358). -/
def linksPowered (s : State) : Bool :=
  match s.startup.phase with
  | .off | .held => false
  | .step n => 2 ≤ n
  | .dstate => s.startup.dstate ≠ 3

/-- LINK_PARTNER_DETECT. -/
def doPartner (l : Nat) (s : State) : State :=
  if 24 ≤ l || !linksPowered s || linkDisabled s l || (linkOf s l).st ≠ .down then s
  else updLink l (fun x => { x with st := .training }) s

/-- LINK_TRAINING_DONE: native links go on to CONFIG and send IDENT, an Ethernet link has no such exchange and is UP. -/
def doTrained (l lanes : Nat) (s : State) : State :=
  if 24 ≤ l || (linkOf s l).st ≠ .training then s
  else if lanes = 0 then updLink l (fun x => { x with st := .down, lanes := 0 }) s
  else
    let s := updLink l (fun x => { x with
      st := if native s then .config else .up, lanes := min lanes 2, ctStep := odGet s 0x3100 8, ctPackets := 0 }) s
    if native s then sendIdent l s else pumpLink l (doAnnounce s)

/-- LOSS_OF_SIGNAL. -/
def doLoss (l : Nat) (s : State) : State :=
  if 24 ≤ l || (linkOf s l).st = .down || (linkOf s l).st = .disabled then s
  else loseLink l s

/-- LANE_FAILURE: one lane goes on at half the data rate, none is a lost link. -/
def doLane (l : Nat) (s : State) : State :=
  if !carrying s l then s
  else if (linkOf s l).lanes ≤ 1 then loseLink l s
  else updLink l (fun x => { x with lanes := 1 }) s

/-! ### Retrain and replay (R248) -/

/-- The link retrains; what it has not seen acknowledged is kept. -/
def startRetrain (l : Nat) (s : State) : State :=
  if !carrying s l then s
  else linkCount l 72 1 (updLink l (fun x => { x with st := .retraining, naks := 0, rxNaks := 0, discarding := false }) s)

/-- This end asks for a retrain: RETRAIN to the partner, where the replay buffer has room, then both retrain. -/
def askRetrain (l : Nat) (s : State) : State :=
  startRetrain l (if carrying s l && native s && (linkOf s l).replay.length < 1024 then sendLinkctl l .retrain s else s)

/-- Put the flits not acknowledged on the link once more, oldest first, with the present ACK. -/
def repeatFlits (l : Nat) (s : State) : State := (linkOf s l).replay.foldl (fun s f => emitFlit l f s) s

/-- Send every flit not acknowledged again, as a NAK or a timeout demands. -/
def resendAll (l counter : Nat) (s : State) : State :=
  if (linkOf s l).replay.isEmpty then s else linkCount l counter 1 (repeatFlits l s)

/-- A link of the Ethernet mode holds no flits: what the replay buffer owed waits as packets. -/
def toFrames (x : Link) : Link := { x with replay := [], ctlWait := [], backlog := owedPackets { x with backlog := x.backlog.map fun w => { w with sent := 0 } } }

/-- RETRAIN_COMPLETE: back to UP, or to QUARANTINE where the ends still differ. -/
def doRetrained (l lanes : Nat) (s : State) : State :=
  if 24 ≤ l || (linkOf s l).st ≠ .retraining then s
  else if lanes = 0 then loseLink l s
  else
    let s := updLink l (fun x => { x with lanes := min lanes 2 }) s
    if !native s then pumpLink l (updLink l (fun x => { toFrames x with st := .up }) s)
    else
      let s := repeatFlits l (updLink l (fun x => { x with st := .config }) s)
      if (linkOf s l).nbDigest.isEmpty then pumpLink l s else judgeLink l s

/-- LINK_RETRAIN_TIMEOUT. -/
def doRetrainTimeout (l : Nat) (s : State) : State :=
  if 24 ≤ l || (linkOf s l).st ≠ .retraining then s else loseLink l s

/-- REPLAY_TIMEOUT. -/
def doReplayTimeout (l : Nat) (s : State) : State :=
  if carrying s l && native s then resendAll l 64 s else s

/-! ### Flits that come in (R248, R249) -/

/-- Flits of the replay buffer that an ACK value covers: those up to it, when it names one of them. -/
def ackedCount (x : Link) (ack : BitVec 12) : Nat :=
  let first := x.txSeq - BitVec.ofNat 12 x.replay.length
  let n := (ack - first).toNat + 1
  if n ≤ x.replay.length then n else 0

/-- Return credits of a channel and panel: of sub-class 0 first. -/
def returnCredits (l vc panel n : Nat) (s : State) : State :=
  updLink l (fun x =>
    let a := sget 0 x.inFlight (chanKey vc 0 panel)
    let b := sget 0 x.inFlight (chanKey vc 1 panel)
    { x with inFlight := sset 0 (sset 0 x.inFlight (chanKey vc 0 panel) (a - n)) (chanKey vc 1 panel) (b - (n - a)) }) s

/-- The acknowledgement that the header of every good flit carries. -/
def takeAck (l : Nat) (h : FlitHdr) (s : State) : State :=
  let n := ackedCount (linkOf s l) h.ack
  updLink l (fun x => { x with replay := x.replay.drop n, rxNaks := if n = 0 then x.rxNaks else 0 }) s

/-- The credits that it carries, taken once: of a numbered flit when it is accepted. -/
def takeCredits (l : Nat) (h : FlitHdr) (s : State) : State := returnCredits l h.cvc.toNat h.cpanel.toNat h.ccount.toNat s

/-- A flit that fails a check, or that leaves a gap: a NAK, and at eight for one number a retrain. -/
def nakFlit (l : Nat) (s : State) : State :=
  let x := linkOf s l
  let n := if x.nakSeq = x.rxExpect && x.naks ≠ 0 then x.naks + 1 else 1
  let s := sendPlainFlit l 2 (updLink l (fun x => { x with discarding := true, naks := n, nakSeq := x.rxExpect }) s)
  if 8 ≤ n then askRetrain l s else s

/-- The speed changes once the flit before the named number is in. -/
def settleSpeed (l : Nat) (s : State) : State :=
  let x := linkOf s l
  match x.switchAt, x.speedAsked with
  | some q, some t =>
    if q = x.rxExpect then
      linkCount l 80 1 (updLink l (fun x => { x with
        lowered := t.toNat, switchAt := none, speedAsked := none
        sinceRise := if t = 0 then s.time + 1 else x.sinceRise }) s)
    else s
  | _, _ => s

/-- An effect of the far end's answers lets waiting packets go. -/
def afterFlit (l : Nat) (s : State) : State := retrySprayed (pumpLink l (settleSpeed l s))

/-- Every received flit: the counts of its FEC, the checks, its acknowledgement. -/
def receiveFlit (l : Nat) (h : FlitHdr) (f : State → State) (s : State) : State :=
  if !carrying s l || !native s then s
  else
    let s := linkCount l 40 h.fecLost (linkCount l 32 h.fecFixed s)
    if !h.crcOk || h.fecLost ≠ 0 then nakFlit l (linkCount l 48 (if h.crcOk then 0 else 1) s)
    else afterFlit l (f (takeAck l h (linkCount l 8 1 s)))

/-- A numbered flit: in order it is accepted, acknowledged, and has the effect f; a duplicate is discarded, a gap answered with a NAK. -/
def numbered (l : Nat) (h : FlitHdr) (f : State → State) (s : State) : State :=
  receiveFlit l h (fun s =>
    let x := linkOf s l
    let ahead := (h.seq - x.rxExpect).toNat
    if ahead = 0 then
      let s := updLink l (fun x => { x with rxExpect := x.rxExpect + 1, discarding := false, naks := 0 }) s
      sendPlainFlit l 1 (f (takeCredits l h s))
    else if 2048 ≤ ahead || x.discarding then s
    else nakFlit l s) s

/-- FLIT_DATA. The buffer space of an accepted flit is free at once, and its credit is owed to the far end. -/
def doFlitData (l : Nat) (h : FlitHdr) (s : State) : State :=
  numbered l h (updLink l fun x =>
    let k := h.vc.toNat * 16 + h.panel.toNat
    { x with rxVc := some h.vc, owed := sset 0 x.owed k (sget 0 x.owed k + 1) }) s

/-- FLIT_IDLE. -/
def doFlitIdle (l : Nat) (h : FlitHdr) (s : State) : State := receiveFlit l h (takeCredits l h) s

/-- FLIT_NAK: resend from ACK + 1; eight in a row for one number retrain. -/
def doFlitNak (l : Nat) (h : FlitHdr) (s : State) : State :=
  receiveFlit l h (fun s =>
    let s := resendAll l 56 (takeCredits l h s)
    let s := updLink l (fun x => { x with rxNaks := x.rxNaks + 1 }) s
    if 8 ≤ (linkOf s l).rxNaks then askRetrain l s else s) s

/-- RETRAIN: the partner's message, or this end's own detection. -/
def doRetrain (l : Nat) (h : Option FlitHdr) (s : State) : State :=
  if !native s then s
  else match h with
    | none => askRetrain l s
    | some h => numbered l h (startRetrain l) s

/-- IDENT. -/
def doIdent (l : Nat) (h : FlitHdr) (m : IdentMsg) (s : State) : State := numbered l h (takeIdent l m) s

/-! ### Speed lowering (R256) -/

/-- The link takes part in speed changes. -/
def speedLink (s : State) (l : Nat) : Bool := l < 24 && native s && (linkOf s l).st = .up

/-- Refusal of a request to lower the speed. -/
def refuseSpeed (s : State) (x : Link) : Bool :=
  odGet s 0x3100 6 < x.util || x.lanes < 2 || (x.sinceRise ≠ 0 && s.time < x.sinceRise - 1 + 1000000)

/-- Answer to a SPEED-REQ. -/
def answerSpeed (l : Nat) (t : BitVec 2) (s : State) : State :=
  let x := linkOf s l
  if !speedLink s l then s
  else if t ≠ 0 && (refuseSpeed s x || t = 3) then linkCount l 88 1 (sendLinkctl l (.speedRefuse t) s)
  else
    let s := sendLinkctl l (.speedAck t (x.txSeq + 1)) s
    linkCount l 80 1 (updLink l (fun x => { x with
      lowered := t.toNat, speedAsked := none, switchAt := none, sinceRise := if t = 0 then s.time + 1 else x.sinceRise }) s)

/-- SPEED_REQ. -/
def doSpeedReq (l : Nat) (h : FlitHdr) (t : BitVec 2) (s : State) : State := numbered l h (answerSpeed l t) s

/-- SPEED_ACK of the change that this end asked for. -/
def doSpeedAck (l : Nat) (h : FlitHdr) (t : BitVec 2) (q : BitVec 12) (s : State) : State :=
  numbered l h (updLink l fun x => if x.speedAsked = some t then { x with switchAt := some q } else x) s

/-- SPEED_REFUSE. -/
def doSpeedRefuse (l : Nat) (h : FlitHdr) (s : State) : State :=
  numbered l h (fun s =>
    if (linkOf s l).speedAsked.isNone then s
    else linkCount l 88 1 (updLink l (fun x => { x with speedAsked := none, switchAt := none }) s)) s

/-- A request to change the speed; it is the last numbered flit until the change is over. -/
def askSpeed (l : Nat) (t : BitVec 2) (s : State) : State :=
  updLink l (fun x => { x with speedAsked := some t, switchAt := none }) (sendLinkctl l (.speedReq t) s)

/-- SPEED_LOWER_WINDOW: the window's utilization, and a request to lower when it was below the threshold. -/
def doLowerWindow (l util : Nat) (s : State) : State :=
  if !speedLink s l then s
  else
    let x := linkOf s l
    let s := updLink l (fun x => { x with util := util }) s
    if odGet s 0x3100 4 = 1 && util < odGet s 0x3100 6 && x.lowered = 0 && x.speedAsked.isNone && x.lanes = 2 then
      askSpeed l (if odGet s 0x3100 5 = 0 then 1 else 2) s
    else s

/-- SPEED_RAISE_TRIGGER. -/
def doRaise (l : Nat) (s : State) : State :=
  if !speedLink s l || (linkOf s l).lowered = 0 || (linkOf s l).speedAsked = some 0 then s else askSpeed l 0 s

/-! ### Packets that come in (R251, R254, R255) -/

/-- A header or a length that breaks Table 11.5. -/
def headerBroken (p : Packet) : Bool :=
  p.hdr.ver ≠ 1 || p.hdr.resv || 4096 < p.payload.length || p.hdr.len.toNat ≠ p.payload.length ||
    (!p.hdr.enc && (p.hdr.keySlot ≠ 0 || p.hdr.nonce ≠ 0 || !p.tag.isEmpty)) || (p.hdr.enc && p.tag.length ≠ 16)

/-- A packet comes in on its link: only management on a link in QUARANTINE, and in Ethernet mode from a quarantined device. A stomped
packet or one whose CRC-32 fails, and one that breaks Table 11.5, are discarded and counted; `f` has the rest. -/
def arrive (p : Packet) (f : State → State) (s : State) : State :=
  let l := p.link
  let mgmt := p.hdr.cls == 3
  if 24 ≤ l || !linkUp s mgmt l || (!native s && !mgmt && ethBlocked s p.hdr.srcFab.toNat) then s
  else
    let s := linkCount l 144 (if p.ce then 1 else 0) s
    if native s && !p.intact then linkCount l 120 1 (linkCount l 104 1 s)
    else if headerBroken p then linkCount l 120 1 s
    else f (linkCount l 24 p.payload.length s)

/-- What chooses the links of a packet that this device forwards (R253): its source QP, or the source core of a control packet. A
sealed packet's core is not readable here; it stays on its arrival tile (DEDUCED: the hop before kept the same tile). -/
def packetTile (p : Packet) (t : Nat) : Nat :=
  if p.hdr.cls = 0 then p.hdr.srcQp.toNat
  else if p.hdr.cls = 2 then
    (if p.hdr.enc then t else if p.hdr.op = 0x04 || p.hdr.op = 0x05 then (p.payload.getD 12 0).toNat else 0)
  else t

/-- PACKET_FORWARD: a whole packet for another fabric ID, on link l. -/
def doForward (l : Nat) (p : Packet) (s : State) : State :=
  if !native s || p.hdr.dstFab.toNat = fabricId s then s
  else
    arrive { p with link := l } (fun s =>
      let s := linkCount l 152 1 s
      if p.hdr.cls = 1 && (linkOf s l).rxVc ≠ some 0 then sendSprayed (l / 6) p s
      else if p.hdr.cls = 1 then sendOrdered 0 (l / 6) (some l) p s
      else sendOrdered p.hdr.cls.toNat (packetTile p (l / 6)) (some l) p s) s

/-- SPRAY_ESCAPE_TIMEOUT: a sprayed packet that waits at the tile of link l continues in the ordered channel. -/
def doEscape (l : Nat) (p : Packet) (s : State) : State :=
  if !s.sprayWait.contains (l / 6, p) then s
  else sendOrdered 0 (l / 6) none p { s with sprayWait := s.sprayWait.erase (l / 6, p) }

/-! ### Transmit underrun (R257) -/

/-- Bytes of a packet gathered before the link begins to send it: the threshold of the cut-through step. -/
def cutThrough (step : Nat) (p : Packet) : Nat :=
  if 5 ≤ step then 32 + p.payload.length else min (32 + p.payload.length) (256 * 2 ^ step)

/-- The link's packet of a number ran dry after k bytes: its pieces in what was sent and in the replay buffer. The stomped flits are
good, and a replay sends them as they were. -/
def stompPiece (id k : Nat) (x : Piece) : Piece := if x.id = id then { x with stomp := some k } else x
def stompFlit (id k : Nat) (f : Flit) : Flit :=
  { f with parts := f.parts.map (stompPiece id k), ends := f.ends.filter (·.id != id) }
def stompOut (id k : Nat) (o : LinkOut) : LinkOut :=
  match o with
  | .flit f a => .flit (stompFlit id k f) a
  | o => o

/-- The last frame of a packet, cut short after k bytes. -/
def cutLast (b : Bytes) : List LinkOut → List LinkOut
  | [] => []
  | o :: os => match o with
    | .frame _ => .frame b :: os
    | o => o :: cutLast b os

/-- The packet that a link is sending: one begun and not whole yet, else the last one sent. -/
def sending (x : Link) : Option LinkWait :=
  match x.backlog.find? fun w => w.sent ≠ 0 && w.stomp.isNone with
  | some w => some w
  | none => x.last

/-- TRANSMIT_UNDERRUN: the packet that the link is sending is stomped and sent again whole at the head of its class. How many of its
bytes were ready, past the threshold of the step, is free. -/
def doUnderrun (l : Nat) (s : State) : State :=
  if 24 ≤ l || !linkUp s true l then s
  else
    let x := linkOf s l
    match sending x with
    | none => s
    | some w =>
      let v := freshVal s
      let n := 32 + w.pkt.payload.length
      let low := max (cutThrough x.ctStep w.pkt) w.sent
      let k := low + v.1.toNat % (n + 1 - low)
      let body := frameBody s l w.pkt
      let again : LinkWait := { w with id := x.packets, sent := 0 }
      let s := updLink l (fun x => { x with
        ctStep := min 5 (x.ctStep + 1), ctPackets := 0, packets := x.packets + 1, last := none
        out := if native s then x.out.map (stompOut w.id k) else (cutLast (cutFrame body (66 + k)) x.out.reverse).reverse
        replay := x.replay.map (stompFlit w.id k)
        backlog := (x.backlog.filter (·.id == w.id)).map (fun u => { u with stomp := some k }) ++
          again :: x.backlog.filter (·.id != w.id) }) v.2
      pumpLink l (linkCount l 96 1 s)

/-- CUT_THROUGH_STEP_DOWN. -/
def doStepDown (l : Nat) (s : State) : State :=
  let x := linkOf s l
  if 24 ≤ l || x.ctPackets < 2 ^ 20 then s
  else updLink l (fun x => { x with ctPackets := 0, ctStep := max (odGet s 0x3100 8) (x.ctStep - 1) }) s

/-! ### Ethernet mode (R258–R261) -/

def ethLink (s : State) (l : Nat) : Bool := l < 24 && !native s && ((linkOf s l).st = .up || (linkOf s l).st = .quarantine)

/-- Does a received frame reach the transport (R259): untagged or with one tag of the module's VID or none, no extension header and no
fragment, and at most 9,216 bytes (Table 11.7). -/
def frameOk (s : State) (l : Nat) (f : EthFrame) : Bool :=
  f.dstMac = linkMac l && f.ethertype = 0x86DD && f.dstAddr = linkAddr s l && f.udpPort.toNat = odGet s 0x3100 0xA &&
    f.fcsOk && f.sumOk && f.tags ≤ 1 && (f.tags = 0 || f.vid = 0 || f.vid.toNat = odGet s 0x3100 0xC % 2 ^ 12) &&
    f.nextHeader = 17 && f.length ≤ 9216

/-- A frame has come in: good by its FCS, or an FCS failure. -/
def countFrame (l : Nat) (good : Bool) (s : State) : State := if good then linkCount l 8 1 s else linkCount l 48 1 s

/-- ETH_FRAME_RECEIVE. The transport takes its packet by the command of its opcode. -/
def doEthFrame (l : Nat) (f : EthFrame) (s : State) : State :=
  if !ethLink s l then s
  else linkCount l 120 (if frameOk s l f then 0 else 1) (countFrame l f.fcsOk s)

/-- Bytes of a link's receive buffer for a priority. -/
def rxBuffer (cls : Nat) : Nat := if cls = 0 then 192 * 1024 else 64 * 1024

def sendPfc (l cls : Nat) (quanta : Word16) (s : State) : State :=
  linkCount l 0 1 (linkCount l 128 1 (updLink l (fun x => { x with
    pfcSent := sset 0 x.pfcSent cls (if quanta = 0 then 0 else 1), out := x.out ++ [.pfc (pcpOf s cls) quanta] }) s))

/-- PFC_SEND: a receive buffer now holds `fill` bytes. -/
def doPfcSend (l : Nat) (control : Bool) (fill : Nat) (s : State) : State :=
  let c := control.toNat
  if !ethLink s l then s
  else
    let s := updLink l (fun x => { x with rxFill := sset 0 x.rxFill c fill }) s
    let sent := sget 0 (linkOf s l).pfcSent c
    if 3 * rxBuffer c < 4 * fill && sent = 0 then sendPfc l c 0xFFFF s
    else if 2 * fill < rxBuffer c && sent = 1 then sendPfc l c 0 s
    else s

/-- PFC_REPEAT, while the buffer stays above 50 %. -/
def doPfcRepeat (l : Nat) (control : Bool) (s : State) : State :=
  let c := control.toNat
  if !ethLink s l || sget 0 (linkOf s l).pfcSent c = 0 || 2 * sget 0 (linkOf s l).rxFill c ≤ rxBuffer c then s
  else sendPfc l c 0xFFFF s

def setPause (l cls quanta : Nat) (s : State) : State :=
  pumpLink l (updLink l (fun x => { x with paused := sset 0 x.paused cls quanta }) s)

/-- PFC_RECEIVE. -/
def doPfcReceive (l prio : Nat) (quanta : Word16) (s : State) : State :=
  if !ethLink s l then s
  else
    let s := linkCount l 8 1 (linkCount l 136 1 s)
    if prio = pcpOf s 0 then setPause l 0 quanta.toNat s
    else if prio = pcpOf s 1 then setPause l 1 quanta.toNat s
    else s

/-- PFC_QUANTA_EXPIRY. -/
def doPfcExpiry (l : Nat) (control : Bool) (s : State) : State :=
  if !ethLink s l then s else setPause l control.toNat 0 s

/-- A TLV of IEEE 802.1AB: 7 bits of type, 9 bits of length, the value (PRESUMED: the standard's header and type numbers). -/
def tlv (type : Nat) (v : Bytes) : Bytes := beBytes 2 (type * 2 ^ 9 + v.length) ++ v

/-- "L" and the link number. -/
def portName (l : Nat) : Bytes :=
  0x4C :: (if l < 10 then [BitVec.ofNat 8 (0x30 + l)] else [BitVec.ofNat 8 (0x30 + l / 10), BitVec.ofNat 8 (0x30 + l % 10)])

/-- The LLDPDU of link l (R261): chassis ID, port ID, TTL, Merquarvo's TLV, End. -/
def lldpBytes (s : State) (l : Nat) : Bytes :=
  tlv 1 (7 :: (List.range 16).map Config.serial) ++ tlv 2 (5 :: portName l) ++ tlv 3 (beBytes 2 120) ++
    tlv 127 (beBytes 3 Config.oui.toNat ++ [1, (identMsg s l).fabric, BitVec.ofNat 8 l] ++ configDigest s) ++ tlv 0 []

/-- LLDP_TRANSMIT. -/
def doLldpSend (l : Nat) (s : State) : State :=
  if !ethLink s l then s else linkCount l 0 1 (linkEmit l (.lldp (lldpBytes s l)) s)

/-- LLDP_RECEIVE. -/
def doLldpReceive (l : Nat) (fabric link : BitVec 8) (digest : Bytes) (s : State) : State :=
  if !ethLink s l then s
  else linkCount l 8 1 (updLink l (fun x => { x with nbFab := fabric, nbLink := link, nbDigest := digest }) s)

/-- NEIGHBOR_SOLICITATION. -/
def doSolicit (l : Nat) (target : BitVec 128) (s : State) : State :=
  if !ethLink s l then s
  else if target = linkAddr s l then linkCount l 0 1 (linkEmit l (.advert target) (linkCount l 8 1 s))
  else linkCount l 8 1 s

/-! ### The entries of a link (Table 11.9) -/

/-- Every link that carries flits retrains. -/
def retrainAll (s : State) : State := (List.range 24).foldl (fun s l => startRetrain l s) s

/-- Links that have become disabled are lost. -/
def dropDisabled (s : State) : State :=
  ((List.range 24).filter fun l => linkDisabled s l && (linkOf s l).st ≠ .down).foldl (fun s l => loseLink l s) s

def stateCode (s : State) (l : Nat) : Nat :=
  if linkDisabled s l then 0
  else match (linkOf s l).st with
    | .disabled => 0
    | .down => 1
    | .training => 2
    | .config => 3
    | .up => 4
    | .quarantine => 5
    | .retraining => 2

/-- `ashlink.state` of link l. -/
def linkStateBytes (s : State) (l : Nat) : Bytes :=
  let x := linkOf s l
  toLe 1 (stateCode s l) ++ toLe 1 x.lanes ++ toLe 1 (if native s then x.lowered else 3) ++
    toLe 1 (if native s then l % 6 else 0xFF) ++ toLe 1 x.nbFab.toNat ++ toLe 1 x.nbLink.toNat ++ toLe 1 x.ctStep ++ [0] ++
    padTo 8 (x.nbDigest.take 8)

/-- `ashlink.digest_table`. -/
def digestTable (s : State) : Bytes :=
  (List.range 256).flatMap fun f => match sget [] s.digests f with
    | [] => List.replicate 40 0
    | b :: d => b :: (toLe 7 0 ++ padTo 32 d)

end Sys2Proof.Machine
end

