-- ==== Sys2Proof/Machine/Colls.lean ====
section
/-! DEFINITION. Collectives (R211, R285, R286): the COLL record, and the built-in kernel that a worker core runs for it. -/
namespace Sys2Proof.Machine

/-! ### The COLL record (Tables 12.10, 12.11) -/

/-- A collective as its record and its group record spell it. -/
def collOf (s : State) (c : Rec) : Coll :=
  let g := c.field 16 8
  let n := readNat s (g + 4) 2
  { kid := s.nextKid, panel := c.p, op := c.field 8 1, red := c.field 9 1, worker := c.field 10 1
    n := n, pos := readNat s (g + 6) 1, staging := readNat s (g + 8) 8
    members := (List.range (min n 256)).map fun i =>
      (readNat s (g + 16 + 4 * i) 4 % 256, readNat s (g + 16 + 4 * i) 4 / 256 % 4096)
    src := c.field 24 8, dst := c.field 32 8, count := c.field 40 8, knot := BitVec.ofNat 32 (c.field 48 4)
    msgBase := BitVec.ofNat 32 (c.field 52 4), key := c.field 56 4
    perm := if c.field 8 1 = 4 then (List.range (min n 256)).map fun i => readNat s (g + 16 + 4 * n + i) 1 else []
    stage := 0 }

def Coll.stagingBytes (x : Coll) : Nat := if x.op ≤ 2 then x.n * chunkLen x.count x.n * 4 else 0

/-- Memory that a key covers (R271): base and length, for a key that allows writing. -/
def keyRange (s : State) (p key : Nat) : Option (Nat × Nat) :=
  let k := odGet s 0x3202 (p + 1) + 32 * (key / 2 ^ 16)
  if key / 2 ^ 16 < odGet s 0x3203 (p + 1) && readNat s (k + 16) 2 = key % 2 ^ 16 && bitOf (readNat s (k + 18) 1) 0 &&
      bitOf (readNat s (k + 19) 1) 0 then some (readNat s k 8, readNat s (k + 8) 8) else none

def keyCovers (s : State) (p key a n : Nat) : Bool :=
  n = 0 || match keyRange s p key with
    | some (base, len) => base ≤ a && a + n ≤ base + len
    | none => false

/-- Every member's QP but the own one is a READY DATA QP of the panel to that member. -/
def memberQps (s : State) (x : Coll) : Bool :=
  x.members.zipIdx.all fun m => m.2 = x.pos ||
    ((qpOf s m.1.2).st = .ready && !(qpOf s m.1.2).control && (qpOf s m.1.2).owner = x.panel && (qpOf s m.1.2).remFab = m.1.1)

/-- Cause of event 0x3205, the lowest that applies (R413). -/
def collCause (s : State) (c : Rec) : Option Nat :=
  let x := collOf s c
  let g := c.field 16 8
  if !grants s c.p false g (16 + 4 * x.n) || readNat s g 4 ≠ 0x4743_4A47 then some 1
  else if !(x.members.map (·.1)).Pairwise (· < ·) then some 2
  else if !memberQps s x then some 3
  else if x.n = 0 || 256 < x.n || x.n ≤ x.pos || (x.members.map (·.1))[x.pos]? ≠ some (fabricId s) || !fabricSet s then some 4
  else if 128 ≤ x.worker || ownerOfCore s x.worker ≠ some c.p then some 5
  else if !keyCovers s c.p x.key x.dst x.dstBytes || !keyCovers s c.p x.key x.staging x.stagingBytes then some 6
  else if x.op = 4 && (!grants s c.p false (g + 16 + 4 * x.n) x.n || !((List.range x.n).all x.perm.contains)) then some 7
  else if x.op = 0 || 4 < x.op || (x.op ≤ 2 && 1 < x.red) then some 8
  else none

/-- The kernel of a collective: default scheduling, on its worker. -/
def collKernel (s : State) (c : Rec) : Kernel :=
  { kid := s.nextKid, panel := c.p, phase := .waiting, tag := BitVec.ofNat 32 (c.field 12 4), port := c.h, ring := c.r
    recIdx := c.n, hostTag := BitVec.ofNat 16 c.tag, cqe := c.cqe, rtype := 0x23, job := (ringOf s c.h c.r).job, step := 0
    prio := 0, serving := false, layer := 0, mask := 0, affinity := 0, header := 0, home := [c.field 10 1], shift := 0
    fallback := false, width := 0, tesh := false, seed := 0, status := 0, event := 0, forKid := 0, since := s.time
    saved := [] }

/-- A COLL record whose operation `pick` names. -/
def doCollRec (h r : Nat) (pick : Nat → Bool) (s : State) : State :=
  withRec h r (fun c => c.type == 0x23 && pick (c.field 8 1)) (fun c s =>
    match collCause s c with
    | some cause =>
      postPanel c.p 0x3205 c.hub (c.field 16 8) (c.field 12 4 + 2 ^ 32 * cause) (holdRefused h r s)
    | none =>
      let k := collKernel s c
      let x := collOf s c
      let s := takeRec c s
      let s := { s with kernels := s.kernels ++ [k], nextKid := s.nextKid + 1, colls := s.colls ++ [x] }
      let s := match lostCoreOf s k with
        | some l => refuseLost k l s
        | none => s
      checkHead h r s) s

/-! ### The built-in kernel (R286) -/

def updColl (kid : Nat) (f : Coll → Coll) (s : State) : State :=
  { s with colls := s.colls.map fun x => if x.kid = kid then f x else x }

/-- QP to position i. -/
def Coll.qp (x : Coll) (i : Nat) : Nat := (x.members.getD i (0, 0)).2

/-- Positions other than the own one. -/
def Coll.others (x : Coll) : List Nat := (List.range x.n).filter (· ≠ x.pos)

def Coll.c4 (x : Coll) : Nat := chunkLen x.count x.n * 4
/-- Bytes of chunk i. -/
def Coll.bytes (x : Coll) (i : Nat) : Nat := 4 * chunkCount x.count x.n i

/-- Where the own chunk's result goes. -/
def Coll.result (x : Coll) : Nat := if x.op = 1 then x.dst + x.pos * x.c4 else x.dst

/-- Receives of a collective: position, message ID past the base, place, bytes. -/
def Coll.receives (x : Coll) : List (Nat × Nat × Nat × Nat) :=
  let phase1 := x.others.map fun j => (j, 0, x.staging + j * x.c4, x.bytes x.pos)
  match x.op with
  | 1 => phase1 ++ x.others.map fun i => (i, 1, x.dst + i * x.c4, x.bytes i)
  | 2 => phase1
  | 3 => x.others.map fun i => (i, 0, x.dst + i * x.count, x.count)
  | _ => match x.perm.findIdx? (· == x.pos) with
    | some j => if j = x.pos then [] else [(j, 0, x.dst, x.count)]
    | none => []

/-- Sends of the first phase: position, source address, bytes. -/
def Coll.sends (x : Coll) : List (Nat × Nat × Nat) :=
  match x.op with
  | 3 => x.others.map fun i => (i, x.src, x.count)
  | 4 => let t := x.perm.getD x.pos x.pos
    if t = x.pos then [] else [(t, x.src, x.count)]
  | _ => x.others.map fun i => (i, x.src + i * x.c4, x.bytes i)

/-- Post the receive entry for message `m` of the QP to position i, at address a. -/
def postReceive (x : Coll) (i : Nat) (m : Word32) (a n : Nat) (s : State) : State :=
  match keyRange s x.panel x.key with
  | none => s
  | some (base, _) =>
    let q := qpOf s (x.qp i)
    let b := toLe 4 x.key ++ toLe 4 0 ++ toLe 8 (a - base) ++ toLe 4 n ++ toLe 12 0
    deviceKnot (coreBlock s x.worker) true q.postKnot (m + 1).toNat (writeBytes (recvEntry q m.toNat) b s)

/-- Send n bytes at address a to position i as message m, on the sprayed class. -/
def sendBytes (x : Coll) (i : Nat) (m : Word32) (a n : Nat) (s : State) : State :=
  if n = 0 then s
  else
    let r : SendRec := { qp := x.qp i, sprayed := true, trail := false, msg := m, op := [] }
    sendMessage x.worker 0 x.kid r (readBytes s a n) (noteRead a n s)

/-- Message m of QP q has been placed whole. -/
def msgDone (s : State) (q : Nat) (m : Word32) : Bool :=
  let x := qpOf s q
  (x.rxPrefix - (m + 1)).toNat < 2 ^ 31 || x.rxDone.contains m

/-- Every receive with message offset o has come. -/
def Coll.allCome (s : State) (x : Coll) (o : Nat) : Bool :=
  x.receives.all fun e => e.2.1 ≠ o || e.2.2.2 = 0 || msgDone s (x.qp e.1) (x.msgBase + BitVec.ofNat 32 o)

/-- The result of the own chunk: contributions in ascending position. -/
def Coll.reduced (s : State) (x : Coll) : Bytes :=
  let n := chunkCount x.count x.n x.pos
  let at_ (j : Nat) : List Word32 :=
    wordsAt s (if j = x.pos then x.src + x.pos * x.c4 else x.staging + j * x.c4) n
  let op := if x.red = 0 then add32 else max32
  wordsBytes (((List.range x.n).drop 1).foldl (fun r j => List.zipWith op r (at_ j)) (at_ 0))

/-- The collective's packets are all acknowledged. -/
def sendsDone (s : State) (kid : Nat) : Bool :=
  s.qps.all fun q => (q.2.unacked ++ q.2.waiting).all fun o => o.kid ≠ kid

/-- Areas that the kernel reads first, by its panel's rights (R17). -/
def Coll.reads (x : Coll) : List (Nat × Nat) :=
  x.sends.map (·.2) ++ (if x.op ≤ 2 then [(x.src + x.pos * x.c4, x.bytes x.pos)] else if x.op = 3 then [(x.src, x.count)] else [])

/-- Stage 0: checks of the source, receive entries, the sends of the first phase. -/
def collBegin (x : Coll) (s : State) : State :=
  match x.reads.find? fun e => !grants s x.panel false e.1 e.2 with
  | some e => regionAbort x.worker e.1 s
  | none =>
    match hubMeets x.reads s with
    | (some (_, true), s) => abortKernel x.kid 0x2601 s
    | (some (_, false), s) => s
    | (none, s) =>
      let s := x.receives.foldl (fun s e =>
        if e.2.2.2 = 0 then s
        else postReceive x e.1 (x.msgBase + BitVec.ofNat 32 e.2.1) e.2.2.1 e.2.2.2 s) s
      let s := x.sends.foldl (fun s e => sendBytes x e.1 x.msgBase e.2.1 e.2.2 s) s
      updColl x.kid (fun x => { x with stage := 1 }) s

/-- Stage 1: what the first phase brought is final, or goes into the second phase. -/
def collPhase1 (x : Coll) (s : State) : State :=
  if !Coll.allCome s x 0 then s
  else
    let s := if x.op ≤ 2 then writeBytes x.result (Coll.reduced s x) s
      else if x.op = 3 then writeBytes (x.dst + x.pos * x.count) (readBytes s x.src x.count) s
      else s
    if x.op = 1 then
      let s := x.others.foldl (fun s i => sendBytes x i (x.msgBase + 1) x.result (x.bytes x.pos) s) s
      updColl x.kid (fun x => { x with stage := 2 }) s
    else updColl x.kid (fun x => { x with stage := 3 }) s

/-- The completion knot receives KADD 1, under the rights of the panel (R195), and the collective is over. -/
def collSignal (x : Coll) (s : State) : State :=
  if !sendsDone s x.kid then s
  else
    match knotRoute s x.panel x.knot 48 with
    | .refuse cause => knotRefuse x.worker x.knot.toNat 0 cause s
    | .away _ => knotRefuse x.worker x.knot.toNat 0 1 s
    | .here _ =>
      deviceKnot (((kernelBy s x.kid).map kernelHub).getD (panelHub s x.panel)) false x.knot 1
        { s with colls := s.colls.filter fun y => y.kid ≠ x.kid }

/-- One stage of a collective whose kernel is on its core. -/
def stepColl (kid : Nat) (s : State) : State :=
  match s.colls.find? (·.kid == kid), kernelBy s kid with
  | some x, some k =>
    if k.phase ≠ .running then s
    else
      let x := { x with worker := shiftCore k x.worker }
      match x.stage with
      | 0 => collBegin x s
      | 1 => collPhase1 x s
      | 2 => if Coll.allCome s x 1 then updColl kid (fun x => { x with stage := 3 }) s else s
      | _ => collSignal x s
  | _, _ => s

/-- Carry every collective on as far as it goes now. -/
def pumpColls (s : State) : State :=
  (s.colls.map (·.kid)).foldl (fun s kid => stepColl kid (stepColl kid (stepColl kid (stepColl kid s)))) s

end Sys2Proof.Machine
end

