-- ==== Sys2Proof/Machine/Sequencer.lean ====
section
/-! DEFINITION. The control operations of the sequencer (R79–R82, R129) and their commands. -/
namespace Sys2Proof.Machine

/-- A command has its effect on a module that has power and is not held in reset (R349), unless a module-fatal condition
stands: the module then does nothing further (R375). -/
def alive (f : State → State) (s : State) : Host.Outcome State Fault Refusal :=
  .next (if powered s && !s.startup.fatal then f s else s)

/-- The same for a command that can change knots, messages or cores: collectives then go on as far as they can. -/
def settle (f : State → State) (s : State) : Host.Outcome State Fault Refusal := alive (fun s => pumpColls (f s)) s

/-! ### Effects -/

/-- The program counter goes to `n`. -/
def jump (c n : Nat) (s : State) : State := updCore c (fun x => { x with pc := BitVec.ofNat 16 n }) s

/-- LOOP k: open level k, which is the depth. -/
def doLoop (c count1 : Nat) (idx : Nat) (s : State) : State :=
  advance c (updCore c (fun x => { x with loops := x.loops ++ [⟨count1 + 1, idx + 1⟩] }) s)

/-- NEXT k: back to the operation after LOOP, or the innermost level closes. -/
def doNext (c : Nat) (x : Core) (s : State) : State :=
  match x.loops.getLast? with
  | none => s
  | some l =>
    if 1 < l.count then
      jump c l.start (updCore c (fun x => { x with loops := x.loops.dropLast ++ [{ l with count := l.count - 1 }] }) s)
    else advance c (updCore c (fun x => { x with loops := x.loops.dropLast }) s)

/-- SETA and ADDA: address register r takes v. -/
def setReg (c r : Nat) (v : BitVec 20) (s : State) : State :=
  advance c (updCore c (fun x => { x with areg := sset 0 x.areg r v }) s)

/-- WAITQ: go on once the named queues are empty. -/
def doWaitq (c mask : Nat) (x : Core) (s : State) : State :=
  if (List.range 13).any fun q => bitOf mask q && !(queueAt x q).entries.isEmpty then s else advance c s

/-- YIELD: with every queue retired, the record is written and the function slots are unloaded. A core of a kernel that has been
asked to stop stays; the others go on. -/
def doYield (c : Nat) (x : Core) (idx : Nat) (s : State) : State :=
  if !queuesEmpty x then s
  else
    let s := odCount 0x2301 5 1 (updCore c (fun x => { x with fslots := [], yieldRec := contextRecord s c (idx + 1) 0 }) s)
    match kernelOnCore s c with
    | some k =>
      if k.phase = .stopping then
        saveIfStopped k.kid (advance c (updCore c (fun x => { x with yielded := true }) s))
      else advance c s
    | none => s

/-- The commit record of slot n mod 2 takes over. -/
def putCommit (n : Nat) (v : CommitSave) (x : Core) : Core :=
  let x := { x with commitSeq := n + 1, replay := 0, suppress := 0, seen := [], seenLeft := [], reserved := 0, reservedSkip := 0,
                      recCounts := [], replaying := false }
  if n % 2 = 0 then { x with commit0 := v } else { x with commit1 := v }

/-- COMMIT: with every queue retired, the record and the counts are saved. -/
def doCommit (c : Nat) (x : Core) (idx : Nat) (s : State) : State :=
  match panelOnCore s c with
  | none => s
  | some p =>
    if !queuesEmpty x then s
    else
      let s := saveSpools c p s
      let y := coreOf s c
      let v : CommitSave :=
        { record := contextRecord s c (idx + 1) (y.commitSeq + 1), spoolP := y.spoolP, spoolC := y.spoolC, remote := y.remote,
          replay := y.replay }
      pumpCores p (advance c (odCount 0x2301 6 1 (updCore c (putCommit y.commitSeq v) s)))

/-- END: with every queue retired, this core's part of the kernel is over. -/
def doEnd (c : Nat) (x : Core) (s : State) : State :=
  match kernelOnCore s c with
  | none => s
  | some k =>
    if !queuesEmpty x then s
    else
      let s := updCore c (fun x => { x with ended := true }) (saveSpools c k.panel s)
      pumpCores k.panel (saveIfStopped k.kid (enterPhase c 5 s))

/-! ### Commands -/

def execNop (c : Nat) (h : OpHdr) (s : State) : Host.Outcome State Fault Refusal :=
  alive (controlOp c h (.nop c h) (fun _ _ s => advance c s)) s

def execEndOp (c : Nat) (h : OpHdr) (s : State) : Host.Outcome State Fault Refusal :=
  settle (controlOp c h (.endOp c h) (fun x _ s => doEnd c x s)) s

def execLoop (c : Nat) (h : OpHdr) (level : BitVec 2) (count1 : BitVec 24) (s : State) : Host.Outcome State Fault Refusal :=
  alive (controlOp c h (.loop c h level count1) (fun _ idx s => doLoop c count1.toNat idx s)) s

def execNext (c : Nat) (h : OpHdr) (level : BitVec 2) (s : State) : Host.Outcome State Fault Refusal :=
  alive (controlOp c h (.next c h level) (fun x _ s => doNext c x s)) s

def execSeta (c : Nat) (h : OpHdr) (reg : BitVec 4) (value : BitVec 20) (s : State) : Host.Outcome State Fault Refusal :=
  alive (controlOp c h (.seta c h reg value) (fun _ _ s => setReg c reg.toNat value s)) s

def execAdda (c : Nat) (h : OpHdr) (reg : BitVec 4) (incr : BitVec 20) (s : State) : Host.Outcome State Fault Refusal :=
  alive (controlOp c h (.adda c h reg incr) (fun x _ s => setReg c reg.toNat (sget 0 x.areg reg.toNat + incr) s)) s

def execWaitq (c : Nat) (h : OpHdr) (mask : BitVec 16) (s : State) : Host.Outcome State Fault Refusal :=
  alive (controlOp c h (.waitq c h mask) (fun x _ s => doWaitq c mask.toNat x s)) s

def execYield (c : Nat) (h : OpHdr) (s : State) : Host.Outcome State Fault Refusal :=
  alive (controlOp c h (.yield c h) (fun x idx s => doYield c x idx s)) s

def execCommit (c : Nat) (h : OpHdr) (s : State) : Host.Outcome State Fault Refusal :=
  settle (controlOp c h (.commit c h) (fun x idx s => doCommit c x idx s)) s

def execPhase (c : Nat) (h : OpHdr) (phase : BitVec 4) (s : State) : Host.Outcome State Fault Refusal :=
  alive (controlOp c h (.phase c h phase) (fun _ _ s => advance c (enterPhase c phase.toNat s))) s

end Sys2Proof.Machine
end

