-- ==== Sys2Proof/Machine/Engines.lean ====
section
/-! DEFINITION. The commands of the engines behind the queues (R76, R77, R82): each operation is dispatched into its queue and
starts there in turn; retirement; and the rerun of passes that a check held (R35). -/
namespace Sys2Proof.Machine

def execStepclose (c : Nat) (h : OpHdr) (layer : Word48) (s : State) : Host.Outcome State Fault Refusal :=
  alive (dispatchOp c h (.stepclose c h layer)) s

def execLoad (c : Nat) (h : OpHdr) (f : LoadF) (s : State) : Host.Outcome State Fault Refusal :=
  alive (dispatchOp c h (.load c h f)) s

def execPass (c : Nat) (h : OpHdr) (f : PassF) (mismatch : List Nat) (s : State) : Host.Outcome State Fault Refusal :=
  alive (dispatchOp c h (.pass c h f mismatch)) s

def execDrain (c : Nat) (h : OpHdr) (f : DrainF) (s : State) : Host.Outcome State Fault Refusal :=
  alive (dispatchOp c h (.drain c h f)) s

def execNhold (c : Nat) (h : OpHdr) (f : NHoldF) (s : State) : Host.Outcome State Fault Refusal :=
  alive (dispatchOp c h (.nhold c h f)) s

def execNstream (c : Nat) (h : OpHdr) (f : NStreamF) (mismatches : Nat) (s : State) : Host.Outcome State Fault Refusal :=
  alive (dispatchOp c h (.nstream c h f mismatches)) s

def execNgraft1 (c : Nat) (h : OpHdr) (f : NGraft1F) (mismatches : Nat) (s : State) : Host.Outcome State Fault Refusal :=
  alive (dispatchOp c h (.ngraft1 c h f mismatches)) s

def execNgraft2 (c : Nat) (h : OpHdr) (f : NGraft2F) (mismatches : Nat) (s : State) : Host.Outcome State Fault Refusal :=
  alive (dispatchOp c h (.ngraft2 c h f mismatches)) s

def execVbin (c : Nat) (h : OpHdr) (f : FlatF) (s : State) : Host.Outcome State Fault Refusal :=
  alive (dispatchOp c h (.vbin c h f)) s

def execVfma (c : Nat) (h : OpHdr) (f : FlatF) (s : State) : Host.Outcome State Fault Refusal :=
  alive (dispatchOp c h (.vfma c h f)) s

def execVun (c : Nat) (h : OpHdr) (f : FlatF) (s : State) : Host.Outcome State Fault Refusal :=
  alive (dispatchOp c h (.vun c h f)) s

def execVred (c : Nat) (h : OpHdr) (f : RowF) (s : State) : Host.Outcome State Fault Refusal :=
  alive (dispatchOp c h (.vred c h f)) s

def execVrow (c : Nat) (h : OpHdr) (f : RowF) (s : State) : Host.Outcome State Fault Refusal :=
  alive (dispatchOp c h (.vrow c h f)) s

def execVcvt (c : Nat) (h : OpHdr) (f : RowF) (s : State) : Host.Outcome State Fault Refusal :=
  alive (dispatchOp c h (.vcvt c h f)) s

def execVsoft (c : Nat) (h : OpHdr) (f : RowF) (s : State) : Host.Outcome State Fault Refusal :=
  alive (dispatchOp c h (.vsoft c h f)) s

def execVmask (c : Nat) (h : OpHdr) (f : RowF) (s : State) : Host.Outcome State Fault Refusal :=
  alive (dispatchOp c h (.vmask c h f)) s

def execVscan (c : Nat) (h : OpHdr) (f : ScanF) (s : State) : Host.Outcome State Fault Refusal :=
  alive (dispatchOp c h (.vscan c h f)) s

def execVopt (c : Nat) (h : OpHdr) (alg : BitVec 4) (desc : BitVec 24) (s : State) : Host.Outcome State Fault Refusal :=
  alive (dispatchOp c h (.vopt c h alg desc)) s

def execFload (c : Nat) (h : OpHdr) (slot : BitVec 4) (image : BitVec 24) (s : State) : Host.Outcome State Fault Refusal :=
  alive (dispatchOp c h (.fload c h slot image)) s

def execFeval (c : Nat) (h : OpHdr) (f : FlatF) (s : State) : Host.Outcome State Fault Refusal :=
  alive (dispatchOp c h (.feval c h f)) s

def execFderiv (c : Nat) (h : OpHdr) (f : FlatF) (s : State) : Host.Outcome State Fault Refusal :=
  alive (dispatchOp c h (.fderiv c h f)) s

/-- The rerun of a pass that a check held, and whatever can start now that its rows have landed. -/
def rerun (c array : Nat) (mismatch : List Nat) (s : State) : State :=
  let s := doCheckRerun c array mismatch s
  match panelOnCore s c with
  | some p => pumpCores p (pumpCore c pumpRounds s)
  | none => s

def execCheckRerun (c : Nat) (array : Nat) (mismatch : List Nat) (s : State) : Host.Outcome State Fault Refusal :=
  settle (rerun c array mismatch) s

def execOperationRetire (c : Nat) (q : Nat) (s : State) : Host.Outcome State Fault Refusal := settle (retireHead c q) s

end Sys2Proof.Machine
end

