-- ==== Sys2Proof/Machine/MoverCmds.lean ====
section
/-! DEFINITION. The commands of the mover that reach no object-dictionary entry (R171–R186). -/
namespace Sys2Proof.Machine

def execMoveCopy (c : Nat) (h : OpHdr) (desc : BitVec 24) (s : State) : Host.Outcome State Fault Refusal :=
  alive (dispatchOp c h (.moveCopy c h desc)) s

def execMoveSwatchRead (c : Nat) (h : OpHdr) (desc : BitVec 24) (s : State) : Host.Outcome State Fault Refusal :=
  alive (dispatchOp c h (.moveSwatchRead c h desc)) s

def execMoveSwatchWrite (c : Nat) (h : OpHdr) (desc : BitVec 24) (s : State) : Host.Outcome State Fault Refusal :=
  alive (dispatchOp c h (.moveSwatchWrite c h desc)) s

def execMoveTable (c : Nat) (h : OpHdr) (desc : BitVec 24) (s : State) : Host.Outcome State Fault Refusal :=
  alive (dispatchOp c h (.moveTable c h desc)) s

def execMoveZero (c : Nat) (h : OpHdr) (desc : BitVec 24) (s : State) : Host.Outcome State Fault Refusal :=
  alive (dispatchOp c h (.moveZero c h desc)) s

def execMoveSend (c : Nat) (h : OpHdr) (desc : BitVec 24) (s : State) : Host.Outcome State Fault Refusal :=
  alive (dispatchOp c h (.moveSend c h desc)) s

def execStream (c : Nat) (h : OpHdr) (channel : BitVec 2) (desc : BitVec 24)
    (s : State) : Host.Outcome State Fault Refusal :=
  alive (dispatchOp c h (.stream c h channel desc)) s

/-- An effect on the mover of core c, for the panel whose kernel runs there; it can let held operations go on. -/
def onMover (c : Nat) (f : Nat → State → State) (s : State) : State :=
  match panelOnCore s c with
  | some p => pumpCores p (f p s)
  | none => s

def execMoverRequestIssue (c : Nat) (s : State) : Host.Outcome State Fault Refusal := settle (onMover c (issueNext c)) s

def execMergeWindowExpiry (c : Nat) (s : State) : Host.Outcome State Fault Refusal := settle (onMover c (flushMerge c)) s

/-- An effect on one move of core c. -/
def withMove (c move : Nat) (f : Nat → Move → State → State) (s : State) : State :=
  onMover c (fun p s => match moveOf s c move with
    | some m => f p m s
    | none => s) s

def execChunkComplete (c : Nat) (move : Nat) (s : State) : Host.Outcome State Fault Refusal :=
  alive (withMove c move (chunkDone c)) s

/-- MOVE_RETIRE: a complete transfer clears its status in the descriptor and retires. A transfer that its aborted kernel ended
retires as it stands. -/
def finishMove (c : Nat) (m : Move) (s : State) : State :=
  if !moveComplete (coreOf s c) m then s
  else
    let cut := m.done && match kernelOnCore s c with
      | some k => k.phase = .ending
      | none => false
    retireMove c m.id (if cut then s else clearStatus c m.d s)

def execMoveRetire (c : Nat) (move : Nat) (s : State) : Host.Outcome State Fault Refusal :=
  settle (withMove c move (fun _ m s => finishMove c m s)) s

def execHostWindowFault (c : Nat) (move : Nat) (s : State) : Host.Outcome State Fault Refusal :=
  alive (withMove c move (handleFault c)) s

/-- FAULT_TIMEOUT: event 0x2702, and the kernel ends. -/
def doFaultTimeout (p number : Nat) (s : State) : State :=
  match faultBy s p number with
  | none => s
  | some f =>
    let s := postPanel p 0x2702 (coreBlock s f.core) f.addr (number + 2 ^ 32 * tagOnCore s f.core) s
    abortFault p number 0x2702 s

def execFaultTimeout (panel : Nat) (number : Word16) (s : State) : Host.Outcome State Fault Refusal :=
  settle (doFaultTimeout panel number.toNat) s

end Sys2Proof.Machine
end

