-- ==== Sys2Proof/Machine/KnotCmds.lean ====
section
/-! DEFINITION. The commands of knots, barriers and spools that reach no object-dictionary entry (R191–R209). -/
namespace Sys2Proof.Machine

def execKadd (c : Nat) (h : OpHdr) (f : KnotF) (s : State) : Host.Outcome State Fault Refusal :=
  settle (dispatchOp c h (.kadd c h f)) s

def execKset (c : Nat) (h : OpHdr) (f : KnotF) (s : State) : Host.Outcome State Fault Refusal :=
  settle (dispatchOp c h (.kset c h f)) s

def execKwaitge (c : Nat) (h : OpHdr) (f : KnotF) (s : State) : Host.Outcome State Fault Refusal :=
  settle (dispatchOp c h (.kwaitge c h f)) s

def execKwaiteq (c : Nat) (h : OpHdr) (f : KnotF) (s : State) : Host.Outcome State Fault Refusal :=
  settle (dispatchOp c h (.kwaiteq c h f)) s

def execKarrive (c : Nat) (h : OpHdr) (f : ArriveF) (s : State) : Host.Outcome State Fault Refusal :=
  settle (dispatchOp c h (.karrive c h f)) s

def execSpaceWait (c : Nat) (h : OpHdr) (spool : BitVec 6) (k : BitVec 48) (s : State) : Host.Outcome State Fault Refusal :=
  settle (dispatchOp c h (.spaceWait c h spool k)) s

def execDataWait (c : Nat) (h : OpHdr) (spool : BitVec 6) (k : BitVec 48) (s : State) : Host.Outcome State Fault Refusal :=
  settle (dispatchOp c h (.dataWait c h spool k)) s

def execScommit (c : Nat) (h : OpHdr) (spool : BitVec 6) (k : BitVec 24) (s : State) : Host.Outcome State Fault Refusal :=
  settle (dispatchOp c h (.scommit c h spool k)) s

def execSrelease (c : Nat) (h : OpHdr) (spool : BitVec 6) (k : BitVec 24) (s : State) : Host.Outcome State Fault Refusal :=
  settle (dispatchOp c h (.srelease c h spool k)) s

def execSpoolOccupancySample (panel : Nat) (spool : Nat) (s : State) : Host.Outcome State Fault Refusal :=
  alive (doSpoolSample panel spool) s

def execRemoteWaitRetry (c : Nat) (s : State) : Host.Outcome State Fault Refusal := alive (doRemoteWaitRetry c) s

/-- The watchdog of a quiesced panel's waits is suspended (R310). -/
def watchdogDue (c q : Nat) (s : State) : State :=
  match panelOnCore s c with
  | some p => if panelQuiesced s p then s else doWatchdog c q s
  | none => s

def execWatchdogExpiry (c : Nat) (q : Nat) (s : State) : Host.Outcome State Fault Refusal := settle (watchdogDue c q) s

end Sys2Proof.Machine
end

