-- ==== Sys2Proof/Machine/Jobs.lean ====
section
/-! DEFINITION. Ring records of jobs and serving: FENCE, PUBLISH and what clears them (R304), JOB (R265, R303), HINT (R335),
WORKLIST (R328) and MODEL (R326). -/
namespace Sys2Proof.Machine

/-! ### FENCE and PUBLISH -/

/-- A FENCE or PUBLISH record: a body that is not zero holds the ring (R301). -/
def doFenceRec (h r type : Nat) (s : State) : State :=
  withRec h r (·.type == type) (fun c s => if c.zeroBut [] then fenceRec c s else holdRec c s) s

/-! ### MODEL (R326) -/

/-- Image-table entry i: source, destination, bytes, and whether bytes 24–31 are zero. -/
structure ImageEntry where
  src : Nat
  dst : Nat
  len : Nat
  clean : Bool
deriving DecidableEq, Repr

def imageEntry (s : State) (t i : Nat) : ImageEntry :=
  ⟨readNat s (t + 32 * i) 8, readNat s (t + 32 * i + 8) 8, readNat s (t + 32 * i + 16) 8, readNat s (t + 32 * i + 24) 8 = 0⟩

/-- Is an entry within the panel's grants: the source in Crown or Root, the destination in its Crown. -/
def imageOk (s : State) (p : Nat) (e : ImageEntry) : Bool :=
  e.len = 0 || (grants s p false e.src e.len && (e.src < crownEnd || (rootBase ≤ e.src && e.src < rootEnd)) &&
    grants s p true e.dst e.len && inOwnCrown s p e.dst e.len)

/-- Entry at fault and cause of event 0x3402. -/
def modelCause (s : State) (p : Nat) (b : Bytes) : Option (Nat × Nat) :=
  let t := fieldNat b 16 8
  let n := fieldNat b 24 4
  let f := fieldNat b 28 2
  let lm := fieldNat b 30 2
  let none_ := 0xFFFF_FFFF
  if panelKind s p = 2 then some (none_, 1)
  else if fieldNat b 8 4 = 0 || 65536 < n || lm ≤ f || 1023 < lm || fieldNat b 12 4 ≠ 0 || !allZero ((b.drop 32).take 32) then
    some (none_, 2)
  else
    match (List.range n).find? fun i => !(imageEntry s t i).clean with
    | some i => some (i, 2)
    | none =>
      if !grants s p false t (32 * n) then some (none_, 3)
      else ((List.range n).find? fun i => !imageOk s p (imageEntry s t i)).map fun i => (i, 3)

/-- Where a copy stands: done, waiting for a restore, or ended by a lost line. -/
inductive CopyEnd where
  | done
  | wait
  | lost
deriving DecidableEq, Repr

/-- Copy one entry with the panel's rights. -/
def copyImage (e : ImageEntry) (s : State) : CopyEnd × State :=
  if e.len = 0 then (.done, s)
  else
    match hubMeets [(e.src, e.len)] s with
    | (some (_, lost), s) => (if lost then .lost else .wait, s)
    | (none, s) =>
      if (lostPartly s e.dst e.len).isSome then (.lost, s)
      else if (inRoot e.src && !s.rootOld.isEmpty) || inRoot e.dst then
        (.done, writeBytes e.dst (readBytes s e.src e.len) (noteRead e.src e.len s))
      else (.done, tbTouch true e.dst e.len (copyMem e.src e.dst e.len (noteRead e.src e.len s)))

/-- Copy entries in order until one does not go through. -/
def copyImages : List ImageEntry → State → CopyEnd × State
  | [], s => (.done, s)
  | e :: es, s =>
    match copyImage e s with
    | (.done, s) => copyImages es s
    | r => r

/-- The resident model is replaced. -/
def setModel (p : Nat) (b : Bytes) (s : State) : State :=
  odCount 0x340B 6 1 { s with model :=
    { id := BitVec.ofNat 32 (fieldNat b 8 4), owner := some p, f := fieldNat b 28 2, lm := fieldNat b 30 2 } }

/-- The ring goes back to the fencing record and holds there. -/
def unfence (h r : Nat) (s : State) : State :=
  holdRefused h r (updRing h r (fun x => { x with head := x.head - 1, fence := none, fenceBody := [] }) s)

/-- The work of a MODEL record whose fence is clear. -/
def modelNow (h r n : Nat) (cqe : Bool) (tag : Nat) (s : State) : State :=
  match ringPanel s h r with
  | none => endFence h r n 0x32 cqe tag 0 0 s
  | some p =>
    let b := (ringOf s h r).fenceBody
    let t := fieldNat b 16 8
    match modelCause s p b with
    | some (i, cause) => postPanel p 0x3402 (hubBlock h) t (i + 2 ^ 32 * cause) (unfence h r s)
    | none =>
      match copyImages ((List.range (fieldNat b 24 4)).map (imageEntry s t)) s with
      | (.done, s) => endFence h r n 0x32 cqe tag 0 0 (setModel p b s)
      | (.wait, s) => s
      | (.lost, s) => endFence h r n 0x32 cqe tag 1 0x2601 s

/-- MODEL waits as a FENCE does. -/
def doModelRec (h r : Nat) (s : State) : State := withRec h r (·.type == 0x32) fenceRec s

/-- FENCE_CLEAR: every earlier record has completed. -/
def doFenceClear (h r : Nat) (s : State) : State :=
  let x := ringOf s h r
  match x.fence with
  | none => s
  | some (n, type, cqe, tag) =>
    if !x.open_.isEmpty then s
    else if type = 0x03 then publishNow h r n cqe tag.toNat s
    else if type = 0x32 then modelNow h r n cqe tag.toNat s
    else endFence h r n 0x02 cqe tag.toNat 0 0 s

/-! ### JOB (R265, R303) -/

/-- Does a path that is not quarantined lead to fabric ID f. -/
def reachable (s : State) (f : Nat) : Bool :=
  if native s then (orderedDir s false (fabricId s) f none).isSome
  else (List.range 24).any (linkUp s false)

/-- What keeps fabric ID f out of a job. -/
def jobFault (s : State) (f : Nat) : Option Nat :=
  match sget [] s.digests f with
  | [] => some 1
  | st :: _ => if st ≠ 1 then some 2 else if reachable s f then none else some 3

/-- First fabric ID at fault, with its cause. A module without a fabric ID joins no job (R384). -/
def jobCause (s : State) (set : Bytes) : Option (Nat × Nat) :=
  let fs := (List.range 256).filter fun f => (set.getD (f / 8) 0).getLsbD (f % 8)
  if !fabricSet s then some (fs.headD 0xFF, 3)
  else (fs.filter (· ≠ fabricId s)).findSome? fun f => (jobFault s f).map fun c => (f, c)

def doJobRec (h r : Nat) (s : State) : State :=
  withRec h r (·.type == 0x04) (fun c s =>
    if !c.zeroBut [(8, 4), (16, 32)] || c.field 8 4 = 0 then holdRec c s
    else
      match jobCause s ((c.body.drop 16).take 32) with
      | some (f, cause) => holdRec c (postPanel c.p 0x3103 c.hub f cause s)
      | none => doneRec c 0 0 (updRing h r (fun x => { x with job := BitVec.ofNat 32 (c.field 8 4) }) s)) s

/-! ### HINT (R335) -/

/-- Block of the power controller (Table 1.5). -/
def powerBlock : Nat := 0xB000

def hintCause (c : Rec) : Option Nat :=
  let hold := bitOf (c.field 9 1) 0
  let us := c.field 12 4
  if 7 < c.field 8 1 then some 1
  else if (if hold then us ≠ 0 else us = 0 || 10000000 < us) then some 2
  else if 2 ≤ c.field 9 1 || !c.zeroBut [(8, 2), (12, 4)] then some 3
  else none

def doHintRec (h r : Nat) (s : State) : State :=
  withRec h r (·.type == 0x30) (fun c s =>
    match hintCause c with
    | some cause => postPanel c.p 0x2001 powerBlock (c.n + 2 ^ 32 * c.r) cause (doneRec c 2 0x2001 s)
    | none =>
      doneRec c 0 0 (updPanel c.p (fun x => { x with hint := some ⟨c.field 8 1, bitOf (c.field 9 1) 0⟩ }) s)) s

/-- HINT_EXPIRY. With HOLD set a hint expires only in hardware mode. -/
def doHintExpiry (p : Nat) (s : State) : State :=
  match (panelOf s p).hint with
  | none => s
  | some x => if x.hold && odGet s 0x2000 1 = 1 then s else updPanel p (fun y => { y with hint := none }) s

/-! ### WORKLIST (R328) -/

/-- READY entries of the panel's sequence table: index and deadline. -/
def readyEntries (s : State) (p : Nat) : List (Nat × Nat) :=
  let t := odGet s 0x3403 (p + 1)
  ((List.range (odGet s 0x3404 (p + 1))).filter fun i => readNat s (t + 64 * i + 4) 1 = 2).map fun i =>
    (i, readNat s (t + 64 * i + 8) 8)

/-- Order of a step's batch: ascending deadline, none last, ties by index. -/
def earlier (a b : Nat × Nat) : Bool :=
  if a.2 = b.2 then a.1 ≤ b.1 else if a.2 = 0 then false else if b.2 = 0 then true else a.2 < b.2

/-- Put an entry in its place of an ordered list. -/
def placeEntry (e : Nat × Nat) : List (Nat × Nat) → List (Nat × Nat)
  | [] => [e]
  | x :: xs => if earlier x e then x :: placeEntry e xs else e :: x :: xs

/-- Build the list of step `st`. -/
def buildList (p st : Nat) (s : State) : State :=
  let t := odGet s 0x3403 (p + 1)
  let list := odGet s 0x3405 (p + 1)
  let taken := ((readyEntries s p).foldl (fun l e => placeEntry e l) []).take (odGet s 0x3406 (p + 1))
  let s := taken.foldl (fun s e => storeBytes (t + 64 * e.1 + 4) [3] s) s
  storeBytes list (toLe 4 st ++ toLe 4 taken.length ++ toLe 56 0 ++ taken.flatMap fun e => toLe 8 e.1) s

def worklistCause (s : State) (p n : Nat) : Option Nat :=
  if odGet s 0x3403 (p + 1) = 0 || odGet s 0x3405 (p + 1) = 0 || odGet s 0x3407 (p + 1) = 0 then some 1
  else if odGet s 0x3400 1 = 0 then (if n = 0 then none else some 2)
  else if n = 0 || odGet s 0x3406 (p + 1) < n then some 2
  else none

def doWorklistRec (h r : Nat) (s : State) : State :=
  withRec h r (·.type == 0x31) (fun c s =>
    let st := c.field 8 4
    let n := c.field 12 4
    match worklistCause s c.p n with
    | some cause => postPanel c.p 0x3404 c.hub st (n + 2 ^ 32 * cause) (holdRefused h r s)
    | none =>
      let s := if odGet s 0x3400 1 = 0 then buildList c.p st s else s
      let s := panelKnot c.p c.hub true (BitVec.ofNat 32 (odGet s 0x3407 (c.p + 1))) st s
      pumpCores c.p (doneRec c 0 0 (odCount 0x340B 7 1 s))) s

end Sys2Proof.Machine
end

