-- ==== Sys2Proof/Machine/Ports.lean ====
section
/-! DEFINITION. What befalls a Riloz port: retrain and host loss (R308–R310), re-attach (R311), the end of grace (R312), interrupt
hold-off (R307), and the fields that let kept completions go (R305, R414). -/
namespace Sys2Proof.Machine

/-! ### Retrain (R308) -/

/-- The port's link fails its frame checks and retrains: `failed` frames failed their CRC and `replayed` frames are sent again
(Table 13.11). -/
def doPortRetrain (h failed replayed : Nat) (s : State) : State :=
  if (portOf s h).st ≠ .up then s
  else portCount h 32 1 (portCount h 24 replayed (portCount h 16 failed (updPort h (fun x => { x with st := .retraining, retrains := x.retrains + 1 }) s)))

/-- Nothing of a core's moves is held in the replay buffer of port h any more. -/
def sentOut (h : Nat) (x : Core) : Core :=
  { x with moves := x.moves.map fun m => { m with heldAt := m.heldAt.filter (·.1 != h) } }

/-- The port is UP again and sends what its replay buffer kept. -/
def portBack (h : Nat) (s : State) : State :=
  let kept := (portOf s h).replay
  let s := (s.cores.map (·.1)).foldl (fun s c => updCore c (sentOut h) s) s
  kept.foldl (fun s x => portSend h x s) (updPort h (fun x => { x with st := .up, replay := [], waitHost := [] }) s)

/-! ### Host loss (R309, R310) -/

/-- Panels that own a slot on port h. -/
def panelsOn (s : State) (h : Nat) : List Nat :=
  (List.range 16).filter fun p => panelLive s p && portSlots (panelWindows s p) h ≠ 0

def maskOf (l : List Nat) : Nat := l.foldl (fun n i => n ||| 2 ^ i) 0

/-- Post an event about several panels to the management port and to each of them: identical copies (R7). -/
def postPanels (ps : List Nat) (code src a b : Nat) (s : State) : State :=
  let e := mkEvent code src (match ps with | [p] => p | _ => 0xFF) a b s
  ps.foldl (fun s p => postPanelEvent p e s) (postMgmtEvent e s)

/-- Change every ring of a panel. -/
def mapRings (p : Nat) (f : Ring → Ring) (s : State) : State :=
  { s with rings := s.rings.map fun e => if ownerOfSlot s (e.1 / 64) (e.1 % 64 / 16) = some p then (e.1, f e.2) else e }

/-- The hub takes no records from the panel's rings. -/
def quiesceRing (x : Ring) : Ring := if x.st = .running || x.st = .held then { x with st := .quiesced } else x

/-- Rings of a panel that is no longer quiesced go back to where they stood. -/
def unquiesceRing (x : Ring) : Ring :=
  if x.st = .quiesced then { x with st := if x.cause = 0 then .running else .held } else x

def quiescePanel (h : Nat) (s : State) (p : Nat) : State :=
  mapRings p quiesceRing (updPanel p (fun x => { x with quiesced := x.quiesced ++ [h] }) s)

/-- Every move of every core. -/
def allMoves (s : State) : List (Nat × Move) := s.cores.flatMap fun e => e.2.moves.map fun m => (e.1, m)

def doHostLost (h : Nat) (s : State) : State :=
  let x := portOf s h
  if x.st ≠ .up && x.st ≠ .retraining then s
  else
    let s := portCount h 40 1 (portCount h 80 x.replay.length s)
    let s := updPort h (fun x => { x with
      st := .hostlost, grace := true, losses := x.losses + 1, replay := [], irqPend := [], waitHost := [] }) s
    let s := (allMoves s).foldl (fun s e => loseHost h e.1 e.2 s) s
    let ps := panelsOn s h
    let s := ps.foldl (quiescePanel h) s
    postPanels ps 0x3304 (rilozBlock h) h (maskOf ps) s

/-! ### Re-attach (R311) -/

/-- A move that a host loss stopped goes on from its cursor; one with every chunk delivered has a cursor past its counts. -/
def resumeLost (h : Nat) (s : State) (e : Nat × Move) : State :=
  match panelOnCore s e.1 with
  | some p =>
    if e.2.hostlost && e.2.writesPort h then
      resumeMove e.1 p e.2 ((cursorRun e.2.d (readCursor s e.1 e.2.d.addr)).getD e.2.d.runs) s
    else s
  | none => s

/-- Put a held completion in its place, by record index. -/
def placeHeld (d : HeldCompl) : List HeldCompl → List HeldCompl
  | [] => [d]
  | x :: xs => if x.recIdx ≤ d.recIdx then x :: placeHeld d xs else d :: x :: xs

/-- Completions that the port kept for ring r, in record order. -/
def heldFor (x : Port) (r : Nat) : List HeldCompl :=
  (x.held.filter (·.ring == r)).foldl (fun l d => placeHeld d l) []

/-- The held completions of ring r join those that wait for room, and go out. -/
def releaseHeld (h : Nat) (s : State) (r : Nat) : State :=
  let ds := heldFor (portOf s h) r
  flushRing h r (65 + ds.length) (updRing h r (fun x => { x with kept := false, waitC := x.waitC ++ ds }) s)

/-- Panel p is no longer quiesced by port h. -/
def resumePanel (h : Nat) (s : State) (p : Nat) : State :=
  let s := updPanel p (fun x => { x with quiesced := x.quiesced.erase h, evKept := false }) s
  if panelQuiesced s p then s else mapRings p unquiesceRing s

def checkRings (h : Nat) (s : State) : State := (List.range 64).foldl (fun s r => checkHead h r s) s

def doAttach (h : Nat) (s : State) : State :=
  if (portOf s h).st ≠ .hostlost then s
  else
    let was := (List.range 16).filter fun p => (panelOf s p).quiesced.contains h
    let s := updPort h (fun x => { x with st := .up, grace := false }) s
    let s := was.foldl (resumePanel h) s
    let s := (allMoves s).foldl (resumeLost h) s
    let s := (List.range 64).foldl (releaseHeld h) s
    let s := updPort h (fun x => { x with held := [] }) s
    let s := (panelsOn s h).foldl (fun s p => flushEvents p 257 s) s
    let ps := was.filter fun p => !panelQuiesced s p
    pumpAll ((List.range 4).foldl (fun s i => checkRings i s) (postPanels ps 0x3305 (rilozBlock h) h (maskOf ps) s))

/-! ### The end of grace (R312) -/

/-- Slot and ring blocks of port h return to zero. -/
def zeroPortBlocks (h : Nat) (s : State) : State :=
  let s := (List.range 4).foldl (fun s w => dropCache h w (fun _ => true) (updSlot h w (fun _ => {}) s)) s
  (List.range 64).foldl (fun s r => updRing h r (fun _ => {}) s) s

def graceReset (h : Nat) (s : State) (p : Nat) : State :=
  postBoth p 0x1804 (panelHub s p) p 2 (updPanel p (fun x => { x with quiesced := x.quiesced.erase h }) (resetPanel p s))

def doHostGrace (h : Nat) (s : State) : State :=
  let x := portOf s h
  if x.st ≠ .hostlost || !x.grace then s
  else
    let ps := (List.range 16).filter fun p => (panelOf s p).quiesced.contains h
    let s := ps.foldl (graceReset h) s
    let s := updPort h (fun x => { x with grace := false, held := [] }) (zeroPortBlocks h s)
    pumpAll (postMgmt (match ps with | [p] => p | _ => 0xFF) 0x3306 (rilozBlock h) h (maskOf ps) s)

/-! ### Vectors, doorbell grace, consumers -/

def doIrqHoldoff (h : Nat) (v : Word16) (s : State) : State :=
  let x := portOf s h
  if !x.irqBusy.contains v then s
  else
    let s := updPort h (fun x => { x with irqBusy := x.irqBusy.erase v, irqPend := x.irqPend.erase v }) s
    if x.irqPend.contains v then raiseVector h v s else s

/-- DOORBELL_GRACE_EXPIRY: the head record is still not valid (R300). A ring that still takes records then began its wait in hardware
mode, which it ends in (R399). -/
def doDoorbellGrace (h r : Nat) (s : State) : State :=
  let x := ringOf s h r
  if taking x && !phaseValid x x.head (recordAt s x x.head) then holdInvalid h r s else s

def doComplConsumer (h r : Nat) (v : Word32) (s : State) : State :=
  if (ringPanel s h r).isNone then s
  else checkHead h r (retryRing h r (updRing h r (fun x => { x with cCons := v }) s))

/-- BAR2_READ: the read itself answers all ones. -/
def doBar2Read (h : Nat) (s : State) : State := if (portOf s h).st = .down then s else portCount h 72 1 s

/-- `riloz.port_state`: bytes 0–15 of the port block. The grace that remains is a time, and free. -/
def portStateBytes (s : State) (h : Nat) : Bytes × State :=
  let x := portOf s h
  let code := match x.st with
    | .down => 0
    | .training => 1
    | .up => 2
    | .retraining => 3
    | .hostlost => 4
  let (g, s) := if x.grace then (let v := freshVal s; (v.1.toNat % (odGet s 0x3300 3 * 1000 + 1), v.2)) else (0, s)
  (toLe 1 h ++ toLe 1 code ++ toLe 1 x.lanes ++ [0] ++ toLe 4 g ++ toLe 4 x.retrains ++ toLe 4 x.losses, s)

end Sys2Proof.Machine
end

