-- ==== Sys2Proof/Machine/Power.lean ====
section
/-! DEFINITION. The power controller (R333–R346): operating point, issue ceiling, PWRBRK_N, droop, input voltage and heat, and
what a module-fatal condition does (R375). -/
namespace Sys2Proof.Machine

def updPower (f : Power → Power) (s : State) : State := { s with power := f s.power }

/-- A module-fatal condition (R375): READY falls, ALERT_N is asserted, the cause is kept, and event 0x1902 goes out, which is about
the whole module (R18). The conditions stand from the time the module has power, also before READY, so a root PLL that never
locks is one of them (DESIGN CHOICE: R14 speaks of a loss of lock after READY alone). -/
def fatal (cause tile : Nat) (s : State) : State :=
  if !powered s || s.startup.fatal then s
  else
    let s := { s with pins := { s.pins with ready := false }, startup := { s.startup with fatal := true } }
    let s := odPut 0x1905 0 cause s
    alertLevel (postMgmt 0xFF 0x1902 (hubBlock 0) cause tile s)

/-! ### Operating point (R334, R337, R340) -/

/-- Byte f of `power.phase_op`; a phase that Table 4.5 does not name counts as idle. -/
def phaseOp (s : State) (f : Nat) : Nat := odGet s 0x2000 3 / 256 ^ (min f 5) % 256 % 8

/-- The phase that a logical core counts with. -/
def powerPhase (s : State) (c : Nat) : Nat := if (coreOf s c).kid = 0 then 5 else (coreOf s c).phase

def maxOf (l : List Nat) : Nat := l.foldl max 0

/-- The request before clamping: phases and hints in hardware mode, hints or idle points of OPEN panels in host mode. -/
def rawRequest (s : State) : Nat :=
  let open_ := (List.range 16).filter fun p => panelOpen s p
  if odGet s 0x2000 1 = 0 then
    max (maxOf ((List.range 128).map fun c => phaseOp s (powerPhase s c)))
      (maxOf (open_.map fun p => (((panelOf s p).hint).map (·.op)).getD 0))
  else maxOf (open_.map fun p => (((panelOf s p).hint).map (·.op)).getD (phaseOp s 5))

/-- q of R334. -/
def requestedOp (s : State) : Nat := min (max (rawRequest s) (odGet s 0x2000 4)) (odGet s 0x2000 5)

/-- A rank-2 condition of R340 forces OP0. -/
def opForced (x : Power) : Bool := x.pwrbrk || x.thermLimit || x.underV

/-- Start a change towards OP0 where one is needed. -/
def forceOp0 (x : Power) : Power := { x with target := if x.op = 0 then none else some 0, lowCount := 0, lowMax := 0 }

/-- A rank-2 condition has ended: with none left the module returns to q. -/
def releaseOp0 (x : Power) : Power :=
  if opForced x then x else { x with target := if x.op = x.q then none else some x.q }

/-- A new q against the point in force: a raise at once, a lowering after a whole window of lower requests, to the highest
of them. -/
def requestStep (window q : Nat) (x : Power) : Power :=
  let x := { x with q := q }
  if opForced x then { forceOp0 x with q := q }
  else if x.op < q then { x with target := some q, lowCount := 0, lowMax := 0 }
  else if q = x.op then { x with lowCount := 0, lowMax := 0 }
  else
    let n := x.lowCount + 1
    let m := max x.lowMax q
    if window ≤ n then { x with target := some m, lowCount := 0, lowMax := 0 } else { x with lowCount := n, lowMax := m }

def doOpRequest (s : State) : State :=
  if !powered s then s else updPower (requestStep (odGet s 0x2000 6 / 10) (requestedOp s)) s

/-- The change that is due (R337): the ceiling is at most 4 when the divider switches. -/
def doOpChange (s : State) : State :=
  match s.power.target with
  | none => s
  | some t =>
    if !powered s then s
    else if t = s.power.op then updPower (fun x => { x with target := none }) s
    else odCount 0x2002 2 1 (updPower (fun x => { x with op := t, target := none, ceiling := min x.ceiling 4 }) s)

/-! ### Ceiling and cap (R336, R338) -/

/-- The largest ceiling whose predicted power is within the cap. -/
def capCeiling (mw cap k : Nat) : Nat :=
  ((List.range 17).reverse.find? fun (j : Nat) => decide (Config.predictPower mw k j ≤ cap * 1000)).getD 0

def doCapUpdate (mw : Nat) (s : State) : State :=
  if !powered s then s
  else
    let t := capCeiling mw (odGet s 0x2000 2) s.power.ceiling
    odCount 0x2002 5 (if t < 16 then 10 else 0) (updPower (fun x => { x with capTarget := t }) s)

/-- Lowest target of the ceiling. -/
def ceilingTarget (x : Power) : Nat := min (min x.capTarget x.thermTarget) 16

/-- One step towards the lowest target. The cc of admission lost meanwhile are a free number. -/
def doCeilingStep (s : State) : State :=
  if !powered s then s
  else
    let k := s.power.ceiling
    let t := ceilingTarget s.power
    let s := if k < 16 then (let v := freshVal s; odCount 0x2002 1 (v.1.toNat % 2 ^ 32) v.2) else s
    updPower (fun x => { x with ceiling := if k < t then k + 1 else if t < k then k - 1 else k }) s

/-! ### PWRBRK_N, droop, input voltage (R341, R342) -/

def doPwrbrkAssert (s : State) : State :=
  if !s.pins.pwrbrkN then s
  else
    let s := { s with pins := { s.pins with pwrbrkN := false } }
    if !powered s || s.startup.fatal then s else odCount 0x2002 3 1 (updPower (fun x => forceOp0 { x with pwrbrk := true }) s)

def doPwrbrkDeassert (s : State) : State :=
  if s.pins.pwrbrkN then s
  else
    let s := { s with pins := { s.pins with pwrbrkN := true } }
    if !powered s || s.startup.fatal then s else updPower (fun x => releaseOp0 { x with pwrbrk := false }) s

def doDroopDetect (g : Nat) (s : State) : State :=
  if powered s && g < 16 then updGroup g (fun x => { x with droop := true }) s else s

/-- Skipping ends; U64 number g of `power.droop_skips` has grown by the edges omitted. -/
def doDroopRecover (g skipped : Nat) (s : State) : State :=
  if powered s && (groupOf s g).droop then
    let v := odGet s 0x2003 0
    let w := v / 2 ^ (64 * g) % 2 ^ 64
    odPut 0x2003 0 (v - w * 2 ^ (64 * g) + (w + skipped) % 2 ^ 64 * 2 ^ (64 * g))
      (updGroup g (fun x => { x with droop := false }) s)
  else s

def doUndervoltage (mv : Nat) (s : State) : State :=
  if !powered s || 40000 ≤ mv then s
  else
    let was := s.power.underV
    let s := updPower (fun x => forceOp0 { x with underV := true, inputMv := mv }) s
    if was then s else postMgmt 0xFF 0x2004 powerBlock mv 0 s

def doVoltageRecover (mv : Nat) (s : State) : State :=
  if !powered s || !s.power.underV then s
  else if mv < 41000 then updPower (fun x => { x with inputMv := mv }) s
  else updPower (fun x => releaseOp0 { x with underV := false, inputMv := mv }) s

/-- Below 36 V for more than 1 ms. -/
def doBrownout (s : State) : State :=
  if s.power.underV && s.power.inputMv < 36000 then fatal 2 0xFF s else s

/-! ### Heat (R343) -/

/-- Temperatures in °C of the 20 junction sensors and of the 16 stacks. -/
def junctions (ts : List (BitVec 8)) : List Int := (ts.take 20).map (·.toInt)
def stackTemps (ts : List (BitVec 8)) : List Int := ((ts.drop 20).take 16).map (·.toInt)

/-- The first junction at or above `t`. -/
def hotSensor (t : Int) (ts : List (BitVec 8)) : Option Nat := (junctions ts).findIdx? fun x => decide (t ≤ x)

def sensorTemp (ts : List (BitVec 8)) (i : Nat) : Nat := (ts.getD i 0).toNat

/-- Tile of a junction sensor. -/
def sensorTile (i : Nat) : Nat := if i < 16 then i / 4 else i - 16

/-- Every junction reads 97 °C or less. -/
def junctionsCool (ts : List (BitVec 8)) : Bool := (junctions ts).all fun x => decide (x ≤ 97)

/-- Throttle: the thermal target moves by one step. -/
def throttle (ts : List (BitVec 8)) (x : Power) : Power :=
  if (junctions ts).any (fun t => decide (100 ≤ t)) || (stackTemps ts).any (fun t => decide (95 ≤ t)) then
    { x with thermTarget := x.thermTarget - 1 }
  else if junctionsCool ts && (stackTemps ts).all (fun t => decide (t ≤ 92)) then
    { x with thermTarget := min 16 (x.thermTarget + 1) }
  else x

/-- Limit: OP0 is forced at 105 °C, and let go when every junction is cool. -/
def thermalLimit (ts : List (BitVec 8)) (s : State) : State :=
  if s.power.thermLimit then
    (if junctionsCool ts then updPower (fun x => releaseOp0 { x with thermLimit := false }) s else s)
  else
    match hotSensor 105 ts with
    | none => s
    | some i => postMgmt 0xFF 0x2002 powerBlock i (sensorTemp ts i)
        (updPower (fun x => forceOp0 { x with thermLimit := true }) s)

/-- Trip: THERM_TRIP_N, event 0x2003, and the module-fatal condition. -/
def thermalTrip (ts : List (BitVec 8)) (s : State) : State :=
  match hotSensor 115 ts with
  | none => s
  | some i =>
    let s := { s with pins := { s.pins with thermTripN := false } }
    fatal 3 (sensorTile i) (postMgmt 0xFF 0x2003 powerBlock i (sensorTemp ts i) s)

def keepTemps (ts : List (BitVec 8)) (x : Power) : Power :=
  { x with temps := (List.range 36).foldl (fun m i => sset 0 m i (ts.getD i 0)) [] }

/-- A sample of all 36 sensors, 100 µs after the last. -/
def heatStep (ts : List (BitVec 8)) (s : State) : State :=
  if !powered s || ts.length ≠ 36 then s
  else
    let s := odCount 0x2002 4 (if s.power.thermTarget < 16 then 100 else 0) s
    thermalTrip ts (thermalLimit ts (updPower (fun x => throttle ts (keepTemps ts x)) s))

end Sys2Proof.Machine
end

