-- ==== Sys2Proof/Machine/Startup.lean ====
section
/-! DEFINITION. Start-up, the image and READY (R349–R353), module and warm reset, power removal, low-power states (R354–R363),
and what ends a wait for cool junctions (R406). -/
namespace Sys2Proof.Machine

/-! ### What a start keeps (Table 16.4) -/

/-- Entries of the object dictionary of the classes that a test picks out. -/
def keepClasses (pick : OdClass → Bool) (od : Sparse (Option Nat)) : Sparse (Option Nat) :=
  od.filter fun e => match classOf e.1 with
    | some c => pick c
    | none => false

/-- V entries, counters and baselines return to their defaults (R354, R355). -/
def defaultV (s : State) : State :=
  { s with
    od := keepClasses (· != .v) s.od
    base := []
    panels := s.panels.map fun e => (e.1, { e.2 with phaseNs := [] })
    links := s.links.map fun e => (e.1, { e.2 with ctr := [] })
    ports := s.ports.map fun e => (e.1, { e.2 with ctr := [] }) }

/-- Core group g as BIST leaves it (R349 step 3). -/
def bistGroup (g : Nat) : Group :=
  let b := Config.bistBad g
  if b < 9 then
    { phys := (List.range 8).map fun i => if i = b then 8 else i, spare := b, spareUsable := false, unusable := [b] }
  else {}

/-- Ports as a start finds them: down, or as they stood when they kept their power (D3). -/
def keepPort (x : Port) : Port :=
  { st := x.st, lanes := x.lanes, out := x.out }

/-- Everything that a module reset or D3 does not keep. -/
def wipe (ports : Bool) (s : State) : State :=
  { State.reset with
    pending := s.pending
    fresh := s.fresh
    od := keepClasses (fun c => c == .k || c == .m) s.od
    panels := (s.panels.filter fun e => decide (e.2.epochs ≠ [])).map fun e => (e.1, { epochs := e.2.epochs })
    links := (s.links.filter fun e => decide (e.2.out ≠ [])).map fun e => (e.1, { out := e.2.out })
    ports := if ports then s.ports.map fun e => (e.1, keepPort e.2)
      else (s.ports.filter fun e => decide (e.2.out ≠ [])).map fun e => (e.1, { out := e.2.out })
    root := { mode := BitVec.ofNat 8 (odGet s 0x2600 1), parity := BitVec.ofNat 8 (odGet s 0x2600 2)
              ports := s.root.ports.filterMap fun e => if e.2.locked then some (e.1, { st := 2, locked := true }) else none }
    historyLen := odGet s 0x2200 2
    power := { energy := s.power.energy, underV := s.power.underV, inputMv := s.power.inputMv, temps := s.power.temps }
    pins := { s.pins with ready := false }
    mgmt := s.mgmt
    paths := (s.paths.filter fun e => e.1 = 0 && decide ({ e.2 with seg := none, ended := none } ≠ ({} : OdPath))).map
      fun e => (e.1, { e.2 with seg := none, ended := none })
    hubs := { repaired := s.hubs.repaired }
    attest := { leaf := s.attest.leaf } }

/-- What power removal leaves: the module store, spare rows used, and the levels that the chassis drives (R406). -/
def powerOff (s : State) : State :=
  { State.reset with
    pending := s.pending
    fresh := s.fresh
    od := keepClasses (· == .k) s.od
    panels := (s.panels.filter fun e => decide (e.2.epochs ≠ [])).map fun e => (e.1, { epochs := e.2.epochs })
    root := { mode := BitVec.ofNat 8 (odGet s 0x2600 1), parity := BitVec.ofNat 8 (odGet s 0x2600 2) }
    pins := { pwrEn := s.pins.pwrEn, modRstN := s.pins.modRstN, pwrbrkN := s.pins.pwrbrkN, enumIn := s.pins.enumIn }
    hubs := { repaired := s.hubs.repaired }
    attest := { leaf := s.attest.leaf } }

/-! ### The start (R349, R351–R353) -/

def setPhase (p : SPhase) (s : State) : State := { s with startup := { s.startup with phase := p } }

/-- Steps 3 and 4: cores by BIST, ports up, and the module waits for an image. Ports that kept their power stand as they are. -/
def toImageWait (s : State) : State :=
  let gs := (List.range 16).foldl (fun m g => sset {} m g (bistGroup g)) []
  let s := { setPhase (.step 2) s with groups := gs }
  (List.range 4).foldl (fun s h =>
    if (portOf s h).st = .down then updPort h (fun x => { x with st := .up, lanes := 8 }) s else s) s

/-- The temperatures last read. -/
def lastTemps (s : State) : List (BitVec 8) := (List.range 36).map fun i => sget 0 s.power.temps i

/-- Step 2 after MOD_RST_N: it waits for cool junctions (R406). -/
def startFromReset (s : State) : State :=
  if junctionsCool (lastTemps s) then toImageWait s else setPhase (.step 0) s

def fwArea (stack : Nat) : Nat := stack * stackSize + fwOffset

/-- Stack whose firmware area a source stages into (R351, R387). -/
def sourceStack (src : Nat) : Nat := if src < 4 then 4 * src else 0

/-- Cause of `startup.boot_status` for a staged image (R352). -/
def imageCause (b : Bytes) (floor : Nat) : Option Nat :=
  let L := fieldNat b 16 8
  if b.take 4 ≠ [0x47, 0x4A, 0x46, 0x57] || fieldNat b 4 2 ≠ 1 then some 1
  else if fieldNat b 6 1 ≠ 0xB0 then some 2
  else if b.length < 128 + L then some 3
  else if sha256 ((b.drop 24).take 60) ≠ Config.rootKeyHash then some 4
  else if !Config.hssVerify ((b.drop 24).take 60) (b.take (128 + L)) (b.drop (128 + L)) then some 5
  else if fieldNat b 12 4 < floor then some 6
  else none

/-- The image is not run: what its source staged is discarded, and the cause is told. -/
def refuseImage (src cause : Nat) (s : State) : State :=
  let s := { scrub (fwArea (sourceStack src)) 0x400_0000 s with
    startup := { s.startup with staged := s.startup.staged.filter fun i => sourceStack i ≠ sourceStack src, imgLen := 0 } }
  postMgmt 0xFF 0x1801 (hubBlock 0) cause src (odPut 0x1800 2 cause s)

/-- READY is asserted: the pin, the state, and the time it took, `startup.ready_ms`, which is free. -/
def assertReady (s : State) : State :=
  let (v, s) := freshVal { setPhase (.step 5) s with pins := { s.pins with ready := true } }
  odPut 0x1800 0xD (v.toNat % 2 ^ 32) s

/-- READY at the end of a start or of a warm reset: the port block counts from it, and event 0x1802 tells the reset (R360). -/
def becomeReady (s : State) : State :=
  let s := assertReady { s with ports := s.ports.map fun e => (e.1, { e.2 with retrains := 0, losses := 0 }) }
  postMgmt 0xFF 0x1802 (hubBlock 0) (odGet s 0x1800 0xB) (odGet s 0x1800 0xC) s

/-- Steps 5 to 7 of an accepted image: it lies in every firmware area, Crown is zero, and the firmware starts. -/
def runImage (b : Bytes) (s : State) : State :=
  let sec := fieldNat b 12 4
  let s := if bitOf (fieldNat b 7 1) 0 then odPut 0x1800 6 (max sec (odGet s 0x1800 6)) s else s
  let s := { s with
    mem := (List.range 16).foldl (fun m k => memWrite (memZero m (k * stackSize) fwOffset) (fwArea k) b) s.mem
    startup := { s.startup with
      staged := [], imgLen := 0, fwVersion := BitVec.ofNat 32 (fieldNat b 8 4), fwHash := sha256 b, fwLen := b.length
      running := true }
    time := 0 }
  let s := updPower (fun x => if s.pins.pwrbrkN then x else forceOp0 { x with pwrbrk := true }) s
  digestChanged (becomeReady s)

/-- A write of `startup.boot`. -/
def writeBoot (src : Nat) (s : State) : Nat × State :=
  if 4 < src then (0x06, s)
  else if s.startup.phase ≠ .step 2 then (0x08, s)
  else if s.startup.imgLen = 0 || !s.startup.staged.contains src then (0, refuseImage src 7 s)
  else
    let b := readBytes s (fwArea (sourceStack src)) s.startup.imgLen
    match imageCause b (odGet s 0x1800 6) with
    | some cause => (0, refuseImage src cause s)
    | none => (0, runImage b (odPut 0x1800 2 0 s))

/-- A write of `startup.image_length`. -/
def writeImageLength (n : Nat) (s : State) : Nat × State :=
  if s.startup.phase ≠ .step 2 then (0x08, s)
  else if n = 0 || 67108864 < n then (0x06, s)
  else (0, { s with startup := { s.startup with imgLen := n } })

/-- Image bytes of a source stand in a firmware area. -/
def markStaged (src : Nat) (s : State) : State :=
  { s with startup := { s.startup with staged := if s.startup.staged.contains src then s.startup.staged
      else s.startup.staged ++ [src] } }

/-- Image bytes from a source go into the firmware area of its stack. -/
def stage (src o : Nat) (b : Bytes) (s : State) : State := markStaged src (storeBytes (fwArea (sourceStack src) + o) b s)

/-- A host write to BAR2 before READY: only window 0, below 64 MiB, while the module waits for an image (R351). -/
def stageWrite (h o : Nat) (d : Bytes) (s : State) : State :=
  if s.startup.phase = .step 2 && o + d.length ≤ 0x400_0000 && h < 4 then countInbound h d.length (stage h o d s)
  else portCount h 64 1 s

/-! ### Power and module reset -/

/-- POWER_ON. Calibration from the cache or in full differs in time only. -/
def doPowerOn (s : State) : State :=
  if s.startup.phase ≠ .off then s
  else
    let s := powerOff s
    let s := { s with pins := { s.pins with pwrEn := true } }
    if s.pins.modRstN then toImageWait s else setPhase .held s

def doPowerRemoval (s : State) : State := powerOff { s with pins := { s.pins with pwrEn := false } }

/-- Above 61 V the input is disconnected: power removal, whatever PWR_EN shows (R409). -/
def doOvervoltage (mv : Nat) (s : State) : State := if 61000 < mv then powerOff s else s

/-- What a start keeps, with its kind in `startup.last_reset` and the count. -/
def beginReset (ports : Bool) (kind : Nat) (s : State) : State :=
  let s := odPut 0x1800 0xB kind (wipe ports s)
  alertLevel (if kind = 3 then s else odCount 0x1800 0xC 1 s)

def doResetAssert (s : State) : State :=
  if !s.pins.modRstN then s
  else
    let kind := if s.pins.thermTripN then 1 else 4
    let s := { s with pins := { s.pins with modRstN := false } }
    if s.startup.phase = .off then s
    else setPhase .held (beginReset false kind { s with pins := { s.pins with thermTripN := true } })

def doResetRelease (s : State) : State :=
  if s.pins.modRstN then s
  else
    let s := { s with pins := { s.pins with modRstN := true } }
    if s.startup.phase = .held then startFromReset s else s

/-- A module reset by `startup.reset`; a module whose THERM_TRIP_N is asserted has no regulators to start with. -/
def moduleReset (s : State) : State :=
  if !powered s || !s.pins.thermTripN then s else toImageWait (beginReset false 1 s)

/-! ### Warm reset (R361) -/

/-- Contents of the dirty lines of the tile buffers are lost: free bytes. -/
def loseLine (s : State) (l : TbLine) : State :=
  if l.dirty then (let v := freshBytes 256 s; storeBytes (l.line * 256) v.1 v.2) else s

def loseTb (s : State) : State := { s.tb.foldl loseLine s with tb := [] }

/-- Every core store, bank and slot becomes zero; a core's marks of failure stay. -/
def zeroAllCores (s : State) : State := (List.range 128).foldl zeroCore (scrub storeBase (storeEnd - storeBase) s)

/-- The copy of the firmware in a tile's own stack is the one recorded at delivery. -/
def copyGood (s : State) (t : Nat) : Bool :=
  sha256 (readBytes s (fwArea (4 * t)) s.startup.fwLen) == s.startup.fwHash &&
    (lostIn s (fwArea (4 * t)) s.startup.fwLen).isNone

/-- Steps 1 to 4: kernels, waits and cores. -/
def warmClear (s : State) : State :=
  let s := (List.range 16).foldl (fun s p => dropKernels p s) s
  let s := zeroAllCores { s with waiters := [], tableQ := [] }
  let s := { s with tables := s.tables.map fun e => (e.1, { e.2 with merge := [], flight := [], jobs := [] }) }
  let s := loseTb s
  (List.range 4).foldl (fun s t => ((List.range 16).filter (panelLive s)).foldl (fun s p =>
    (directWays s p t).foldl (fun s w => scrub (wayBase t w) 0x30_0000 s) s) s) s

/-- A warm reset. One asked for during a start or in D3 is part of the wider one (R359). -/
def warmReset (s : State) : State :=
  if !s.startup.running then s
  else if !(List.range 4).all (copyGood s) then moduleReset s
  else
    let s := defaultV (warmClear s)
    let s := odCount 0x1800 0xC 1 (odPut 0x1800 0xB 2 s)
    pumpAll (becomeReady { s with
      startup := { s.startup with dstate := 0 }
      hubs := { s.hubs with dead := State.reset.hubs.dead, serving := State.reset.hubs.serving } })

/-- A write of `startup.reset`. -/
def writeReset (v : Nat) (s : State) : Nat × State :=
  if v = 1 then (0, moduleReset s) else if v = 2 then (0, warmReset s) else (0x06, s)

/-! ### Low-power states (R356–R358) -/

def setD (n : Nat) (s : State) : State :=
  { s with startup := { s.startup with dstate := n, phase := if n = 0 then .step 5 else .dstate } }

/-- In D1 a doorbell, an inbound write, an Ashlink packet or a write of the object dictionary wakes the module. -/
def wakeD1 (s : State) : State := if s.startup.dstate = 1 then setD 0 s else s

/-- Leave D2: READY again, and what waited on its knots is looked at again. -/
def leaveD2 (s : State) : State :=
  if s.startup.dstate = 2 then pumpAll (assertReady (setD 0 s)) else s

/-- What the hubs and cores do in D0 only, and what goes on in D1 too. -/
def atD0 (f : State → State) (s : State) : State := if s.startup.running && s.startup.dstate = 0 then f s else s
def atD1 (f : State → State) (s : State) : State := if s.startup.running && s.startup.dstate ≤ 1 then f s else s

/-- A doorbell wakes the module from D1 and D2. -/
def wakeDoorbell (s : State) : State := leaveD2 (wakeD1 s)

/-- Panels with a kernel that waits, runs or is pre-empted. -/
def kernelPanels (s : State) : List Nat := (List.range 16).filter (panelKernels s)

/-- What bars a low-power state. -/
def busyForD (s : State) : Bool :=
  anyKernel s || !s.colls.isEmpty || (List.range 16).any fun p => (panelOf s p).snap.isSome

def enterD2 (s : State) : State :=
  let s := defaultV (zeroAllCores (tbDrop (fun _ => true) s))
  { setD 2 s with pins := { s.pins with ready := false } }

def enterD3 (s : State) : State := setD 3 (wipe true s)

/-- A write of `startup.power_state`. -/
def writePowerState (v : Nat) (s : State) : Nat × State :=
  let d := s.startup.dstate
  if 3 < v then (0x06, s)
  else if v = d then (0, s)
  else if d = 3 then (if v = 0 then (0, toImageWait (beginReset true 3 s)) else (0x08, s))
  else if !s.startup.running then (0x08, s)
  else if v = 0 then (0, leaveD2 (wakeD1 s))
  else if busyForD s then
    (0x08, postMgmt 0xFF 0x1803 (hubBlock 0) v (maskOf (kernelPanels s)) s)
  else
    let s := leaveD2 (wakeD1 s)
    (0, if v = 1 then setD 1 s else if v = 2 then enterD2 s else enterD3 s)

/-! ### Idleness (R357) -/

def coreQuiet (x : Core) : Bool := x.moves.isEmpty && x.remoteWait.isNone

def panelQuiet (x : Panel) : Bool :=
  x.snap.isNone && x.st ≠ .releasing && match x.streamer with
    | some y => y.next = y.done
    | none => true

def tableQuiet (s : State) (x : TableSlot) : Bool :=
  x.merge.isEmpty && x.flight.isEmpty && x.jobs.isEmpty && (x.owner.isNone || !windowOpen s (tableDesc x.desc))

def slotQuiet (x : SeamSlot) : Bool := x.st ≠ .filling && x.st ≠ .releasing

def qpQuiet (x : Qp) : Bool := x.unacked.isEmpty && x.inMsgs.isEmpty && x.waiting.isEmpty

def moduleIdle (s : State) : Bool :=
  s.kernels.isEmpty && s.colls.isEmpty && s.cores.all (fun e => coreQuiet e.2) && s.panels.all (fun e => panelQuiet e.2) &&
  s.tableQ.isEmpty && s.tables.all (fun e => tableQuiet s e.2) && s.root.rebuilding.isNone &&
  s.seam.slots.all (fun e => slotQuiet e.2) && s.qps.all (fun e => qpQuiet e.2) &&
  s.rings.all (fun e => e.2.head == e.2.tail && (e.2.fence.map (·.2.1)) != some 0x32) && s.paths.all fun e => e.2.seg.isNone

/-- D1_IDLE_EXPIRY. -/
def doD1Idle (s : State) : State :=
  if s.startup.running && s.startup.dstate = 0 && odGet s 0x1800 0xA ≠ 0 && moduleIdle s then setD 1 s else s

/-- A temperature sample; a start that waits in step 2 goes on when the junctions are cool. -/
def doThermal (ts : List (BitVec 8)) (s : State) : State :=
  let s := heatStep ts s
  if s.startup.phase = .step 0 && !s.startup.fatal && junctionsCool (lastTemps s) then toImageWait s else s

end Sys2Proof.Machine
end

