-- ==== Sys2Proof/Machine/Faults.lean ====
section
/-! DEFINITION. Spare cores and replay (R366–R370, R400), hubs (R373), and Crown's patrol and row repair (R371). -/
namespace Sys2Proof.Machine

/-! ### Remap and replay (R367) -/

/-- The spare takes the place of logical core c; the failed core becomes an unusable spare (R9). -/
def remapGroup (c : Nat) (x : Group) : Group :=
  let j := c % 8
  let was := x.phys.getD j j
  { x with phys := x.phys.set j x.spare, spare := was, spareUsable := false, unusable := x.unusable ++ [was] }

/-- A core after the copy: what the copy does not hold is gone, and nothing is in a queue. -/
def copiedCore (x : Core) : Core :=
  { x with
    queues := [], moves := [], merge := none, drained := [], remoteWait := none, missed := 0
    failed := false, awaitHost := false, ended := false, yielded := false
    arrays := x.arrays.map fun e => (e.1, { bank := e.2.bank, rows := e.2.rows })
    suppress := x.replay, seen := [], seenLeft := x.seen, reservedSkip := x.reserved, replaying := true }

/-- The store of the group's spare is that of the core that failed (R16): it holds what the copy has taken from it. -/
def copyStore (c : Nat) (s : State) : State := copyMem (coreStore c) (storeBase + (9 * (c / 8) + 8) * slotSize) storeSize s

/-- Restore from the newer commit record, or the start state where there is none (R367 step 4). -/
def restoreCommit (c p : Nat) (k : Kernel) (s : State) : State :=
  let x := coreOf s c
  let s :=
    if x.commitSeq = 0 then
      updCore c (fun x => { x with
        pc := 0, loops := [], areg := [], step := k.step, seed := k.seed, remote := x.commit0.remote }) s
    else
      let v := if x.commitSeq % 2 = 1 then x.commit0 else x.commit1
      restoreContext c v.record (updCore c (fun x => { x with remote := v.remote }) s)
  loadSpools c p s

/-- Waits of a core are abandoned; it issues them again. -/
def dropWaits (c : Nat) (s : State) : State :=
  { s with waiters := s.waiters.filter fun w => !(w.fab.isNone && w.core == c) }

/-- What the copy of an aborted kernel's core leaves: a core that serves later kernels. -/
def idleCore (x : Core) : Core := { copiedCore x with ended := true, suppress := 0, replaying := false }

/-- A queue pair after the remap of core c (R278): no packet of the core's unfinished SENDs goes out any more. What was sent keeps its
number until an ACK covers it; a knot operation still held behind such a SEND is issued again by the replay. -/
def silenceQp (s : State) (c : Nat) (q : Qp) : Qp :=
  let mine (o : OutPkt) : Bool := o.core == c && o.ofSend && o.move != 0
  { q with
    unacked := q.unacked.map fun o => if mine o then { o with dead := true } else o
    waiting := q.waiting.filter fun o =>
      !(mine o || (o.core == c && o.pkt.hdr.op == 0x04 && q.control && sendOpen s q.owner c q.remFab o.after)) }

def silenceSends (c : Nat) (s : State) : State := { s with qps := s.qps.map fun e => (e.1, silenceQp s c e.2) }

/-- Steps 2 to 5 of R367. Without a kernel, or under one already aborted, nothing is replayed. The time of the replay is open. -/
def remapCore (c : Nat) (s : State) : State :=
  let s := odCount 0x1901 4 1 (dropWaits c (silenceSends c (updGroup (c / 8) (remapGroup c) (copyStore c s))))
  match kernelOnCore s c with
  | none => updCore c idleCore s
  | some k =>
    if k.phase = .ending then updCore c idleCore s
    else
      let v := freshVal s
      odCount 0x1901 5 (v.1.toNat % 2 ^ 32) (restoreCommit c k.panel k (updCore c copiedCore v.2))

/-- The kernel of a core is over, or being ended. -/
def kernelGone (s : State) (c : Nat) : Bool :=
  match kernelOnCore s c with
  | none => true
  | some k => k.phase = .ending

/-- A core of a group whose spare another has taken meanwhile is lost (R370). -/
def remapLate (c : Nat) (s : State) : State :=
  coreFail c (updCore c (fun x => { x with failed := false, awaitHost := false }) s)

/-- Take the spare, if the group still has one. -/
def takeSpare (c : Nat) (s : State) : State :=
  if (groupOf s (c / 8)).spareUsable then pumpAll (remapCore c s) else remapLate c s

/-- Address of 8-byte word i of what R367 step 2 copies: the core store first, then banks, needle stores, slots and knots. -/
def copyWord (c i : Nat) : Nat := if i < storeSize / 8 then coreStore c + 8 * i else privBase c + 8 * (i - storeSize / 8)

/-- The copy left these of its words poisoned; a replay whose first operation is one of them is lost at once. -/
def poisonWords (c : Nat) (bad : List Nat) (s : State) : State :=
  let s := { s with badWords := s.badWords ++ (bad.filter (· < 959232)).map (copyWord c) }
  reach c (coreOf s c).pc.toNat s

/-- CORE_REMAP: a failed core, or one that awaited its host and whose kernel has been aborted (R400); `bad` names the 8-byte
words of the copy that were uncorrectable, of its 959,232 (R367 step 2). -/
def doCoreRemap (c : Nat) (bad : List Nat) (s : State) : State :=
  let x := coreOf s c
  if !x.lost && (x.failed || (x.awaitHost && kernelGone s c)) then
    (if (groupOf s (c / 8)).spareUsable && !bad.isEmpty then poisonWords c bad (takeSpare c s) else takeSpare c s)
  else s

/-- A write of `fault.remap_go` of panel p; a core that is no stopped one of the panel is ignored. -/
def writeRemapGo (p c : Nat) (s : State) : Nat × State :=
  if c < 128 && (coreOf s c).awaitHost && ownerOfCore s c = some p then
    (0, takeSpare c s)
  else (0, s)

/-- CORE_HEARTBEAT_PROBE of a running sequencer; three missed in a row are a failure. -/
def doHeartbeat (c : Nat) (answered : Bool) (s : State) : State :=
  if !dispatching s c then s
  else if answered then updCore c (fun x => { x with missed := 0 }) s
  else
    let s := updCore c (fun x => { x with missed := x.missed + 1 }) s
    if 3 ≤ (coreOf s c).missed then coreFail c s else s

/-- Entry g of `fault.groups`. -/
def faultGroupBytes (s : State) (g : Nat) : Bytes :=
  let x := groupOf s g
  toLe 2 (x.unusable.foldl (fun n i => n ||| 2 ^ i) 0) ++ toLe 1 (if x.spareUsable then x.spare else 0xFF) ++ [0]

/-! ### Hubs (R373) -/

/-- The hub that adopts: the next in the order C0, C1, C3, C2, C0 that still runs. -/
def nextHub (dead : List Nat) (t : Nat) : Option Nat :=
  (match t with
    | 0 => [1, 3, 2]
    | 1 => [3, 2, 0]
    | 3 => [2, 0, 1]
    | _ => [0, 1, 3]).find? fun h => !dead.contains h

/-- HUB_ADOPTION: the hub of tile t has missed its heartbeats. -/
def doAdoption (t : Nat) (s : State) : State :=
  if 4 ≤ t || s.hubs.dead.contains t || !s.startup.running then s
  else
    let s := { s with hubs := { s.hubs with dead := s.hubs.dead ++ [t] } }
    match nextHub s.hubs.dead t with
    | none => fatal 4 t s
    | some h =>
      odCount 0x1901 7 1 { s with hubs := { s.hubs with serving := s.hubs.serving.map fun x => if x = t then h else x } }

/-! ### Crown (R371) -/

/-- PATROL_SCRUB of a stack. -/
def doPatrol (stack corrected : Nat) (bad : List Word48) (queued : Nat) (s : State) : State :=
  if !s.startup.running then s
  else
    let s := odCount 0x1901 2 corrected s
    let s := if odGet s 0x1900 2 = 1 then
        { s with hubs := { s.hubs with rows := smod 0 s.hubs.rows stack (· + queued) } }
      else s
    (bad.filter fun a => a.toNat / stackSize = stack).foldl (fun s a => doReadFailure a.toNat false s) s

/-- ROW_REPAIR, in D1 and while spare rows last. -/
def doRowRepair (stack : Nat) (s : State) : State :=
  if s.startup.dstate = 1 && sget 0 s.hubs.rows stack ≠ 0 && sget 0 s.hubs.repaired stack < Config.spareRows stack then
    { s with hubs := { s.hubs with
        rows := smod 0 s.hubs.rows stack (· - 1), repaired := smod 0 s.hubs.repaired stack (· + 1) } }
  else s

/-- Entry of `fault.crown_repair` for a stack. -/
def repairBytes (s : State) (stack : Nat) : Bytes :=
  toLe 2 (sget 0 s.hubs.repaired stack) ++ toLe 2 (sget 0 s.hubs.rows stack)

end Sys2Proof.Machine
end

