-- ==== Sys2Proof/Machine/OdEntries.lean ====
section
/-! DEFINITION. What the entries of the object dictionary read as: values as written, live state (R355), records of several
fields, and counters against a reader's baseline (R266, R394). -/
namespace Sys2Proof.Machine

/-- Mode entries in the order of Table 18.12. -/
def modeEntries : List (Nat × Nat) :=
  [(0x2200, 1), (0x2500, 1), (0x2700, 1), (0x2800, 1), (0x3200, 1), (0x3300, 1), (0x2600, 3), (0x3001, 9), (0x3400, 1),
    (0x3400, 2), (0x2000, 1), (0x1900, 3)]

/-- "MQ-GJ20 Galtik Jeosh" -/
def productName : Bytes :=
  [0x4D, 0x51, 0x2D, 0x47, 0x4A, 0x32, 0x30, 0x20, 0x47, 0x61, 0x6C, 0x74, 0x69, 0x6B, 0x20, 0x4A, 0x65, 0x6F, 0x73, 0x68]

/-- `startup.state`. -/
def startupState (s : State) : Nat :=
  match s.startup.phase with
  | .off | .held => 0
  | .step n => n
  | .dstate => 6

/-- Byte of `core.state` for physical core n. -/
def coreStateByte (s : State) (n : Nat) : Byte :=
  let g := n / 9
  let x := groupOf s g
  if x.unusable.contains (n % 9) then 4
  else
    match x.phys.findIdx? (· == n % 9) with
    | none => 3
    | some j =>
      let y := coreOf s (8 * g + j)
      if y.lost then 4 else if y.kid = 0 then 0 else if y.yielded then 2 else 1

/-- Phase f of panel p in ns, with the phases its cores are in (R129). -/
def phaseNow (s : State) (p f : Nat) : Nat :=
  if !panelLive s p then sget 0 (panelOf s p).phaseNs f
  else (panelCores s p).foldl (fun n c =>
    if (coreOf s c).phase = f then n + (s.time - (coreOf s c).phaseSince) else n) (sget 0 (panelOf s p).phaseNs f)

/-- Byte 16t + w of `memory.tb.ways`. -/
def wayByte (s : State) (i : Nat) : Byte :=
  match (List.range 16).find? fun p => panelLive s p && bitOf (panelWays s p) i with
  | none => 0
  | some p => BitVec.ofNat 8 (16 * p + if (directWays s p (i / 16)).contains (i % 16) then 2 else 1)

def rootPortBytes (s : State) (x : Nat) : Bytes :=
  let r := rootPort s x
  toLe 1 r.st ++ toLe 1 r.lanes ++ toLe 1 r.gts ++ [0] ++ toLe 4 r.rebuilt ++ toLe 8 r.capacity

def graftBytes (s : State) (i : Nat) : Bytes :=
  match s.grafts.find? (·.1 == i) with
  | some (_, p, rank) => toLe 1 p ++ toLe 1 rank ++ [0, 0]
  | none => [0xFF, 0, 0, 0]

/-- Byte n of `msg.qp_state`, kinds as in Table 12.1. -/
def qpStateByte (s : State) (n : Nat) : Byte :=
  let x := qpOf s n
  match x.st with
  | .free => 0
  | .ready => BitVec.ofNat 8 (16 * x.owner + 4 * (1 + x.control.toNat) + 1)
  | .error => BitVec.ofNat 8 (16 * x.owner + 4 * (1 + x.control.toNat) + 2)

/-- `sched.model`. -/
def modelBytes (s : State) : Bytes :=
  match s.model.owner with
  | none => toLe 16 0
  | some p => toLe 4 s.model.id.toNat ++ toLe 1 p ++ [0] ++ toLe 2 s.model.f ++ toLe 2 s.model.lm ++ toLe 6 0

/-- `sched.layer_ns` and its open twin: the estimates when the owner is of the world asked for. -/
def layerBytes (s : State) (sec : Bool) : Bytes :=
  match s.model.owner with
  | some p => if secure s p == sec then (List.range 1024).flatMap fun l => toLe 4 (sget 0 s.model.est l) else toLe 4096 0
  | none => toLe 4096 0

def panelStateCode (x : Panel) : Nat :=
  match x.st with
  | .free => 0
  | .opening => 1
  | .open => 2
  | .releasing => 3

/-- `power.op_table`. -/
def opTable : Bytes :=
  ([64, 32, 20, 16, 12, 10, 9, 8].zipIdx).flatMap fun e => toLe 1 e.1 ++ toLe 2 (Config.opVoltage e.2).toNat ++ [0]

/-- Energy so far: at least what an earlier read has shown. -/
def readEnergy (s : State) : Bytes × State :=
  let (v, s) := freshVal s
  let s := updPower (fun x => { x with energy := x.energy + BitVec.ofNat 64 (v.toNat % 2 ^ 32) }) s
  (toLe 8 s.power.energy.toNat, s)

/-- Entries of panel p's block. -/
def panelEntryBytes (s : State) (p page sub : Nat) : Bytes × State :=
  let x := panelOf s p
  match page, sub with
  | 0, 8 => (toLe 1 (panelStateCode x), s)
  | 1, 1 => (padTo 1568 x.kemPub, s)
  | 1, 2 => (padTo 8 x.check, s)
  | 1, 3 => (keySlotBytes s p, s)
  | 1, 4 => freshBytes 48 s
  | 2, 2 => (toLe 1 (x.seamIdx.getD 0xFF), s)
  | _, _ => (toLe (odType (panelIdx p page) sub).bytes (odGet s (panelIdx p page) sub), s)
where
  odType (i j : Nat) : OdType := ((odRow i j).map (·.ty)).getD (.uint 1)

/-- The fuses of physical array n: at most 4 spare rows in [7:4] and 4 spare columns in [3:0] are in use (R38). -/
def darningByte (n : Nat) : Byte :=
  BitVec.ofNat 8 (16 * min 4 ((Config.darning n).toNat / 16) + min 4 ((Config.darning n).toNat % 16))

/-- Value of an entry that is not CoR, for a reader. Subindex 0 of an index with several is the highest in use (R394). -/
def entryBytes (s : State) (reader index sub : Nat) : Bytes × State :=
  if index / 0x1000 = 4 then panelEntryBytes s (index / 256 % 16) (index % 256) sub
  else
    match index, sub with
    | 0x1002, 0 => (productName, s)
    | 0x1003, 0 => ((List.range 16).map Config.serial, s)
    | 0x1005, 0 => (toLe 4 s.startup.fwVersion.toNat, s)
    | 0x1006, 0 => (configDigest s, s)
    | 0x1007, 0 => (padTo 32 s.startup.fwHash, s)
    | 0x1008, 0 => (toLe 8 Config.baseMac.toNat, s)
    | 0x1009, 0 => (toLe 4 Config.oui.toNat, s)
    | 0x1102, 0 => (modeEntries.flatMap fun e => toLe 2 e.1 ++ toLe 1 e.2 ++ [0], s)
    | 0x1800, 1 => (toLe 1 (startupState s), s)
    | 0x1800, 9 => (toLe 1 s.startup.dstate, s)
    | 0x1902, 0 => ((List.range 16).flatMap (faultGroupBytes s), s)
    | 0x1903, 0 => ((List.range 16).flatMap (repairBytes s), s)
    | 0x1904, 0 => (s.hubs.serving.map (BitVec.ofNat 8), s)
    | 0x2000, 3 => (toLe 6 (odGet s 0x2000 3), s)
    | 0x2001, 1 => (toLe 1 s.power.op, s)
    | 0x2001, 2 => (toLe 1 s.power.ceiling, s)
    | 0x2001, 3 => freshBytes 4 s
    | 0x2001, 4 => freshBytes 4 s
    | 0x2001, 5 => readEnergy s
    | 0x2001, 6 => (lastTemps s, s)
    | 0x2004, 0 => (opTable, s)
    | 0x2102, 0 => ((List.range 576).map darningByte, s)
    | 0x2302, 0 => ((List.range 144).map (coreStateByte s), s)
    | 0x2502, 0 => ((List.range 16).flatMap fun p => (List.range 6).flatMap fun f => toLe 8 (phaseNow s p f), s)
    | 0x2503, 0 => ((List.range 256).flatMap (graftBytes s), s)
    | 0x2603, 0 => ((List.range 64).map (wayByte s), s)
    | 0x2604, 0 => ((List.range 4).flatMap (rootPortBytes s), s)
    | 0x2804, p => if p = 0 then (toLe 1 16, s)
        else (inspectBytes s (p - 1) (BitVec.ofNat 32 (odGet s 0x2803 p)), s)
    | 0x2805, p => if p = 0 then (toLe 1 16, s) else (grantBytes s (p - 1), s)
    | 0x3011, r => if r = 0 then (toLe 1 5, s) else (padTo 3380 (sget [] s.attest.quotes reader), s)
    | 0x3012, 0 => (toLe 4 (leafLimit - s.attest.leaf), s)
    | 0x3013, 0 => (Config.deviceCert, s)
    | 0x3103, l => if l = 0 then (toLe 1 24, s) else (linkStateBytes s (l - 1), s)
    | 0x3105, 0 => (digestTable s, s)
    | 0x3207, 0 => ((List.range 4096).map (qpStateByte s), s)
    | 0x3301, h => if h = 0 then (toLe 1 4, s) else portStateBytes s (h - 1)
    | 0x3400, 4 => (modelBytes s, s)
    | 0x340A, 0 => (layerBytes s true, s)
    | 0x340C, 0 => (layerBytes s false, s)
    | i, j =>
      match odRow i j with
      | some r => (toLe r.ty.bytes (odGet s i j), s)
      | none => (toLe 1 ((odRange i).foldl (fun n r => if r.index = odBase i then max n r.last else n) 0), s)

/-! ### Counters (R266) -/

/-- The fields of a CoR entry, with the bytes of one. -/
def corFields (s : State) (index sub : Nat) : List Nat × Nat :=
  match index with
  | 0x3104 => ((List.range 20).map fun i => sget 0 (linkOf s (sub - 1)).ctr (8 * i), 8)
  | 0x3302 => ((List.range 12).map fun i => sget 0 (portOf s (sub - 1)).ctr (8 * i), 8)
  | 0x2003 => ((List.range 16).map fun g => odGet s 0x2003 0 / 2 ^ (64 * g) % 2 ^ 64, 8)
  | _ => ([odGet s index sub], ((odRow index sub).map (·.ty.bytes)).getD 8)

def baseKey (reader index sub field : Nat) : Nat := reader * 2 ^ 32 + odKey index sub * 32 + field

/-- Port h carries a slot of a secure panel (R314). -/
def portSecure (s : State) (h : Nat) : Bool :=
  (List.range 4).any fun w => match ownerOfSlot s h w with
    | some p => secure s p
    | none => false

/-- Is a field shown as zero to this reader. -/
def hiddenField (s : State) (reader index sub field : Nat) : Bool :=
  index = 0x3302 && reader = 0 && 6 ≤ field && portSecure s (sub - 1)

/-- A CoR read: value less baseline for each field, and the baselines move up. -/
def corBytes (s : State) (reader index sub : Nat) : Bytes × State :=
  let (vs, n) := corFields s index sub
  let l := vs.zipIdx
  let out := l.flatMap fun e =>
    if hiddenField s reader index sub e.2 then toLe n 0
    else toLe n (e.1 + 2 ^ (8 * n) - sget 0 s.base (baseKey reader index sub e.2))
  (out, { s with base := l.foldl (fun m e => sset 0 m (baseKey reader index sub e.2) e.1) s.base })

/-- Read an entry whole. -/
def readEntry (s : State) (reader index sub : Nat) : Bytes × State :=
  match odRow index sub with
  | some r => if r.acc = .cor then corBytes s reader index sub else entryBytes s reader index sub
  | none => entryBytes s reader index sub

end Sys2Proof.Machine
end

