-- ==== Sys2Proof/Machine/OdWrites.lean ====
section
/-! DEFINITION. Writes of the object dictionary: who may reach what (R392, R394–R396, R351), whether a value fits its entry
(R387, R390, R394), and what an accepted write does beside keeping the value. -/
namespace Sys2Proof.Machine

/-! ### Access (Tables 18.8 and 18.9) -/

/-- For whom a request acts: the operator, a panel of either world, or no panel. -/
inductive OdRole where
  | mgmt
  | secure (p : Nat)
  | open_ (p : Nat)
  | none_
deriving DecidableEq, Repr

/-- Role of a request: a mailbox request for a panel that owns no slot on the port has none (R392). -/
def roleOf (s : State) (path panel : Nat) : Option OdRole :=
  if path = 0 then some .mgmt
  else if panel = 255 then some .none_
  else if (List.range 4).any fun w => ownerOfSlot s (path - 1) w == some panel then
    some (if Sys2Proof.Machine.secure s panel then .secure panel else .open_ panel)
  else none

/-- The panel that an entry belongs to (R169, R189, R242). -/
def entryPanel (r : OdRow) (index sub : Nat) : Option Nat :=
  if index / 0x1000 = 4 then some (index / 256 % 16)
  else if r.first = 1 && r.last = 16 then some (sub - 1)
  else if r.first = 1 && r.last = 64 then some ((sub - 1) / 4)
  else none

/-- Panel q is open or unused: no secure kind is set for it. -/
def openOrUnused (s : State) (q : Nat) : Bool := !Sys2Proof.Machine.secure s q

/-- May the role reach an RO-S or RW-S entry. -/
def secureEntitled (s : State) (role : OdRole) (q : Option Nat) (index : Nat) : Bool :=
  match role with
  | .secure p =>
    if index = 0x3001 then panelKind s p = 1
    else if index = 0x340A then (match s.model.owner with
      | some o => o = p || !Sys2Proof.Machine.secure s o
      | none => true)
    else match q with
      | some q => q = p
      | none => true
  | _ => false

/-- Entries that only the management port writes. -/
def mgmtOnly (index sub v : Nat) : Bool :=
  (index = 0x1800 && (sub = 8 || sub = 9)) || (index = 0x1100 && sub = 2) ||
    (index / 0x1000 = 4 && index % 256 = 0 && (sub ≤ 6 || (sub = 7 && v = 1)))

/-- Start-up delivery entries. -/
def delivery (index sub : Nat) : Bool := index = 0x1800 && 3 ≤ sub && sub ≤ 5

/-- May a module-wide entry be written by this role. -/
def moduleWide (s : State) (role : OdRole) : Bool :=
  match role with
  | .mgmt => true
  | .secure p => panelKind s p = 1
  | .open_ _ => match commonPanel s with
    | some c => (panelOf s c).st ≠ .open
    | none => true
  | .none_ => false

/-- Table 18.9 for an entry of panel q's block: RW entries that no row above names, and the release command. -/
def blockWritable (role : OdRole) (q sub : Nat) : Bool :=
  match role with
  | .mgmt => sub = 7
  | .secure p => p = q
  | .open_ p => p = q
  | .none_ => false

/-- Per-panel subindices of panel q. -/
def perPanel (s : State) (role : OdRole) (q : Nat) (wr : Bool) : Bool :=
  match role with
  | .mgmt => openOrUnused s q
  | .secure p => p = q
  | .open_ p => p = q
  | .none_ => openOrUnused s q && !wr

def secureRow (r : OdRow) : Bool := r.acc = .roS || r.acc = .rwS

/-- Code of a request that reaches an existing entry: 0 when it may go on. -/
def accessCode (s : State) (role : OdRole) (path : Nat) (r : OdRow) (index sub : Nat) (wr : Bool) (v : Nat) : Nat :=
  let q := entryPanel r index sub
  if secureRow r then
    (if !secureEntitled s role q index then 0x03 else if wr && r.acc = .roS then 0x04 else 0)
  else if wr && (r.acc = .ro || r.acc = .cor) then 0x04
  else if !wr && r.acc = .wo then 0x05
  else if mgmtOnly index sub v then (if wr && path ≠ 0 then 0x09 else 0)
  else if delivery index sub then (if s.startup.phase = .step 2 then 0 else 0x08)
  else if index = 0x3010 || index = 0x3011 then (if sub = path + 1 then 0 else 0x03)
  else if index / 0x1000 = 4 then
    (if !wr || blockWritable role (index / 256 % 16) sub then 0 else 0x03)
  else match q with
    | some q => if perPanel s role q wr then 0 else 0x03
    | none => if !wr || moduleWide s role then 0 else 0x03

/-- Before READY only these ranges are reached (R351). -/
def earlyIndex (index : Nat) : Bool := index / 256 = 0x10 || index / 256 = 0x11 || index / 256 = 0x18

/-- Is any entry defined at an index. -/
def indexExists (index : Nat) : Bool := (odRange index).any fun r => r.index == odBase index

/-- Code of a request for an entry, from its path and panel to the entry's own access: 0 when it may go on. -/
def requestCode (s : State) (path panel index sub : Nat) (wr : Bool) (v : Nat) : Nat :=
  match roleOf s path panel with
  | none => 0x03
  | some role =>
    if !s.startup.running && !earlyIndex index then 0x08
    else if !indexExists index then 0x01
    else
      match odRow index sub with
      | some r => accessCode s role path r index sub wr v
      | none => if sub ≠ 0 then 0x02 else if wr then 0x04 else 0

/-! ### Values -/

/-- Bytes that a DOMAIN entry takes. -/
def domainLen (s : State) (index sub : Nat) : Nat :=
  if index = 0x2000 then 6
  else if index = 0x2805 then 512
  else if index = 0x3010 then 33
  else if index = 0x1800 then s.startup.imgLen
  else if sub = 2 then 1600 else 48

/-- Bytes that a write of an entry carries (R387). -/
def entryLen (s : State) (r : OdRow) (index sub : Nat) : Nat := if r.ty = .domain then domainLen s index sub else r.ty.bytes

def torusOk (v : Nat) : Bool :=
  v < 2 ^ 24 && (List.range 3).all fun i => 1 ≤ v / 256 ^ i % 256 && v / 256 ^ i % 256 ≤ 4

/-- Does a number fit an entry's stated range. -/
def valueOk (s : State) (r : OdRow) (index sub v : Nat) : Bool :=
  match r.ty with
  | .bool => v ≤ 1
  | .f32 => v / 2 ^ 23 % 256 ≠ 255 && (index ≠ 0x2200 || (0 < v && v < 0x3F80_0000))
  | .uint _ =>
    r.lo ≤ v && v ≤ r.hi && v % r.step = 0 &&
    (if index = 0x1800 && sub = 0xA then v = 0 || (100 ≤ v && v ≤ 10000000)
     else if index = 0x3100 && sub = 2 then torusOk v
     else if index = 0x3100 && sub = 0xE then v ≠ odGet s 0x3100 0xD
     else if index = 0x2000 && sub = 4 then v ≤ odGet s 0x2000 5
     else if index = 0x2000 && sub = 5 then odGet s 0x2000 4 ≤ v
     else true)
  | .domain => index ≠ 0x2000 || (List.range 6).all fun i => v / 256 ^ i % 256 ≤ 7
  | .str => false

/-! ### Effects -/

/-- A configuration entry that enters the digest has changed (R263, R264). -/
def ashlinkWritten (sub v : Nat) (s : State) : State :=
  let s := odPut 0x3100 sub v s
  let s := if sub ≤ 3 || 0xA ≤ sub then digestChanged s else s
  if sub ≤ 3 then retrainAll (dropDisabled s) else s

/-- In native mode the fabric size is the product of the torus sizes (R252). -/
def torusFits (s : State) : Bool :=
  !native s || odGet s 0x3100 3 = torusDim s 0 * torusDim s 1 * torusDim s 2

/-- Writes of 0x3100. -/
def writeAshlink (sub v : Nat) (s : State) : Nat × State :=
  if sub = 0xD && v = odGet s 0x3100 0xE then (0x08, s)
  else if sub ≤ 3 && !torusFits (odPut 0x3100 sub v s) then (0x08, s)
  else (0, ashlinkWritten sub v s)

/-- Writes of start-up entries. -/
def writeStartup (reader sub v : Nat) (data : Bytes) (s : State) : Nat × State :=
  match sub with
  | 3 => writeImageLength v s
  | 4 => writeBoot v s
  | 5 => (0, stage (if reader = 0 then 4 else reader - 1) 0 data s)
  | 8 => writeReset v s
  | 9 => writePowerState v s
  | _ => (0, odPut 0x1800 sub v s)

/-- Writes of panel p's block. -/
def writePanelBlock (p page sub v : Nat) (data : Bytes) (s : State) : Nat × State :=
  match page, sub with
  | 0, 7 => if v = 1 then writeOpen p s else writeRelease p s
  | 0, _ => if (panelOf s p).st ≠ .free then (0x08, s) else (0, odPut (panelIdx p 0) sub v s)
  | 1, 2 => writeKeyEstablish p data s
  | 1, _ => writeKeyInstall p data s
  | _, _ => writeJoin p v s

/-- A number that names a place of panel p, or 0 for none. -/
def placeOk (s : State) (p index v : Nat) : Bool :=
  v = 0 ||
  (if index = 0x3403 || index = 0x3405 then inOwnCrown s p v 64
   else ownKnot s p (BitVec.ofNat 32 v))

/-- Writes of per-panel subindices with an effect of their own; p is the panel. -/
def writePerPanel (p index sub v : Nat) (data : Bytes) (s : State) : Nat × State :=
  match index with
  | 0x1801 => writePanelReset p v s
  | 0x1906 => writeRemapGo p v s
  | 0x2602 => writeDirectWays p v s
  | 0x2605 => let f := freshVal s; writeRestoreDone p v (f.1.getLsbD 0) f.2
  | 0x2702 => (0, odPut 0x2704 sub 0 (odPut 0x2702 sub v s))
  | 0x2703 => (0, odPut 0x2704 sub 0 (odPut 0x2703 sub v s))
  | 0x2706 => (0, resumeFault p v s)
  | 0x2707 => (0, abortFault p v 0x2701 s)
  | 0x2802 => writeWaitAbort p (BitVec.ofNat 32 v) s
  | 0x2805 => writeGrants p data s
  | 0x3205 => writeCtxRestored p v s
  | 0x3402 => (0, doSchedAbort p (BitVec.ofNat 32 v) s)
  | 0x3409 => (0, doSchedDecide p (BitVec.ofNat 32 v) s)
  | 0x3403 | 0x3405 | 0x3407 | 0x3408 => if placeOk s p index v then (0, odPut index sub v s) else (0x06, s)
  | _ => (0, odPut index sub v s)

/-- Write of `mgmt.fabric_id` (R383). -/
def writeFabric (v : Nat) (s : State) : Nat × State :=
  if anyKernel s then (0x08, s) else (0, digestChanged (odPut 0x1100 2 v s))

/-- What an accepted value does. -/
def writeEffect (path index sub v : Nat) (data : Bytes) (s : State) : Nat × State :=
  match index with
  | 0x1100 => if sub = 2 then writeFabric v s else (0, odPut index sub v s)
  | 0x1800 => writeStartup path sub v data s
  | 0x2600 => if sub = 1 then writeRootMode false v s else if sub = 2 then writeRootMode true v s
      else if sub = 7 then writeRebuild v s
      else if sub = 5 || sub = 6 then (0, digestChanged (odPut index sub v s))
      else (0, odPut index sub v s)
  | 0x3001 => if sub ≠ 1 then writeSeamConfig sub v s else (match commonPanel s with
      | some p => writeArm p v s
      | none => (0x08, s))
  | 0x3010 => writeNonce path data s
  | 0x3100 => writeAshlink sub v s
  | 0x3101 => (0, dropDisabled (odPut index sub v s))
  | _ => (0, odPut index sub v s)

/-- `panel.key_establish` and `panel.key_install`: a wrong length is theirs to refuse (R238). -/
def keyEntry (index sub : Nat) : Bool := index / 0x1000 = 4 && index % 256 = 1 && (sub = 2 || sub = 4)

/-- A write of a whole value to an entry that the request may reach. -/
def applyWrite (path index sub : Nat) (data : Bytes) (s : State) : Nat × State :=
  match odRow index sub with
  | none => (0x02, s)
  | some r =>
    let v := leNat data
    if data.length ≠ entryLen s r index sub && !keyEntry index sub then (0x07, s)
    else if !valueOk s r index sub v then (0x06, s)
    else if index / 0x1000 = 4 then writePanelBlock (index / 256 % 16) (index % 256) sub v data s
    else match entryPanel r index sub with
      | some q => writePerPanel q index sub v data s
      | none => writeEffect path index sub v data s

end Sys2Proof.Machine
end

