-- ==== Sys2Proof/Machine/OdPaths.lean ====
section
/-! DEFINITION. The two ways into the object dictionary (R379–R393): requests and their answers on the management port and in
the mailboxes, segmented transfers, addresses, and the management port's events. -/
namespace Sys2Proof.Machine

def pathOf (s : State) (n : Nat) : OdPath := sget {} s.paths n
def updPath (n : Nat) (f : OdPath → OdPath) (s : State) : State := { s with paths := smod {} s.paths n f }

/-- A request as its header and data spell it (Table 18.3). -/
structure OdMsg where
  op : Nat
  index : Nat
  sub : Nat
  param : Nat
  data : Bytes
deriving DecidableEq, Repr

/-! ### Answers -/

/-- Header of a request without its version and addresses, for a repeat to be known by (R388). -/
def requestKey (r : OdReq) (m : OdMsg) : Bytes :=
  toLe 1 m.op ++ toLe 2 r.panel ++ toLe 2 r.txn.toNat ++ toLe 2 m.index ++ toLe 1 m.sub ++ toLe 2 m.data.length ++ toLe 4 m.param

/-- Header and data of an answer as they leave by a path. -/
def answerBytes (s : State) (path : Nat) (a : Answer) : Bytes :=
  odHeader a.op (if path = 0 then 0 else a.panel) (if path = 0 then BitVec.ofNat 8 (odGet s 0x1100 1) else 0) a.txn a.index a.sub
    a.status a.data.length a.param.toNat ++ a.data

/-- Send an answer: a frame of the management port, or the response area and its sequence. -/
def sendAnswer (path : Nat) (a : Answer) (s : State) : State :=
  if path = 0 then mgmtSend a.op (answerBytes s 0 a) s
  else updPath path (fun x => { x with answer := some a, respSeq := x.reqSeq }) s

/-- Answer a request, and remember it for a repeat. -/
def answer (r : OdReq) (m : OdMsg) (op code param : Nat) (data : Bytes) (s : State) : State :=
  let a : Answer :=
    { op := BitVec.ofNat 8 op, panel := BitVec.ofNat 8 r.panel, txn := r.txn, index := BitVec.ofNat 16 m.index
      sub := BitVec.ofNat 8 m.sub, status := BitVec.ofNat 8 code, param := BitVec.ofNat 32 param, data := data }
  let s := if code = 0 then s else odCount 0x1101 4 1 s
  sendAnswer r.path a (updPath r.path (fun x => { x with last := some (requestKey r m, a) }) s)

/-- Can requests come in on a path: an addressed management port, or a mailbox whose port carries host writes (R311). -/
def pathOpen (s : State) (path : Nat) : Bool :=
  (match s.startup.phase with
    | .off | .held => false
    | .step n => 2 ≤ n
    | .dstate => true) &&
  if path = 0 then odGet s 0x1100 1 ≠ 0
  else path < 5 && ((portOf s (path - 1)).st = .up || (portOf s (path - 1)).st = .hostlost)

/-- A request that a path takes: a repeat of the one answered last gets its answer again, on the management port (R388). -/
def onPath (r : OdReq) (m : OdMsg) (f : State → State) (s : State) : State :=
  if !pathOpen s r.path then s
  else
    let s := if r.path = 0 then odCount 0x1101 1 1 s else s
    match (pathOf s r.path).last with
    | some (k, a) => if r.path = 0 && k = requestKey r m then sendAnswer 0 a s else f s
    | none => f s

/-! ### Expedited requests -/

def doOdRead (r : OdReq) (m : OdMsg) (s : State) : State :=
  onPath r m (fun s =>
    match requestCode s r.path r.panel m.index m.sub false 0 with
    | 0 =>
      let (b, t) := readEntry s r.path m.index m.sub
      if 8 < b.length then answer r m 0x20 0x07 0 [] s else answer r m 0x20 0 0 b t
    | code => answer r m 0x20 code 0 [] s) s

/-- The outcome of a write of a whole value. In D1 a write wakes the module (R356). -/
def tryWrite (r : OdReq) (index sub : Nat) (data : Bytes) (s : State) : Nat × State :=
  let s := wakeD1 s
  match requestCode s r.path r.panel index sub true (leNat data) with
  | 0 => applyWrite r.path index sub data s
  | code => (code, s)

/-- A write and its answer. An effect that ends the start loses the answer with the path (R359). -/
def doOdWrite (r : OdReq) (m : OdMsg) (s : State) : State :=
  onPath r m (fun s =>
    let (code, t) := tryWrite r m.index m.sub m.data s
    answer r m 0x20 code 0 [] t) s

/-! ### Segmented transfers (R386) -/

/-- A transfer in progress ends without an answer, with the code that a later segment will get. -/
def endSeg (path code : Nat) (s : State) : State :=
  updPath path (fun x => match x.seg with
    | some g => { x with seg := none, ended := some (g.txn, BitVec.ofNat 8 code) }
    | none => x) s

def doSegRead (r : OdReq) (m : OdMsg) (s : State) : State :=
  onPath r m (fun s =>
    let s := endSeg r.path 0x0C s
    match requestCode s r.path r.panel m.index m.sub false 0 with
    | 0 =>
      let (b, t) := readEntry s r.path m.index m.sub
      let g : Seg := { write := false, index := BitVec.ofNat 16 m.index, sub := BitVec.ofNat 8 m.sub, txn := r.txn
                       total := b.length, next := 0, data := b, panel := r.panel }
      answer r m 0x20 0 b.length [] (updPath r.path (fun x => { x with seg := some g }) t)
    | code => answer r m 0x20 code 0 [] s) s

/-- A segmented write that announces a wrong length; of a key entry the panel is told (R238), slot and purpose not having come. -/
def wrongTotal (index sub : Nat) (s : State) : State :=
  let p := index / 256 % 16
  if keyEntry index sub && secure s p && (panelOf s p).st = .open then (keyRefuse p 0 0 3 0x07 s).2 else s

def doSegWrite (r : OdReq) (m : OdMsg) (s : State) : State :=
  onPath r m (fun s =>
    let s := wakeD1 (endSeg r.path 0x0C s)
    match requestCode s r.path r.panel m.index m.sub true 0, odRow m.index m.sub with
    | 0, some row =>
      if m.param ≠ entryLen s row m.index m.sub then answer r m 0x20 0x07 0 [] (wrongTotal m.index m.sub s)
      else
        let g : Seg := { write := true, index := BitVec.ofNat 16 m.index, sub := BitVec.ofNat 8 m.sub, txn := r.txn
                         total := m.param, next := 0, data := [], panel := r.panel }
        answer r m 0x20 0 m.param [] (updPath r.path (fun x => { x with seg := some g }) s)
    | code, _ => answer r m 0x20 (if code = 0 then 0x02 else code) 0 [] s) s

/-- Answer a segment of no open transfer: the code of the one that ended, if it is that one's, else 0x0A. -/
def strayCode (x : OdPath) (txn : Word16) : Nat :=
  match x.ended with
  | some (t, code) => if t = txn then code.toNat else 0x0A
  | none => 0x0A

/-- The transfer of a path that a segment belongs to: a path holds one, and a segment that carries the transaction of the
transfer ended last belongs to that one. -/
def openSeg (x : OdPath) (write : Bool) (txn : Word16) : Option Seg :=
  match x.seg with
  | some g =>
    if g.write = write && (g.txn = txn || x.ended.all fun e => e.1 ≠ txn) then some g else none
  | none => none

def doSegment (r : OdReq) (m : OdMsg) (s : State) : State :=
  onPath r m (fun s =>
    match openSeg (pathOf s r.path) true r.txn with
    | none => answer r m 0x20 (strayCode (pathOf s r.path) r.txn) 0 [] s
    | some g =>
      let close (s : State) : State := updPath r.path (fun x => { x with seg := none }) s
      let d := g.data ++ m.data
      if m.param ≠ g.next then answer r m 0x20 0x0A 0 [] (close s)
      else if g.total < d.length then answer r m 0x20 0x07 0 [] (close s)
      else if d.length < g.total then
        answer r m 0x20 0 0 [] (updPath r.path (fun x => { x with seg := some { g with next := g.next + 1, data := d } }) s)
      else
        let (code, t) := tryWrite { r with panel := g.panel } g.index.toNat g.sub.toNat d (close s)
        answer r m 0x20 code 0 [] t) s

def doSegReq (r : OdReq) (m : OdMsg) (s : State) : State :=
  onPath r m (fun s =>
    match openSeg (pathOf s r.path) false r.txn with
    | none => answer r m 0x20 (strayCode (pathOf s r.path) r.txn) 0 [] s
    | some g =>
      if g.total ≤ 1024 * m.param then answer r m 0x20 0x0A 0 [] s
      else answer r m 0x14 0 m.param ((g.data.drop (1024 * m.param)).take 1024) s) s

/-- ABORT of the requester: no answer. -/
def doOdAbort (r : OdReq) (s : State) : State :=
  if !pathOpen s r.path then s
  else
    let s := if r.path = 0 then odCount 0x1101 1 1 s else s
    updPath r.path (fun x => { x with seg := none }) s

def doSegTimeout (path : Nat) (s : State) : State := endSeg path 0x0B s

/-- A segmented write made whole, for an entry whose value is longer than an expedited write carries. -/
def doOdWhole (r : OdReq) (index sub : Nat) (data : Bytes) (s : State) : State :=
  doOdWrite r { op := 0x14, index := index, sub := sub, param := (data.length + 1023) / 1024 - 1, data := data }
    (endSeg r.path 0x0C s)

/-- An expedited write. -/
def doOdPut (r : OdReq) (index sub : Nat) (data : Bytes) (s : State) : State :=
  doOdWrite r { op := 0x11, index := index, sub := sub, param := 0, data := data } s

/-- A read of a CoR entry: expedited where it fits, else by a segmented read. -/
def doCorRead (r : OdReq) (index sub : Nat) (s : State) : State :=
  if (corFields s index sub).1.length = 1 then doOdRead r { op := 0x10, index := index, sub := sub, param := 0, data := [] } s
  else doSegRead r { op := 0x12, index := index, sub := sub, param := 0, data := [] } s

/-! ### The mailbox (R391) -/

/-- Operations that a mailbox or the port knows from a request's code. -/
def submit (r : OdReq) (m : OdMsg) (s : State) : State :=
  match m.op with
  | 0x10 => doOdRead r m s
  | 0x11 => doOdWrite r m s
  | 0x12 => doSegRead r m s
  | 0x13 => doSegWrite r m s
  | 0x14 => doSegment r m s
  | 0x15 => doSegReq r m s
  | 0x21 => doOdAbort r s
  | _ => onPath r m (fun s => answer r m 0x20 0x0D 0 [] s) s

/-- A write of the request sequence of port h: the request area as it stands is taken. -/
def mailboxSubmit (h : Nat) (seq : Word32) (s : State) : State :=
  let s := updPath (h + 1) (fun x => { x with reqSeq := seq }) s
  let b := padTo 1040 (pathOf s (h + 1)).request
  let r : OdReq := { path := h + 1, panel := fieldNat b 2 1, txn := BitVec.ofNat 16 (fieldNat b 4 2) }
  let m : OdMsg := { op := fieldNat b 1 1, index := fieldNat b 6 2, sub := fieldNat b 8 1, param := fieldNat b 12 4
                     data := (b.drop 16).take (fieldNat b 10 2) }
  if fieldNat b 0 1 ≠ 1 || fieldNat b 3 1 ≠ 0 || fieldNat b 9 1 ≠ 0 then
    onPath r m (fun s => answer r m 0x20 0x0D 0 [] s) s
  else if (m.op = 0x10 || m.op = 0x11) && m.param ≠ 0 then onPath r m (fun s => answer r m 0x20 0x0D 0 [] s) s
  else if (m.op = 0x11 && 8 < m.data.length) || 1024 < fieldNat b 10 2 then
    onPath r m (fun s => answer r m 0x20 0x07 0 [] s) s
  else submit r m s

/-- A host write to the mailbox of port h at offset o of its page: the request area, then the sequence. -/
def mailboxWrite (h o : Nat) (d : Bytes) (s : State) : State :=
  let s := if o < 0x410 then
      updPath (h + 1) (fun x => { x with request := patch (padTo 1040 x.request) o (d.take (0x410 - o)) }) s
    else s
  if o ≤ 0xFF8 && 0xFFC ≤ o + d.length then mailboxSubmit h (BitVec.ofNat 32 (fieldNat d (0xFF8 - o) 4)) s else s

/-! ### Addresses (R381–R384) -/

/-- ASSIGNED, in answer to the ASSIGN of transaction txn: serial and management MAC address (R382). -/
def assignedFrame (node : Nat) (txn : Word16) : Bytes :=
  odHeader 0x02 0 (BitVec.ofNat 8 node) txn 0 0 0 22 0 ++ (List.range 16).map Config.serial ++ toLe 6 (Config.baseMac + 24).toNat

/-- ASSIGN: an unaddressed module whose ENUM_IN is asserted takes the node ID, and raises ENUM_OUT once ASSIGNED is out. -/
def doAssign (mac : BitVec 48) (node : Nat) (txn : Word16) (s : State) : State :=
  let up := match s.startup.phase with
    | .off | .held => false
    | .step n => decide (2 ≤ n)
    | .dstate => true
  if !up || odGet s 0x1100 1 ≠ 0 || !s.pins.enumIn || node = 0 || 8 < node then s
  else
    let s := odCount 0x1101 1 1 (odPut 0x1100 1 node { s with mgmt := { s.mgmt with coordMac := mac } })
    let s := mgmtSend 0x02 (assignedFrame node txn) s
    alertLevel (flushMgmt 257 { s with pins := { s.pins with enumOut := s.mgmt.beacon } })

/-- What LEAVE does after its answer. -/
def leaveFabric (s : State) : State :=
  let s := digestChanged (odPut 0x1100 2 0xFFFF s)
  odPut 0x1100 1 0 { s with pins := { s.pins with enumOut := false } }

def doLeave (r : OdReq) (s : State) : State :=
  let m : OdMsg := { op := 0x03, index := 0, sub := 0, param := 0, data := [] }
  onPath r m (fun s =>
    if r.path ≠ 0 then answer r m 0x20 0x0D 0 [] s
    else if anyKernel s then answer r m 0x20 0x08 0 [] s
    else leaveFabric (answer r m 0x20 0 0 [] s)) s

/-! ### Events of the management port (R393) and the segment's beacon (R379) -/

/-- EVENT_ACK: every event up to `seq` is acknowledged. -/
def doEventAck (seq : Word32) (s : State) : State :=
  if !pathOpen s 0 then s
  else
    let s := odCount 0x1101 1 1 { s with mgmt := { s.mgmt with
      sent := s.mgmt.sent.filter fun e => decide (2 ^ 31 ≤ (seq - e.1).toNat) } }
    alertLevel (flushMgmt 257 s)

/-- EVENT_RETRY: the oldest event not acknowledged goes out again. -/
def doEventRetry (s : State) : State :=
  if !pathOpen s 0 then s
  else match s.mgmt.sent with
    | (q, e) :: _ => sendEventFrame q e s
    | [] => s

def doBeacon (up : Bool) (s : State) : State :=
  let s := { s with mgmt := { s.mgmt with beacon := up } }
  if !up then s
  else
    let s := sendHeld s
    alertLevel (flushMgmt 257 { s with pins := { s.pins with enumOut := odGet s 0x1100 1 != 0 } })

end Sys2Proof.Machine
end

