-- ==== Sys2Proof/Machine/HostBus.lean ====
section
/-! DEFINITION. Host writes as a port takes them: BAR0 by the mirror layout (Tables 13.2, 13.4, 13.5), BAR2 by window and power
state (R291, R351, R356), and what waits through a retrain (R308). -/
namespace Sys2Proof.Machine

/-- Apply a write at offset o of a block to every field that it covers whole. -/
def fieldWrites (fields : List (Nat × Nat)) (o : Nat) (d : Bytes) (f : Nat → Nat → State → State) (s : State) : State :=
  fields.foldl (fun s e =>
    if o ≤ e.1 && e.1 + e.2 ≤ o + d.length then f e.1 (fieldNat d (e.1 - o) e.2) s else s) s

/-- Fields of a ring block that a host may write, with their widths. -/
def ringFields : List (Nat × Nat) :=
  [(0x00, 8), (0x08, 4), (0x0C, 1), (0x10, 4), (0x20, 8), (0x28, 4), (0x2C, 4), (0x34, 2)]

/-- A count of entries that Table 13.5 allows. -/
def ringCount (v : Nat) : Bool := 16 ≤ v && v ≤ 65536 && powerOfTwo v

/-- Write of the field at offset o of ring block r; a value that breaks the field's form is ignored (R295). -/
def ringField (h r o v : Nat) (s : State) : State :=
  if (ringPanel s h r).isNone then s
  else
    let off := (ringOf s h r).st = .disabled
    match o with
    | 0x00 => if off && v % 64 = 0 then updRing h r (fun x => { x with base := BitVec.ofNat 64 v }) s else s
    | 0x08 => if off && ringCount v then updRing h r (fun x => { x with entries := BitVec.ofNat 32 v }) s else s
    | 0x0C => if v = 1 then doRingEnable h r s else if v = 2 then doRingDisable h r s else s
    | 0x10 => doDoorbell h r (BitVec.ofNat 32 v) (wakeDoorbell s)
    | 0x20 => if off && v % 32 = 0 then updRing h r (fun x => { x with cBase := BitVec.ofNat 64 v }) s else s
    | 0x28 => if off && (v = 0 || ringCount v) then updRing h r (fun x => { x with cEntries := BitVec.ofNat 32 v }) s else s
    | 0x2C => doComplConsumer h r (BitVec.ofNat 32 v) s
    | 0x34 => updRing h r (fun x => { x with vec := BitVec.ofNat 16 v }) s
    | _ => s

/-- A write to BAR0, to the block that its first byte lies in. -/
def bar0Write (h o : Nat) (d : Bytes) (s : State) : State :=
  if o < 0x1000 then s
  else if o < 0x2000 then
    let w := (o - 0x1000) / 0x400
    fieldWrites slotFields ((o - 0x1000) % 0x400) d (slotField h w) s
  else if o < 0x6000 then
    let r := (o - 0x2000) / 0x100
    fieldWrites ringFields ((o - 0x2000) % 0x100) d (ringField h r) s
  else if o < 0x8000 then mailboxWrite h (o - 0x6000) d s
  else if o < 0x10_0000 || 0x14_0000 ≤ o then s
  else
    match ownerOfSlot s h ((o - 0x10_0000) / 0x1_0000) with
    | some p => ctlWrite p ((o - 0x10_0000) % 0x1_0000) d s
    | none => s

/-- A write to BAR2: an image before READY, nothing in D2 and D3, and in D1 it wakes the module. -/
def inboundWrite (h o : Nat) (d : Bytes) (s : State) : State :=
  if !s.startup.running then stageWrite h o d s
  else if s.startup.dstate = 2 then portCount h 64 1 s
  else bar2Write h o d (wakeD1 s)

def deliverHost (h : Nat) (s : State) (e : Bool × Nat × Bytes) : State :=
  if e.1 then bar0Write h e.2.1 e.2.2 s else inboundWrite h e.2.1 e.2.2 s

/-- Offset of ATTACH in the mirror. -/
def attachOffset : Nat := 0x110

/-- A host write: delivered on a port that is UP or whose host was lost and is back (R311), kept through a retrain. A write of 1 to
ATTACH attaches a lost host. -/
def hostWrite (h : Nat) (bar0 : Bool) (o : Nat) (d : Bytes) (s : State) : State :=
  match (portOf s h).st with
  | .up => deliverHost h s (bar0, o, d)
  | .retraining => updPort h (fun x => { x with waitHost := x.waitHost ++ [(bar0, o, d)] }) s
  | .hostlost => if bar0 && o = attachOffset && fieldNat d 0 4 = 1 then doAttach h s else deliverHost h s (bar0, o, d)
  | .down | .training => s

/-- Offset of a field of slot block w and of ring block r. -/
def slotOffset (w o : Nat) : Nat := 0x1000 + 0x400 * w + o
def ringOffset (r o : Nat) : Nat := 0x2000 + 0x100 * r + o
def entryOffset (w i : Nat) : Nat := 0x10_0000 + 0x1_0000 * w + 32 * i + 31

/-- PORT_RETRAIN_COMPLETE: the port is UP, sends what it kept, and takes the host writes that waited. -/
def doPortRetrained (h : Nat) (s : State) : State :=
  if (portOf s h).st ≠ .retraining then s
  else
    let waited := (portOf s h).waitHost
    waited.foldl (deliverHost h) (portBack h s)

end Sys2Proof.Machine
end

