-- ==== Sys2Proof/Machine/HubCmds.lean ====
section
/-! DEFINITION. The commands of the hubs: kernels (R316–R325), snapshots (R134), restores and Root ports (R157–R162), the streamer
(R156), table engines (R163–R167), panel release (R241), the seam (R228–R233) and quotes (R240). -/
namespace Sys2Proof.Machine

def execKernelStart (panel : Nat) (s : State) : Host.Outcome State Fault Refusal := settle (atD0 (doKernelStart panel)) s

def execKernelEnd (kid : Nat) (s : State) : Host.Outcome State Fault Refusal := settle (doKernelEnd kid) s

def execPreempt (panel : Nat) (s : State) : Host.Outcome State Fault Refusal := settle (atD0 (doPreempt panel)) s

def execKernelResume (panel : Nat) (s : State) : Host.Outcome State Fault Refusal := settle (atD0 (doKernelResume panel)) s

def execSnapshotEntry (panel : Nat) (s : State) : Host.Outcome State Fault Refusal := settle (atD1 (doSnapEntry panel)) s

def execSnapshotTimeout (panel : Nat) (s : State) : Host.Outcome State Fault Refusal := settle (atD1 (abandonSnap panel)) s

def execReadFailure (addr : Word48) (tagFailed : Bool) (s : State) : Host.Outcome State Fault Refusal :=
  settle (atD1 (doReadFailure addr.toNat tagFailed)) s

def execReconstructionComplete (addr : Word48) (s : State) : Host.Outcome State Fault Refusal :=
  settle (atD1 (doReconstruct (unitOf addr.toNat))) s

def execRegenerationComplete (addr : Word48) (s : State) : Host.Outcome State Fault Refusal :=
  settle (atD1 (doRegenerate (unitOf addr.toNat))) s

def execRootPortDown (x : Nat) (s : State) : Host.Outcome State Fault Refusal := alive (doRootDown x) s

def execRootPortUp (x : Nat) (lanes : Nat) (gts : Nat) (capacity : Nat) (s : State) : Host.Outcome State Fault Refusal :=
  alive (doRootUp x lanes gts capacity) s

def execRootRebuildComplete (x : Nat) (s : State) : Host.Outcome State Fault Refusal := alive (doRebuildDone x) s

def execSanitizeComplete (x : Nat) (ok : Bool) (s : State) : Host.Outcome State Fault Refusal := alive (doSanitized x ok) s

def execSanitizeTimeout (x : Nat) (s : State) : Host.Outcome State Fault Refusal := alive (doSanitizeTimeout x) s

def execStreamFillStart (panel : Nat) (s : State) : Host.Outcome State Fault Refusal := alive (atD1 (doFillStart panel)) s

def execStreamFillComplete (panel : Nat) (n : Nat) (s : State) : Host.Outcome State Fault Refusal :=
  settle (atD1 (doFillComplete panel n)) s

def execTableGather (tile : Nat) (s : State) : Host.Outcome State Fault Refusal := settle (atD0 (doTableGather tile)) s

def execTableScatterAdd (tile : Nat) (s : State) : Host.Outcome State Fault Refusal := settle (atD0 (doTableScatter tile)) s

def execTableUpdate (tile : Nat) (s : State) : Host.Outcome State Fault Refusal := settle (atD0 (doTableUpdate tile)) s

def execTableBatchPeriod (slot : Nat) (s : State) : Host.Outcome State Fault Refusal := settle (atD1 (doBatchPeriod slot)) s

def execTableBatchServe (slot : Nat) (srcFab : BitVec 8) (rows : List Nat) (s : State) : Host.Outcome State Fault Refusal :=
  settle (atD1 (doBatchServe slot srcFab.toNat rows)) s

def execPanelScrubComplete (panel : Nat) (ms : Word32) (s : State) : Host.Outcome State Fault Refusal :=
  settle (atD1 (doScrubComplete panel ms.toNat)) s

def execDepositDense (panel : Nat) (s : State) : Host.Outcome State Fault Refusal := settle (atD1 (doDeposit panel 1)) s

def execDepositNoise (panel : Nat) (s : State) : Host.Outcome State Fault Refusal := settle (atD1 (doDeposit panel 2)) s

def execDepositRowed (panel : Nat) (s : State) : Host.Outcome State Fault Refusal := settle (atD1 (doDeposit panel 3)) s

def execDepositFree (panel : Nat) (s : State) : Host.Outcome State Fault Refusal := settle (atD1 (doDeposit panel 4)) s

def execSeamSlotTimeout (slot : Nat) (s : State) : Host.Outcome State Fault Refusal := settle (atD1 (doSlotTimeout slot)) s

def execSeamRelease (slot : Nat) (s : State) : Host.Outcome State Fault Refusal := settle (atD1 (doSeamRelease slot)) s

def execQuoteReady (leafOk : Bool) (s : State) : Host.Outcome State Fault Refusal := alive (doQuoteReady leafOk) s

end Sys2Proof.Machine
end

