-- ==== Sys2Proof/Machine/LinkCmds.lean ====
section
/-! DEFINITION. The commands of the Ashlinks (R245–R268, R372). -/
namespace Sys2Proof.Machine

/-- What the Ashlink complexes do while they have power. -/
def onLinks (f : State → State) (s : State) : State := if linksPowered s then f s else s

def execLinkPartnerDetect (l : Nat) (s : State) : Host.Outcome State Fault Refusal := alive (doPartner l) s

def execLinkTrainingDone (l : Nat) (lanes : Nat) (s : State) : Host.Outcome State Fault Refusal :=
  alive (doTrained l lanes) s

def execFlitData (l : Nat) (h : FlitHdr) (s : State) : Host.Outcome State Fault Refusal := alive (doFlitData l h) s

def execFlitIdle (l : Nat) (h : FlitHdr) (s : State) : Host.Outcome State Fault Refusal := alive (doFlitIdle l h) s

def execFlitNak (l : Nat) (h : FlitHdr) (s : State) : Host.Outcome State Fault Refusal := alive (doFlitNak l h) s

def execIdent (l : Nat) (m : IdentFlit) (s : State) : Host.Outcome State Fault Refusal := alive (doIdent l m.hdr m.msg) s

def execSpeedReq (l : Nat) (target : SpeedFlit) (s : State) : Host.Outcome State Fault Refusal :=
  alive (doSpeedReq l target.hdr target.target) s

def execSpeedAck (l : Nat) (target : SpeedFlit) (seq : BitVec 12) (s : State) : Host.Outcome State Fault Refusal :=
  alive (doSpeedAck l target.hdr target.target seq) s

def execSpeedRefuse (l : LinkFlit) (s : State) : Host.Outcome State Fault Refusal := alive (doSpeedRefuse l.link l.hdr) s

def execRetrain (l : LinkRetrain) (s : State) : Host.Outcome State Fault Refusal := alive (doRetrain l.link l.flit) s

def execRetrainComplete (l : Nat) (lanes : Nat) (s : State) : Host.Outcome State Fault Refusal :=
  alive (doRetrained l lanes) s

def execLinkRetrainTimeout (l : Nat) (s : State) : Host.Outcome State Fault Refusal := alive (doRetrainTimeout l) s

def execReplayTimeout (l : Nat) (s : State) : Host.Outcome State Fault Refusal := alive (doReplayTimeout l) s

def execSpeedLowerWindow (l : Nat) (utilPct : Nat) (s : State) : Host.Outcome State Fault Refusal :=
  alive (doLowerWindow l utilPct) s

def execSpeedRaiseTrigger (l : Nat) (s : State) : Host.Outcome State Fault Refusal := alive (doRaise l) s

def execPacketForward (l : Nat) (p : Packet) (s : State) : Host.Outcome State Fault Refusal := alive (doForward l p) s

def execSprayEscapeTimeout (l : Nat) (p : Packet) (s : State) : Host.Outcome State Fault Refusal := alive (doEscape l p) s

def execTransmitUnderrun (l : Nat) (s : State) : Host.Outcome State Fault Refusal := alive (doUnderrun l) s

def execCutThroughStepDown (l : Nat) (s : State) : Host.Outcome State Fault Refusal := alive (doStepDown l) s

def execEthFrameReceive (l : Nat) (f : EthFrame) (s : State) : Host.Outcome State Fault Refusal := settle (doEthFrame l f) s

def execPfcSend (l : Nat) (control : Bool) (fill : Nat) (s : State) : Host.Outcome State Fault Refusal :=
  alive (doPfcSend l control fill) s

def execPfcRepeat (l : Nat) (control : Bool) (s : State) : Host.Outcome State Fault Refusal :=
  alive (doPfcRepeat l control) s

def execPfcReceive (l : Nat) (prio : BitVec 3) (quanta : Word16) (s : State) : Host.Outcome State Fault Refusal :=
  alive (doPfcReceive l prio.toNat quanta) s

def execPfcQuantaExpiry (l : Nat) (control : Bool) (s : State) : Host.Outcome State Fault Refusal :=
  alive (doPfcExpiry l control) s

def execLldpTransmit (l : Nat) (s : State) : Host.Outcome State Fault Refusal := alive (doLldpSend l) s

def execLldpReceive (l : Nat) (fabric : BitVec 8) (link : BitVec 8) (digest : Bytes) (s : State) : Host.Outcome State Fault Refusal :=
  alive (doLldpReceive l fabric link digest) s

def execNeighborSolicitation (l : Nat) (target : BitVec 128) (s : State) : Host.Outcome State Fault Refusal :=
  alive (doSolicit l target) s

def execDigestAnnounce (s : State) : Host.Outcome State Fault Refusal := alive (doAnnounce) s

def execDigest (hdr : PktHdr) (ce : Bool) (payload : Bytes) (arrival : Arrival) (s : State) : Host.Outcome State Fault Refusal :=
  let p : Packet := ⟨hdr, ce, payload, arrival.tag, arrival.link, arrival.intact⟩
  alive (onLinks (arrive p (doDigest p))) s

def execLossOfSignal (l : Nat) (s : State) : Host.Outcome State Fault Refusal := alive (doLoss l) s

def execLaneFailure (l : Nat) (s : State) : Host.Outcome State Fault Refusal := alive (doLane l) s

end Sys2Proof.Machine
end

