-- ==== Sys2Proof/Machine/QpCmds.lean ====
section
/-! DEFINITION. The commands of messages, queue pairs and collectives (R269–R287). -/
namespace Sys2Proof.Machine

/-- A packet from an Ashlink; one for this module wakes it from D1 (R356). -/
def packetIn (p : Packet) (f : State → State) (s : State) : State :=
  onLinks (arrive p fun s => f (if p.hdr.dstFab.toNat = fabricId s then wakeD1 s else s)) s

def execQpCreate (port : Nat) (ring : Nat) (s : State) : Host.Outcome State Fault Refusal :=
  settle (atD0 (doQpCreate port ring)) s

def execQpDestroy (port : Nat) (ring : Nat) (s : State) : Host.Outcome State Fault Refusal :=
  settle (atD0 (doQpDestroy port ring)) s

def execQpReset (port : Nat) (ring : Nat) (s : State) : Host.Outcome State Fault Refusal :=
  settle (atD0 (doQpReset port ring)) s

def execSend (p : Packet) (s : State) : Host.Outcome State Fault Refusal := settle (packetIn p (doSend p)) s

def execAck (p : Packet) (s : State) : Host.Outcome State Fault Refusal := settle (packetIn p (doAck p)) s

def execAckTimer (qp : Nat) (s : State) : Host.Outcome State Fault Refusal := alive (onLinks (doAckTimer qp)) s

def execNak (p : Packet) (s : State) : Host.Outcome State Fault Refusal := settle (packetIn p (doNak p)) s

def execNakRetry (qp : Nat) (psn : BitVec 24) (s : State) : Host.Outcome State Fault Refusal :=
  alive (onLinks (doNakRetry qp psn)) s

def execNakLimitExpiry (qp : Nat) (psn : BitVec 24) (s : State) : Host.Outcome State Fault Refusal :=
  settle (onLinks (doNakLimit qp psn)) s

def execRetryTimeout (qp : Nat) (psn : BitVec 24) (s : State) : Host.Outcome State Fault Refusal :=
  settle (onLinks (doRetryTimeout qp psn)) s

def execKnot (p : Packet) (s : State) : Host.Outcome State Fault Refusal := settle (packetIn p (doKnot p)) s

def execWake (p : Packet) (s : State) : Host.Outcome State Fault Refusal := settle (packetIn p (doWake p)) s

def execContextRestoreComplete (qp : Nat) (s : State) : Host.Outcome State Fault Refusal := settle (atD1 (doRestoreQp qp)) s

def execEcnRateIncrease (qp : Nat) (s : State) : Host.Outcome State Fault Refusal := alive (onLinks (doRateIncrease qp)) s

def execAllReduce (port : Nat) (ring : Nat) (s : State) : Host.Outcome State Fault Refusal :=
  settle (atD0 (doCollRec port ring (· == 1))) s

def execReduceScatter (port : Nat) (ring : Nat) (s : State) : Host.Outcome State Fault Refusal :=
  settle (atD0 (doCollRec port ring (· == 2))) s

def execAllGather (port : Nat) (ring : Nat) (s : State) : Host.Outcome State Fault Refusal :=
  settle (atD0 (doCollRec port ring (· == 3))) s

/-- An operation code that Table 12.10 does not list has no row of its own; it is refused here. -/
def execPermute (port : Nat) (ring : Nat) (s : State) : Host.Outcome State Fault Refusal :=
  settle (atD0 (doCollRec port ring (fun op => op == 4 || op == 0 || 4 < op))) s

end Sys2Proof.Machine
end

