-- ==== Sys2Proof/Machine/RingCmds.lean ====
section
/-! DEFINITION. The ring records (Table 13.8) but those of queue pairs and collectives; the hub takes them in D0 (R356). -/
namespace Sys2Proof.Machine

def execNopRecord (port : Nat) (ring : Nat) (s : State) : Host.Outcome State Fault Refusal :=
  settle (atD0 (doNopRecord port ring)) s

def execKernel (port : Nat) (ring : Nat) (s : State) : Host.Outcome State Fault Refusal :=
  settle (atD0 (doKernel port ring)) s

def execFence (port : Nat) (ring : Nat) (s : State) : Host.Outcome State Fault Refusal :=
  settle (atD0 (doFenceRec port ring 0x02)) s

def execFenceClear (port : Nat) (ring : Nat) (s : State) : Host.Outcome State Fault Refusal :=
  settle (atD0 (doFenceClear port ring)) s

def execPublish (port : Nat) (ring : Nat) (s : State) : Host.Outcome State Fault Refusal :=
  settle (atD0 (doFenceRec port ring 0x03)) s

def execJob (port : Nat) (ring : Nat) (s : State) : Host.Outcome State Fault Refusal := settle (atD0 (doJobRec port ring)) s

def execSchedule (port : Nat) (ring : Nat) (s : State) : Host.Outcome State Fault Refusal :=
  settle (atD0 (doSchedule port ring)) s

def execSnapshot (port : Nat) (ring : Nat) (s : State) : Host.Outcome State Fault Refusal :=
  settle (atD0 (doSnapshot port ring)) s

def execGraftRegister (port : Nat) (ring : Nat) (s : State) : Host.Outcome State Fault Refusal :=
  settle (atD0 (doGraftRegister port ring)) s

def execGraftRelease (port : Nat) (ring : Nat) (s : State) : Host.Outcome State Fault Refusal :=
  settle (atD0 (doGraftRelease port ring)) s

def execWindowStart (port : Nat) (ring : Nat) (s : State) : Host.Outcome State Fault Refusal :=
  settle (atD0 (doWindowStart port ring)) s

def execWindowStop (port : Nat) (ring : Nat) (s : State) : Host.Outcome State Fault Refusal :=
  settle (atD0 (doWindowStop port ring)) s

def execTableRegister (port : Nat) (ring : Nat) (s : State) : Host.Outcome State Fault Refusal :=
  settle (atD0 (doTableRegister port ring)) s

def execTableRelease (port : Nat) (ring : Nat) (s : State) : Host.Outcome State Fault Refusal :=
  settle (atD0 (doTableRelease port ring)) s

def execHint (port : Nat) (ring : Nat) (s : State) : Host.Outcome State Fault Refusal :=
  settle (atD0 (doHintRec port ring)) s

def execHintExpiry (panel : Nat) (s : State) : Host.Outcome State Fault Refusal := alive (doHintExpiry panel) s

def execWorklist (port : Nat) (ring : Nat) (s : State) : Host.Outcome State Fault Refusal :=
  settle (atD0 (doWorklistRec port ring)) s

def execModel (port : Nat) (ring : Nat) (s : State) : Host.Outcome State Fault Refusal :=
  settle (atD0 (doModelRec port ring)) s

end Sys2Proof.Machine
end

