-- ==== Sys2Proof/Machine/HostCmds.lean ====
section
/-! DEFINITION. The commands of the Riloz ports (R289–R315). A host write that has a row of its own is the write of its mirror field. -/
namespace Sys2Proof.Machine

def execInboundWrite (port : Nat) (bar0 : Bool) (offset : Nat) (data : Bytes) (s : State) : Host.Outcome State Fault Refusal :=
  settle (hostWrite port bar0 offset data) s

def execBar2Read (port : Nat) (_offset : Nat) (s : State) : Host.Outcome State Fault Refusal := alive (doBar2Read port) s

def execDoorbell (port : Nat) (ring : Nat) (tail : Word32) (s : State) : Host.Outcome State Fault Refusal :=
  settle (hostWrite port true (ringOffset ring 0x10) (toLe 4 tail.toNat)) s

def execRingEnable (port : Nat) (ring : Nat) (s : State) : Host.Outcome State Fault Refusal :=
  settle (hostWrite port true (ringOffset ring 0x0C) [1]) s

def execRingDisable (port : Nat) (ring : Nat) (s : State) : Host.Outcome State Fault Refusal :=
  settle (hostWrite port true (ringOffset ring 0x0C) [2]) s

def execCompletionConsumerWrite (port : Nat) (ring : Nat) (value : Word32) (s : State) : Host.Outcome State Fault Refusal :=
  settle (hostWrite port true (ringOffset ring 0x2C) (toLe 4 value.toNat)) s

def execTranslationInvalidate (port : Nat) (w : Nat) (page : Word32) (s : State) : Host.Outcome State Fault Refusal :=
  settle (hostWrite port true (slotOffset w 0x28) (toLe 4 page.toNat)) s

def execEventConsumerWrite (port : Nat) (w : Nat) (value : Word32) (s : State) : Host.Outcome State Fault Refusal :=
  settle (hostWrite port true (slotOffset w 0x4C) (toLe 4 value.toNat)) s

def execRegionEntryValidate (port : Nat) (w : Nat) (entry : Nat) (s : State) : Host.Outcome State Fault Refusal :=
  settle (hostWrite port true (entryOffset w entry) [1]) s

def execRegionEntryRevoke (port : Nat) (w : Nat) (entry : Nat) (s : State) : Host.Outcome State Fault Refusal :=
  settle (hostWrite port true (entryOffset w entry) [0]) s

def execAttach (port : Nat) (s : State) : Host.Outcome State Fault Refusal :=
  settle (hostWrite port true attachOffset (toLe 4 1)) s

def execDoorbellGraceExpiry (port : Nat) (ring : Nat) (s : State) : Host.Outcome State Fault Refusal :=
  settle (atD0 (doDoorbellGrace port ring)) s

def execIrqHoldoffExpiry (port : Nat) (vector : Word16) (s : State) : Host.Outcome State Fault Refusal :=
  alive (doIrqHoldoff port vector) s

def execPortRetrain (port : PortRetrain) (s : State) : Host.Outcome State Fault Refusal :=
  alive (doPortRetrain port.port port.failed port.replayed) s

def execPortRetrainComplete (port : Nat) (s : State) : Host.Outcome State Fault Refusal := settle (doPortRetrained port) s

def execHostLost (port : Nat) (s : State) : Host.Outcome State Fault Refusal := settle (doHostLost port) s

def execHostGraceExpiry (port : Nat) (s : State) : Host.Outcome State Fault Refusal := settle (doHostGrace port) s

end Sys2Proof.Machine
end

