-- ==== Sys2Proof/Machine/PowerCmds.lean ====
section
/-! DEFINITION. The commands of power and heat (R333–R348), start-up and reset (R349–R364) that are no object-dictionary request.
Power, resets and the level of PWRBRK_N act whatever state the module is in. -/
namespace Sys2Proof.Machine

def execOpRequestTick (s : State) : Host.Outcome State Fault Refusal := alive (doOpRequest) s

def execCapUpdate (powerMw : Nat) (s : State) : Host.Outcome State Fault Refusal := alive (doCapUpdate powerMw) s

def execCeilingStep (s : State) : Host.Outcome State Fault Refusal := alive (doCeilingStep) s

def execOpChange (s : State) : Host.Outcome State Fault Refusal := alive (doOpChange) s

def execPwrbrkAssert (s : State) : Host.Outcome State Fault Refusal := .next (doPwrbrkAssert s)

def execPwrbrkDeassert (s : State) : Host.Outcome State Fault Refusal := .next (doPwrbrkDeassert s)

def execDroopDetect (group : Nat) (s : State) : Host.Outcome State Fault Refusal := alive (doDroopDetect group) s

def execDroopRecover (group : Nat) (skipped : Nat) (s : State) : Host.Outcome State Fault Refusal :=
  alive (doDroopRecover group skipped) s

def execInputUndervoltage (mv : Nat) (s : State) : Host.Outcome State Fault Refusal := alive (doUndervoltage mv) s

def execInputVoltageRecover (mv : Nat) (s : State) : Host.Outcome State Fault Refusal := alive (doVoltageRecover mv) s

def execInputBrownoutExpiry (s : State) : Host.Outcome State Fault Refusal := alive (doBrownout) s

def execInputOvervoltage (mv : Nat) (s : State) : Host.Outcome State Fault Refusal := .next (doOvervoltage mv s)

def execThermalSample (temps : List (BitVec 8)) (s : State) : Host.Outcome State Fault Refusal := alive (doThermal temps) s

/-- Whether the calibration cache serves differs in time only. -/
def execPowerOn (_calOk : Bool) (s : State) : Host.Outcome State Fault Refusal := .next (doPowerOn s)

def execPowerRemoval (s : State) : Host.Outcome State Fault Refusal := .next (doPowerRemoval s)

def execModuleResetAssert (s : State) : Host.Outcome State Fault Refusal := .next (doResetAssert s)

def execModuleResetRelease (s : State) : Host.Outcome State Fault Refusal := .next (doResetRelease s)

def execD1IdleExpiry (s : State) : Host.Outcome State Fault Refusal := alive (doD1Idle) s

end Sys2Proof.Machine
end

