-- ==== Sys2Proof/Machine/FaultCmds.lean ====
section
/-! DEFINITION. The commands of failure hiding (R366–R378). -/
namespace Sys2Proof.Machine

def execCoreRemap (c : Nat) (bad : List Nat) (s : State) : Host.Outcome State Fault Refusal :=
  settle (doCoreRemap c bad) s

def execCoreHeartbeatProbe (c : Nat) (answered : Bool) (s : State) : Host.Outcome State Fault Refusal :=
  settle (doHeartbeat c answered) s

def execHubAdoption (tile : Nat) (s : State) : Host.Outcome State Fault Refusal := alive (doAdoption tile) s

def execPatrolScrub (stack : Nat) (corrected : Nat) (uncorrectable : List Word48) (queued : Nat) (s : State) : Host.Outcome State Fault Refusal :=
  settle (doPatrol stack corrected uncorrectable queued) s

def execRowRepair (stack : Nat) (s : State) : Host.Outcome State Fault Refusal := alive (doRowRepair stack) s

def execModuleFatal (cause : Byte) (tile : Byte) (s : State) : Host.Outcome State Fault Refusal :=
  alive (fatal cause.toNat tile.toNat) s

end Sys2Proof.Machine
end

