-- ==== Sys2Proof/Machine/OdCmds.lean ====
section
/-! DEFINITION. The commands of the management port and the object dictionary (R379–R400). A write that has a row of its own is the
write of its entry. -/
namespace Sys2Proof.Machine

/-- RESTORE_DONE, with what the device finds as it reads the line again (R161). -/
def doRestoreDone (r : OdReq) (p : Nat) (knot : Byte) (good : Bool) (s : State) : State :=
  let m : OdMsg := { op := 0x11, index := 0x2605, sub := p + 1, param := 0, data := [knot] }
  onPath r m (fun s =>
    let s := wakeD1 s
    match requestCode s r.path r.panel 0x2605 (p + 1) true knot.toNat with
    | 0 =>
      let (code, t) := writeRestoreDone p knot.toNat good s
      answer r m 0x20 code 0 [] t
    | code => answer r m 0x20 code 0 [] s) s

def readMsg (index : Word16) (sub : Byte) : OdMsg :=
  { op := 0x10, index := index.toNat, sub := sub.toNat, param := 0, data := [] }

def segMsg (op : Nat) (index : Word16) (sub : Byte) (total : Word32) : OdMsg :=
  { op := op, index := index.toNat, sub := sub.toNat, param := total.toNat, data := [] }

/-- A SEGMENT or SEG-REQ: it names the entry of the transfer it belongs to. -/
def partMsg (s : State) (r : OdReq) (write : Bool) (op : Nat) (k : Word32) (data : Bytes) : OdMsg :=
  match openSeg (pathOf s r.path) write r.txn with
  | some g => { op := op, index := g.index.toNat, sub := g.sub.toNat, param := k.toNat, data := data }
  | none => { op := op, index := 0, sub := 0, param := k.toNat, data := data }

def execFaultResume (r : OdReq) (panel : Nat) (number : Word16) (s : State) : Host.Outcome State Fault Refusal :=
  settle (doOdPut r 0x2706 (panel + 1) (toLe 2 number.toNat)) s

def execFaultAbort (r : OdReq) (panel : Nat) (number : Word16) (s : State) : Host.Outcome State Fault Refusal :=
  settle (doOdPut r 0x2707 (panel + 1) (toLe 2 number.toNat)) s

def execPoolConfigWrite (r : OdReq) (panel : Nat) (entries : Bool) (value : Word64) (s : State) : Host.Outcome State Fault Refusal :=
  settle (if entries then doOdPut r 0x2703 (panel + 1) (toLe 4 value.toNat) else doOdPut r 0x2702 (panel + 1) (toLe 8 value.toNat)) s

def execWaitAbort (r : OdReq) (panel : Nat) (tag : Word32) (s : State) : Host.Outcome State Fault Refusal :=
  settle (doOdPut r 0x2802 (panel + 1) (toLe 4 tag.toNat)) s

def execKnotGrantsWrite (r : OdReq) (panel : Nat) (data : Bytes) (s : State) : Host.Outcome State Fault Refusal :=
  settle (doOdWhole r 0x2805 (panel + 1) data) s

def execSchedAbort (r : OdReq) (panel : Nat) (tag : Word32) (s : State) : Host.Outcome State Fault Refusal :=
  settle (doOdPut r 0x3402 (panel + 1) (toLe 4 tag.toNat)) s

def execSchedDecide (r : OdReq) (panel : Nat) (step : Word32) (s : State) : Host.Outcome State Fault Refusal :=
  settle (doOdPut r 0x3409 (panel + 1) (toLe 4 step.toNat)) s

def execRestoreDone (r : OdReq) (panel : Nat) (knot : Byte) (good : Bool) (s : State) : Host.Outcome State Fault Refusal :=
  settle (doRestoreDone r panel knot good) s

def execRootRebuild (r : OdReq) (x : Byte) (s : State) : Host.Outcome State Fault Refusal :=
  settle (doOdPut r 0x2600 7 [x]) s

def execRootModeWrite (r : OdReq) (parityPort : Bool) (value : Byte) (s : State) : Host.Outcome State Fault Refusal :=
  settle (doOdPut r 0x2600 (if parityPort then 2 else 1) [value]) s

def execDirectWaysWrite (r : OdReq) (panel : Nat) (n : Byte) (s : State) : Host.Outcome State Fault Refusal :=
  settle (doOdPut r 0x2602 (panel + 1) [n]) s

def execPanelOpen (r : OdReq) (panel : Nat) (s : State) : Host.Outcome State Fault Refusal :=
  settle (doOdPut r (panelIdx panel 0) 7 [1]) s

def execPanelRelease (r : OdReq) (panel : Nat) (s : State) : Host.Outcome State Fault Refusal :=
  settle (doOdPut r (panelIdx panel 0) 7 [2]) s

def execSeamArm (r : OdReq) (s : State) : Host.Outcome State Fault Refusal := settle (doOdPut r 0x3001 1 [1]) s

def execSeamDisarm (r : OdReq) (s : State) : Host.Outcome State Fault Refusal := settle (doOdPut r 0x3001 1 [0]) s

def execSeamJoin (r : OdReq) (panel : Nat) (s : State) : Host.Outcome State Fault Refusal :=
  settle (doOdPut r (panelIdx panel 2) 1 [1]) s

def execSeamLeave (r : OdReq) (panel : Nat) (s : State) : Host.Outcome State Fault Refusal :=
  settle (doOdPut r (panelIdx panel 2) 1 [0]) s

def execKeyEstablish (r : OdReq) (panel : Nat) (data : Bytes) (s : State) : Host.Outcome State Fault Refusal :=
  settle (doOdWhole r (panelIdx panel 1) 2 data) s

def execKeyInstall (r : OdReq) (panel : Nat) (data : Bytes) (s : State) : Host.Outcome State Fault Refusal :=
  settle (doOdWhole r (panelIdx panel 1) 4 data) s

def execAttestNonce (r : OdReq) (data : Bytes) (s : State) : Host.Outcome State Fault Refusal :=
  settle (doOdWhole r 0x3010 (r.path + 1) data) s

def execCtxRestored (r : OdReq) (panel : Nat) (qp : Word16) (s : State) : Host.Outcome State Fault Refusal :=
  settle (doOdPut r 0x3205 (panel + 1) (toLe 2 qp.toNat)) s

def execBoot (r : OdReq) (source : Byte) (s : State) : Host.Outcome State Fault Refusal :=
  settle (doOdPut r 0x1800 4 [source]) s

def execModuleReset (r : OdReq) (s : State) : Host.Outcome State Fault Refusal := .next (doOdPut r 0x1800 8 [1] s)

def execWarmReset (r : OdReq) (s : State) : Host.Outcome State Fault Refusal := settle (doOdPut r 0x1800 8 [2]) s

def execPanelReset (r : OdReq) (panel : Nat) (s : State) : Host.Outcome State Fault Refusal :=
  settle (doOdPut r 0x1801 (panel + 1) [1]) s

def execPowerStateD0 (r : OdReq) (s : State) : Host.Outcome State Fault Refusal := settle (doOdPut r 0x1800 9 [0]) s

def execPowerStateD1 (r : OdReq) (s : State) : Host.Outcome State Fault Refusal := settle (doOdPut r 0x1800 9 [1]) s

def execPowerStateD2 (r : OdReq) (s : State) : Host.Outcome State Fault Refusal := settle (doOdPut r 0x1800 9 [2]) s

def execPowerStateD3 (r : OdReq) (s : State) : Host.Outcome State Fault Refusal := settle (doOdPut r 0x1800 9 [3]) s

def execRemapGo (r : OdReq) (panel : Nat) (core : Byte) (s : State) : Host.Outcome State Fault Refusal :=
  settle (doOdPut r 0x1906 (panel + 1) [core]) s

def execAssign (mac : BitVec 48) (node : NodeAssign) (s : State) : Host.Outcome State Fault Refusal :=
  alive (doAssign mac node.node.toNat node.txn) s

def execLeave (r : OdReq) (s : State) : Host.Outcome State Fault Refusal := alive (doLeave r) s

def execFabricIdWrite (r : OdReq) (value : Word16) (s : State) : Host.Outcome State Fault Refusal :=
  settle (doOdPut r 0x1100 2 (toLe 2 value.toNat)) s

def execRead (r : OdReq) (index : Word16) (sub : Byte) (s : State) : Host.Outcome State Fault Refusal :=
  alive (doOdRead r (readMsg index sub)) s

def execWrite (r : OdReq) (index : Word16) (sub : Byte) (data : Bytes) (s : State) : Host.Outcome State Fault Refusal :=
  settle (doOdPut r index.toNat sub.toNat data) s

def execSegReadInitiate (r : OdReq) (index : Word16) (sub : Byte) (s : State) : Host.Outcome State Fault Refusal :=
  alive (doSegRead r (segMsg 0x12 index sub 0)) s

def execSegWriteInitiate (r : OdReq) (index : Word16) (sub : Byte) (total : Word32) (s : State) : Host.Outcome State Fault Refusal :=
  alive (doSegWrite r (segMsg 0x13 index sub total)) s

def execSegment (r : OdReq) (k : Word32) (data : Bytes) (s : State) : Host.Outcome State Fault Refusal :=
  settle (doSegment r (partMsg s r true 0x14 k data)) s

def execSegReq (r : OdReq) (k : Word32) (s : State) : Host.Outcome State Fault Refusal :=
  alive (doSegReq r (partMsg s r false 0x15 k [])) s

def execAbort (r : OdReq) (s : State) : Host.Outcome State Fault Refusal := alive (doOdAbort r) s

def execSegTimeout (path : Nat) (s : State) : Host.Outcome State Fault Refusal := alive (doSegTimeout path) s

def execCorRead (r : OdReq) (index : Word16) (sub : Byte) (s : State) : Host.Outcome State Fault Refusal :=
  alive (doCorRead r index.toNat sub.toNat) s

def execEventAck (seq : Word32) (s : State) : Host.Outcome State Fault Refusal := alive (doEventAck seq) s

def execEventRetry (s : State) : Host.Outcome State Fault Refusal := alive (doEventRetry) s

def execPlcaBeaconLoss (s : State) : Host.Outcome State Fault Refusal := alive (doBeacon false) s

def execPlcaBeaconReturn (s : State) : Host.Outcome State Fault Refusal := alive (doBeacon true) s

end Sys2Proof.Machine
end

