-- ==== Sys2Proof/Machine/Dispatch.lean ====
section
/-! DEFINITION. The commands' meanings, one arm for each row of the opcode table. -/
namespace Sys2Proof.Machine

def exec (i : Instr) (s : State) : Host.Outcome State Fault Refusal :=
  match i with
  | .nop c h => Sys2Proof.Machine.execNop c h s
  | .endOp c h => Sys2Proof.Machine.execEndOp c h s
  | .loop c h level count1 => Sys2Proof.Machine.execLoop c h level count1 s
  | .next c h level => Sys2Proof.Machine.execNext c h level s
  | .seta c h reg value => Sys2Proof.Machine.execSeta c h reg value s
  | .adda c h reg incr => Sys2Proof.Machine.execAdda c h reg incr s
  | .waitq c h mask => Sys2Proof.Machine.execWaitq c h mask s
  | .yield c h => Sys2Proof.Machine.execYield c h s
  | .commit c h => Sys2Proof.Machine.execCommit c h s
  | .phase c h phase => Sys2Proof.Machine.execPhase c h phase s
  | .stepclose c h layer => Sys2Proof.Machine.execStepclose c h layer s
  | .load c h f => Sys2Proof.Machine.execLoad c h f s
  | .pass c h f mismatch => Sys2Proof.Machine.execPass c h f mismatch s
  | .checkRerun c array mismatch => Sys2Proof.Machine.execCheckRerun c array mismatch s
  | .drain c h f => Sys2Proof.Machine.execDrain c h f s
  | .nhold c h f => Sys2Proof.Machine.execNhold c h f s
  | .nstream c h f mismatches => Sys2Proof.Machine.execNstream c h f mismatches s
  | .ngraft1 c h f mismatches => Sys2Proof.Machine.execNgraft1 c h f mismatches s
  | .ngraft2 c h f mismatches => Sys2Proof.Machine.execNgraft2 c h f mismatches s
  | .vbin c h f => Sys2Proof.Machine.execVbin c h f s
  | .vfma c h f => Sys2Proof.Machine.execVfma c h f s
  | .vun c h f => Sys2Proof.Machine.execVun c h f s
  | .vred c h f => Sys2Proof.Machine.execVred c h f s
  | .vrow c h f => Sys2Proof.Machine.execVrow c h f s
  | .vcvt c h f => Sys2Proof.Machine.execVcvt c h f s
  | .vsoft c h f => Sys2Proof.Machine.execVsoft c h f s
  | .vmask c h f => Sys2Proof.Machine.execVmask c h f s
  | .vscan c h f => Sys2Proof.Machine.execVscan c h f s
  | .vopt c h alg desc => Sys2Proof.Machine.execVopt c h alg desc s
  | .fload c h slot image => Sys2Proof.Machine.execFload c h slot image s
  | .feval c h f => Sys2Proof.Machine.execFeval c h f s
  | .fderiv c h f => Sys2Proof.Machine.execFderiv c h f s
  | .operationRetire c q => Sys2Proof.Machine.execOperationRetire c q s
  | .moveCopy c h desc => Sys2Proof.Machine.execMoveCopy c h desc s
  | .moveSwatchRead c h desc => Sys2Proof.Machine.execMoveSwatchRead c h desc s
  | .moveSwatchWrite c h desc => Sys2Proof.Machine.execMoveSwatchWrite c h desc s
  | .moveTable c h desc => Sys2Proof.Machine.execMoveTable c h desc s
  | .moveZero c h desc => Sys2Proof.Machine.execMoveZero c h desc s
  | .moveSend c h desc => Sys2Proof.Machine.execMoveSend c h desc s
  | .stream c h channel desc => Sys2Proof.Machine.execStream c h channel desc s
  | .moverRequestIssue c => Sys2Proof.Machine.execMoverRequestIssue c s
  | .mergeWindowExpiry c => Sys2Proof.Machine.execMergeWindowExpiry c s
  | .chunkComplete c move => Sys2Proof.Machine.execChunkComplete c move s
  | .moveRetire c move => Sys2Proof.Machine.execMoveRetire c move s
  | .hostWindowFault c move => Sys2Proof.Machine.execHostWindowFault c move s
  | .faultResume r panel number => Sys2Proof.Machine.execFaultResume r panel number s
  | .faultAbort r panel number => Sys2Proof.Machine.execFaultAbort r panel number s
  | .faultTimeout panel number => Sys2Proof.Machine.execFaultTimeout panel number s
  | .poolConfigWrite r panel entries value => Sys2Proof.Machine.execPoolConfigWrite r panel entries value s
  | .kadd c h f => Sys2Proof.Machine.execKadd c h f s
  | .kset c h f => Sys2Proof.Machine.execKset c h f s
  | .kwaitge c h f => Sys2Proof.Machine.execKwaitge c h f s
  | .kwaiteq c h f => Sys2Proof.Machine.execKwaiteq c h f s
  | .karrive c h f => Sys2Proof.Machine.execKarrive c h f s
  | .spaceWait c h spool k => Sys2Proof.Machine.execSpaceWait c h spool k s
  | .dataWait c h spool k => Sys2Proof.Machine.execDataWait c h spool k s
  | .scommit c h spool k => Sys2Proof.Machine.execScommit c h spool k s
  | .srelease c h spool k => Sys2Proof.Machine.execSrelease c h spool k s
  | .spoolOccupancySample panel spool => Sys2Proof.Machine.execSpoolOccupancySample panel spool s
  | .remoteWaitRetry c => Sys2Proof.Machine.execRemoteWaitRetry c s
  | .watchdogExpiry c q => Sys2Proof.Machine.execWatchdogExpiry c q s
  | .waitAbort r panel tag => Sys2Proof.Machine.execWaitAbort r panel tag s
  | .knotGrantsWrite r panel data => Sys2Proof.Machine.execKnotGrantsWrite r panel data s
  | .kernelStart panel => Sys2Proof.Machine.execKernelStart panel s
  | .kernelEnd kid => Sys2Proof.Machine.execKernelEnd kid s
  | .preempt panel => Sys2Proof.Machine.execPreempt panel s
  | .kernelResume panel => Sys2Proof.Machine.execKernelResume panel s
  | .schedAbort r panel tag => Sys2Proof.Machine.execSchedAbort r panel tag s
  | .schedDecide r panel step => Sys2Proof.Machine.execSchedDecide r panel step s
  | .snapshotEntry panel => Sys2Proof.Machine.execSnapshotEntry panel s
  | .snapshotTimeout panel => Sys2Proof.Machine.execSnapshotTimeout panel s
  | .readFailure addr tagFailed => Sys2Proof.Machine.execReadFailure addr tagFailed s
  | .reconstructionComplete addr => Sys2Proof.Machine.execReconstructionComplete addr s
  | .regenerationComplete addr => Sys2Proof.Machine.execRegenerationComplete addr s
  | .restoreDone r panel knot good => Sys2Proof.Machine.execRestoreDone r panel knot good s
  | .rootPortDown x => Sys2Proof.Machine.execRootPortDown x s
  | .rootRebuild r x => Sys2Proof.Machine.execRootRebuild r x s
  | .rootModeWrite r parityPort value => Sys2Proof.Machine.execRootModeWrite r parityPort value s
  | .sanitizeComplete x ok => Sys2Proof.Machine.execSanitizeComplete x ok s
  | .sanitizeTimeout x => Sys2Proof.Machine.execSanitizeTimeout x s
  | .directWaysWrite r panel n => Sys2Proof.Machine.execDirectWaysWrite r panel n s
  | .streamFillStart panel => Sys2Proof.Machine.execStreamFillStart panel s
  | .streamFillComplete panel n => Sys2Proof.Machine.execStreamFillComplete panel n s
  | .tableGather tile => Sys2Proof.Machine.execTableGather tile s
  | .tableScatterAdd tile => Sys2Proof.Machine.execTableScatterAdd tile s
  | .tableUpdate tile => Sys2Proof.Machine.execTableUpdate tile s
  | .tableBatchPeriod slot => Sys2Proof.Machine.execTableBatchPeriod slot s
  | .tableBatchServe slot srcFab rows => Sys2Proof.Machine.execTableBatchServe slot srcFab rows s
  | .panelOpen r panel => Sys2Proof.Machine.execPanelOpen r panel s
  | .panelRelease r panel => Sys2Proof.Machine.execPanelRelease r panel s
  | .panelScrubComplete panel ms => Sys2Proof.Machine.execPanelScrubComplete panel ms s
  | .regionEntryValidate port w entry => Sys2Proof.Machine.execRegionEntryValidate port w entry s
  | .regionEntryRevoke port w entry => Sys2Proof.Machine.execRegionEntryRevoke port w entry s
  | .seamArm r => Sys2Proof.Machine.execSeamArm r s
  | .seamDisarm r => Sys2Proof.Machine.execSeamDisarm r s
  | .seamJoin r panel => Sys2Proof.Machine.execSeamJoin r panel s
  | .seamLeave r panel => Sys2Proof.Machine.execSeamLeave r panel s
  | .depositDense panel => Sys2Proof.Machine.execDepositDense panel s
  | .depositNoise panel => Sys2Proof.Machine.execDepositNoise panel s
  | .depositRowed panel => Sys2Proof.Machine.execDepositRowed panel s
  | .depositFree panel => Sys2Proof.Machine.execDepositFree panel s
  | .seamSlotTimeout slot => Sys2Proof.Machine.execSeamSlotTimeout slot s
  | .seamRelease slot => Sys2Proof.Machine.execSeamRelease slot s
  | .keyEstablish r panel data => Sys2Proof.Machine.execKeyEstablish r panel data s
  | .keyInstall r panel data => Sys2Proof.Machine.execKeyInstall r panel data s
  | .attestNonce r data => Sys2Proof.Machine.execAttestNonce r data s
  | .quoteReady leafOk => Sys2Proof.Machine.execQuoteReady leafOk s
  | .linkPartnerDetect l => Sys2Proof.Machine.execLinkPartnerDetect l s
  | .linkTrainingDone l lanes => Sys2Proof.Machine.execLinkTrainingDone l lanes s
  | .flitData l h => Sys2Proof.Machine.execFlitData l h s
  | .flitIdle l h => Sys2Proof.Machine.execFlitIdle l h s
  | .flitNak l h => Sys2Proof.Machine.execFlitNak l h s
  | .ident l m => Sys2Proof.Machine.execIdent l m s
  | .speedReq l target => Sys2Proof.Machine.execSpeedReq l target s
  | .speedAck l target seq => Sys2Proof.Machine.execSpeedAck l target seq s
  | .speedRefuse l => Sys2Proof.Machine.execSpeedRefuse l s
  | .retrain l => Sys2Proof.Machine.execRetrain l s
  | .retrainComplete l lanes => Sys2Proof.Machine.execRetrainComplete l lanes s
  | .linkRetrainTimeout l => Sys2Proof.Machine.execLinkRetrainTimeout l s
  | .replayTimeout l => Sys2Proof.Machine.execReplayTimeout l s
  | .speedLowerWindow l utilPct => Sys2Proof.Machine.execSpeedLowerWindow l utilPct s
  | .speedRaiseTrigger l => Sys2Proof.Machine.execSpeedRaiseTrigger l s
  | .packetForward l p => Sys2Proof.Machine.execPacketForward l p s
  | .sprayEscapeTimeout l p => Sys2Proof.Machine.execSprayEscapeTimeout l p s
  | .transmitUnderrun l => Sys2Proof.Machine.execTransmitUnderrun l s
  | .cutThroughStepDown l => Sys2Proof.Machine.execCutThroughStepDown l s
  | .ethFrameReceive l f => Sys2Proof.Machine.execEthFrameReceive l f s
  | .pfcSend l control fill => Sys2Proof.Machine.execPfcSend l control fill s
  | .pfcRepeat l control => Sys2Proof.Machine.execPfcRepeat l control s
  | .pfcReceive l prio quanta => Sys2Proof.Machine.execPfcReceive l prio quanta s
  | .lldpTransmit l => Sys2Proof.Machine.execLldpTransmit l s
  | .lldpReceive l fabric link digest => Sys2Proof.Machine.execLldpReceive l fabric link digest s
  | .neighborSolicitation l target => Sys2Proof.Machine.execNeighborSolicitation l target s
  | .ecnRateIncrease qp => Sys2Proof.Machine.execEcnRateIncrease qp s
  | .digestAnnounce => Sys2Proof.Machine.execDigestAnnounce s
  | .digest hdr ce payload arrival => Sys2Proof.Machine.execDigest hdr ce payload arrival s
  | .qpCreate port ring => Sys2Proof.Machine.execQpCreate port ring s
  | .qpDestroy port ring => Sys2Proof.Machine.execQpDestroy port ring s
  | .qpReset port ring => Sys2Proof.Machine.execQpReset port ring s
  | .send p => Sys2Proof.Machine.execSend p s
  | .ack p => Sys2Proof.Machine.execAck p s
  | .ackTimer qp => Sys2Proof.Machine.execAckTimer qp s
  | .nak p => Sys2Proof.Machine.execNak p s
  | .nakRetry qp psn => Sys2Proof.Machine.execNakRetry qp psn s
  | .nakLimitExpiry qp psn => Sys2Proof.Machine.execNakLimitExpiry qp psn s
  | .retryTimeout qp psn => Sys2Proof.Machine.execRetryTimeout qp psn s
  | .knot p => Sys2Proof.Machine.execKnot p s
  | .wake p => Sys2Proof.Machine.execWake p s
  | .contextRestoreComplete qp => Sys2Proof.Machine.execContextRestoreComplete qp s
  | .ctxRestored r panel qp => Sys2Proof.Machine.execCtxRestored r panel qp s
  | .allReduce port ring => Sys2Proof.Machine.execAllReduce port ring s
  | .reduceScatter port ring => Sys2Proof.Machine.execReduceScatter port ring s
  | .allGather port ring => Sys2Proof.Machine.execAllGather port ring s
  | .permute port ring => Sys2Proof.Machine.execPermute port ring s
  | .inboundWrite port bar0 offset data => Sys2Proof.Machine.execInboundWrite port bar0 offset data s
  | .bar2Read port offset => Sys2Proof.Machine.execBar2Read port offset s
  | .doorbell port ring tail => Sys2Proof.Machine.execDoorbell port ring tail s
  | .ringEnable port ring => Sys2Proof.Machine.execRingEnable port ring s
  | .ringDisable port ring => Sys2Proof.Machine.execRingDisable port ring s
  | .doorbellGraceExpiry port ring => Sys2Proof.Machine.execDoorbellGraceExpiry port ring s
  | .nopRecord port ring => Sys2Proof.Machine.execNopRecord port ring s
  | .kernel port ring => Sys2Proof.Machine.execKernel port ring s
  | .fence port ring => Sys2Proof.Machine.execFence port ring s
  | .fenceClear port ring => Sys2Proof.Machine.execFenceClear port ring s
  | .publish port ring => Sys2Proof.Machine.execPublish port ring s
  | .job port ring => Sys2Proof.Machine.execJob port ring s
  | .schedule port ring => Sys2Proof.Machine.execSchedule port ring s
  | .snapshot port ring => Sys2Proof.Machine.execSnapshot port ring s
  | .graftRegister port ring => Sys2Proof.Machine.execGraftRegister port ring s
  | .graftRelease port ring => Sys2Proof.Machine.execGraftRelease port ring s
  | .windowStart port ring => Sys2Proof.Machine.execWindowStart port ring s
  | .windowStop port ring => Sys2Proof.Machine.execWindowStop port ring s
  | .tableRegister port ring => Sys2Proof.Machine.execTableRegister port ring s
  | .tableRelease port ring => Sys2Proof.Machine.execTableRelease port ring s
  | .hint port ring => Sys2Proof.Machine.execHint port ring s
  | .hintExpiry panel => Sys2Proof.Machine.execHintExpiry panel s
  | .worklist port ring => Sys2Proof.Machine.execWorklist port ring s
  | .model port ring => Sys2Proof.Machine.execModel port ring s
  | .translationInvalidate port w page => Sys2Proof.Machine.execTranslationInvalidate port w page s
  | .eventConsumerWrite port w value => Sys2Proof.Machine.execEventConsumerWrite port w value s
  | .completionConsumerWrite port ring value => Sys2Proof.Machine.execCompletionConsumerWrite port ring value s
  | .irqHoldoffExpiry port vector => Sys2Proof.Machine.execIrqHoldoffExpiry port vector s
  | .portRetrain port => Sys2Proof.Machine.execPortRetrain port s
  | .portRetrainComplete port => Sys2Proof.Machine.execPortRetrainComplete port s
  | .hostLost port => Sys2Proof.Machine.execHostLost port s
  | .attach port => Sys2Proof.Machine.execAttach port s
  | .hostGraceExpiry port => Sys2Proof.Machine.execHostGraceExpiry port s
  | .opRequestTick => Sys2Proof.Machine.execOpRequestTick s
  | .capUpdate powerMw => Sys2Proof.Machine.execCapUpdate powerMw s
  | .ceilingStep => Sys2Proof.Machine.execCeilingStep s
  | .opChange => Sys2Proof.Machine.execOpChange s
  | .pwrbrkAssert => Sys2Proof.Machine.execPwrbrkAssert s
  | .pwrbrkDeassert => Sys2Proof.Machine.execPwrbrkDeassert s
  | .droopDetect group => Sys2Proof.Machine.execDroopDetect group s
  | .droopRecover group skipped => Sys2Proof.Machine.execDroopRecover group skipped s
  | .inputUndervoltage mv => Sys2Proof.Machine.execInputUndervoltage mv s
  | .inputVoltageRecover mv => Sys2Proof.Machine.execInputVoltageRecover mv s
  | .inputBrownoutExpiry => Sys2Proof.Machine.execInputBrownoutExpiry s
  | .inputOvervoltage mv => Sys2Proof.Machine.execInputOvervoltage mv s
  | .thermalSample temps => Sys2Proof.Machine.execThermalSample temps s
  | .powerOn calOk => Sys2Proof.Machine.execPowerOn calOk s
  | .powerRemoval => Sys2Proof.Machine.execPowerRemoval s
  | .boot r source => Sys2Proof.Machine.execBoot r source s
  | .moduleResetAssert => Sys2Proof.Machine.execModuleResetAssert s
  | .moduleResetRelease => Sys2Proof.Machine.execModuleResetRelease s
  | .moduleReset r => Sys2Proof.Machine.execModuleReset r s
  | .warmReset r => Sys2Proof.Machine.execWarmReset r s
  | .panelReset r panel => Sys2Proof.Machine.execPanelReset r panel s
  | .powerStateD0 r => Sys2Proof.Machine.execPowerStateD0 r s
  | .powerStateD1 r => Sys2Proof.Machine.execPowerStateD1 r s
  | .powerStateD2 r => Sys2Proof.Machine.execPowerStateD2 r s
  | .powerStateD3 r => Sys2Proof.Machine.execPowerStateD3 r s
  | .d1IdleExpiry => Sys2Proof.Machine.execD1IdleExpiry s
  | .coreRemap c bad => Sys2Proof.Machine.execCoreRemap c bad s
  | .coreHeartbeatProbe c answered => Sys2Proof.Machine.execCoreHeartbeatProbe c answered s
  | .remapGo r panel core => Sys2Proof.Machine.execRemapGo r panel core s
  | .hubAdoption tile => Sys2Proof.Machine.execHubAdoption tile s
  | .patrolScrub stack corrected uncorrectable queued => Sys2Proof.Machine.execPatrolScrub stack corrected uncorrectable queued s
  | .rowRepair stack => Sys2Proof.Machine.execRowRepair stack s
  | .moduleFatal cause tile => Sys2Proof.Machine.execModuleFatal cause tile s
  | .assign mac node => Sys2Proof.Machine.execAssign mac node s
  | .leave r => Sys2Proof.Machine.execLeave r s
  | .fabricIdWrite r value => Sys2Proof.Machine.execFabricIdWrite r value s
  | .read r index sub => Sys2Proof.Machine.execRead r index sub s
  | .write r index sub data => Sys2Proof.Machine.execWrite r index sub data s
  | .segReadInitiate r index sub => Sys2Proof.Machine.execSegReadInitiate r index sub s
  | .segWriteInitiate r index sub total => Sys2Proof.Machine.execSegWriteInitiate r index sub total s
  | .segment r k data => Sys2Proof.Machine.execSegment r k data s
  | .segReq r k => Sys2Proof.Machine.execSegReq r k s
  | .abort r => Sys2Proof.Machine.execAbort r s
  | .segTimeout path => Sys2Proof.Machine.execSegTimeout path s
  | .corRead r index sub => Sys2Proof.Machine.execCorRead r index sub s
  | .eventAck seq => Sys2Proof.Machine.execEventAck seq s
  | .eventRetry => Sys2Proof.Machine.execEventRetry s
  | .plcaBeaconLoss => Sys2Proof.Machine.execPlcaBeaconLoss s
  | .lossOfSignal l => Sys2Proof.Machine.execLossOfSignal l s
  | .laneFailure l => Sys2Proof.Machine.execLaneFailure l s
  | .rootPortUp x lanes gts capacity => Sys2Proof.Machine.execRootPortUp x lanes gts capacity s
  | .rootRebuildComplete x => Sys2Proof.Machine.execRootRebuildComplete x s
  | .plcaBeaconReturn => Sys2Proof.Machine.execPlcaBeaconReturn s
  | .pfcQuantaExpiry l control => Sys2Proof.Machine.execPfcQuantaExpiry l control s

end Sys2Proof.Machine
end

