-- ==== Sys2Proof/Safety.lean ====
section
/-! DEFINITION. What claims about the block are stated in terms of: the invariant of its state, the conditions under which a
command has its effect, and the forms that effects take. -/
namespace Sys2Proof.Machine

/-- The invariant: device memory is in its canonical form, so that equal contents are equal data. -/
def State.Inv (s : State) : Prop := Memory.wf s.mem = true

/-- Commands have their effect: the module has power, is not held in reset (R349), and no module-fatal condition stands
(R375). -/
def Alive (s : State) : Prop := powered s = true ∧ s.startup.fatal = false

/-- The hubs take records and start kernels: the module is READY, in D0 (R356). -/
def HubReady (s : State) : Prop := Alive s ∧ s.startup.running = true ∧ s.startup.dstate = 0

/-- The same in D0 or D1: the hubs go on with what they have. -/
def HubAwake (s : State) : Prop := Alive s ∧ s.startup.running = true ∧ s.startup.dstate ≤ 1

/-! ### Operations of the sequencer (R75–R82) -/

/-- The operation at n of core c's program is listed and readable, so that the sequencer comes to it without a refusal. -/
def ReadsOp (s : State) (c n : Nat) : Prop :=
  n < (coreOf s c).progLen ∧ listedOpcodes.contains (opcodeAt s c n) = true ∧
    badIn s (coreStore c + programOffset + 16 * n) 16 = false

/-- Operation i with header h can be dispatched on core c: its kernel runs there, the program's word at the program counter spells
it, its fields are good, and what it depends on has retired. -/
def CanDispatch (s : State) (c : Nat) (h : OpHdr) (i : Instr) : Prop :=
  Alive s ∧ atOp s c i = true ∧ staticCause s c h i = none ∧
    depMet (coreOf s c) h.dep.toNat (needOf (coreOf s c) h) = true

/-- The queue entry of operation i as core c dispatches it. -/
def entryOf (s : State) (c : Nat) (h : OpHdr) (i : Instr) : QEntry :=
  { idx := (coreOf s c).pc.toNat, cmd := i, areg := (coreOf s c).areg, depQ := h.dep.toNat
    need := needOf (coreOf s c) h, started := false, ready := false, move := 0, expiries := 0
    seq := dispatched (coreOf s c), ord := (queueAt (coreOf s c) (queueOf i)).disp }

/-- Operation i is in its queue: one operation more has been dispatched into it. -/
def enqueued (c : Nat) (h : OpHdr) (i : Instr) (s : State) : State :=
  updQueue c (queueOf i) (fun q => { q with disp := q.disp + 1, entries := q.entries ++ [entryOf s c h i] }) s

/-- The operation alone in queue q of core c has been started with effect u, and the sequencer has gone on to the next. -/
def begun (c q move : Nat) (ready : Bool) (u : State) : State :=
  updCore c (fun x => { x with pc := x.pc + 1 }) (updQueue c q (markStarted 0 move ready) u)

/-- Operation i of core c is the only one there, and can be dispatched at once. -/
def OpReady (s : State) (c : Nat) (h : OpHdr) (i : Instr) : Prop :=
  CanDispatch s c h i ∧ queuesEmpty (coreOf s c) = true ∧ s.badWords = []

/-- Operation i of core c begins with effect u: it is in its queue as started, and the sequencer is at the next operation. -/
def Begins (s : State) (c : Nat) (i : Instr) (ready : Bool) (u : State) : Prop :=
  ReadsOp u c ((coreOf u c).pc.toNat + 1) →
    exec i s = .next (begun c (queueOf i) (if queueOf i = 11 then (coreOf s c).nextMove else 0) ready u)

/-- The same of an operation on knots: collectives that wait then go on as far as they can. -/
def BeginsKnot (s : State) (c : Nat) (i : Instr) (ready : Bool) (u : State) : Prop :=
  ReadsOp u c ((coreOf u c).pc.toNat + 1) → exec i s = .next (pumpColls (begun c (queueOf i) 0 ready u))

/-- The sequencer of core c goes on to the next operation. -/
def nextOp (c : Nat) (s : State) : State := updCore c (fun x => { x with pc := x.pc + 1 }) s

/-- A request r of move m reads good data that the panel may read, and writes within the device what the panel may write. -/
def Lands (s : State) (p : Nat) (m : Move) (r : MergeReq) : Prop :=
  m.writes = true ∧ grants s p true r.dst r.len = true ∧
    (m.reads = true → inHost r.src = false ∧ grants s p false r.src r.len = true) ∧ s.badWords = [] ∧
    (m.opensSwatch = true → firstRefused s p r.src m.d.n0 = none) ∧
    readCheck m r s = (none, s) ∧ lostPartly s r.dst r.len = none ∧ inHost r.dst = false

/-- Whoever waits on knot i is a core of this module other than c. -/
def OthersWait (s : State) (c i : Nat) : Prop := ∀ w ∈ s.waiters, w.knot = i → w.fab = none ∧ w.core ≠ c

/-- The operands that a table request's list takes: none for an update, which has no list. -/
def tableList (q : TableReq) : Nat × Nat := (q.f 16 8, if q.f 4 1 = 3 then 0 else 8 * q.count)

/-- Request q at the front of tile t's queue is accepted: its kernel is there, R164 refuses nothing of it or of its list, what it
names is granted, and its list can be read. -/
def TableAccepted (s : State) (t : Nat) (q : TableReq) : Prop :=
  HubReady s ∧ (∃ i, s.tableQ.find? (·.1 == t) = some (i, q)) ∧ (s.kernels.any (·.kid == q.kid)) = true ∧
    reqCause s q = none ∧ grants s q.panel false (tableList q).1 (tableList q).2 = true ∧ waitData q [tableList q] s = none ∧
    listCause s q = none ∧ reqRegion s q = none

/-! ### Flits -/

/-- A flit that passes its CRC-64 and whose FEC lost no codeword. -/
def FlitGood (h : FlitHdr) : Prop := h.crcOk = true ∧ h.fecLost = 0

/-- The module once a good flit is counted and what it acknowledges has left the replay buffer. -/
def flitSeen (l : Nat) (h : FlitHdr) (s : State) : State := takeAck l h (linkCount l 8 1 (linkCount l 32 h.fecFixed s))

/-- The module once a good numbered flit in order is accepted, with its credits. -/
def flitTaken (l : Nat) (h : FlitHdr) (s : State) : State :=
  takeCredits l h (updLink l (fun x => { x with rxExpect := x.rxExpect + 1, discarding := false, naks := 0 }) (flitSeen l h s))

/-- What follows the effect of an accepted flit: its acknowledgement, and what waited. -/
def flitDone (l : Nat) (s : State) : State := afterFlit l (sendPlainFlit l 1 s)

/-- The numbered flits of the table with header h on link l. -/
def numberedFlits (l : Nat) (h : FlitHdr) (m : IdentMsg) (t : BitVec 2) (q : BitVec 12) : List Instr :=
  [.flitData l h, .ident l ⟨h, m⟩, .speedReq l ⟨h, t⟩, .speedAck l ⟨h, t⟩ q, .speedRefuse ⟨l, h⟩, .retrain ⟨l, some h⟩]

/-- The module once a packet with all its checks good is counted on its link. -/
def packetSeen (p : Packet) (s : State) : State :=
  linkCount p.link 24 p.payload.length (linkCount p.link 144 (if p.ce then 1 else 0) s)

/-- A packet comes in whole on a link that takes its class. -/
def PacketGood (s : State) (p : Packet) : Prop :=
  p.link < 24 ∧ linkUp s (p.hdr.cls == 3) p.link = true ∧ (native s = false → p.hdr.cls ≠ 3 → ethBlocked s p.hdr.srcFab.toNat = false) ∧
    (native s = true → p.intact = true) ∧ headerBroken p = false

/-! ### Packets and records -/

/-- A packet that a READY queue pair of this module takes: of its kind, from its partner, with its context cached, its payload b
authentic and its number new (R276, R278, R282). -/
def PacketNew (s : State) (control : Bool) (pkt : Packet) (b : Bytes) : Prop :=
  let x := qpOf s pkt.hdr.dstQp.toNat
  HubReady s ∧ linksPowered s = true ∧ PacketGood s pkt ∧ pkt.hdr.dstFab.toNat = fabricId s ∧ x.st = .ready ∧
    x.control = control ∧ x.remFab = pkt.hdr.srcFab.toNat ∧ x.remQp = pkt.hdr.srcQp.toNat ∧ x.cached = true ∧
    openPkt s x pkt = some b ∧ psnFate x pkt.hdr.psn = .new

/-- The module as a packet finds it: the packet is counted on its link, the context is the one used last, and a congestion mark is noted. -/
def met (pkt : Packet) (s : State) : State :=
  let q := pkt.hdr.dstQp.toNat
  touchQp q (if pkt.ce then updQp q (fun x => { x with ece := true }) (packetSeen pkt s) else packetSeen pkt s)

/-- An acknowledgement or a NAK reaches its queue pair with payload b. -/
def AnswerNew (s : State) (pkt : Packet) (b : Bytes) : Prop :=
  HubReady s ∧ linksPowered s = true ∧ PacketGood s pkt ∧ answerFor s pkt = some b

/-- Record c stands at the head of its ring, and the hub takes records. -/
def AtHead (s : State) (h r : Nat) (c : Rec) : Prop := HubReady s ∧ headRec s h r = some c

/-! ### Requests of the object dictionary (R379–R393) -/

/-- The write of an entry as a request spells it. -/
def putMsg (index sub : Nat) (data : Bytes) : OdMsg := { op := 0x11, index := index, sub := sub, param := 0, data := data }

/-- The last segment of a segmented write of an entry. -/
def wholeMsg (index sub : Nat) (data : Bytes) : OdMsg :=
  { op := 0x14, index := index, sub := sub, param := (data.length + 1023) / 1024 - 1, data := data }

/-- A request comes in on its path, and is no repeat of the one that the management port answered last. -/
def TakesRequest (s : State) (r : OdReq) (m : OdMsg) : Prop :=
  Alive s ∧ pathOpen s r.path = true ∧ (r.path = 0 → ∀ e, (pathOf s 0).last = some e → e.1 ≠ requestKey r m)

/-- The module as a request finds it: the management port has counted the frame. -/
def heard (r : OdReq) (s : State) : State := if r.path = 0 then odCount 0x1101 1 1 s else s

/-- The write of an entry is heard, and its requester may write it. -/
def MayPut (s : State) (r : OdReq) (index sub : Nat) (data : Bytes) : Prop :=
  TakesRequest s r (putMsg index sub data) ∧
    requestCode (wakeD1 (heard r s)) r.path r.panel index sub true (leNat data) = 0

/-- The answer of status 0 to the write of an entry has left, and collectives that wait have gone on. -/
def answered (r : OdReq) (index sub : Nat) (data : Bytes) (u : State) : State :=
  pumpColls (answer r (putMsg index sub data) 0x20 0 0 [] u)

end Sys2Proof.Machine
end

