-- ==== Sys2Proof/Certificates/Slice0/Obligations.lean ====
section
/-! DEFINITION. The statements about the block, for the provers. -/
open Sys2Proof Sys2Proof.Machine

/-! ### Commands and the queue -/

/-- The command at the front of the queue has its effect on a state whose queue is the rest. -/
def Obligations.StepTakesFront : Prop :=
  (∀ (i : Instr) (rest : List Instr) (s : State), s.pending = i :: rest → step s = exec i { s with pending := rest }) ∧
  ∀ s : State, s.pending = [] → step s = .next (idleTick s)

/-- Every command is answered with a next state: no command faults and none is refused. -/
def Obligations.EveryCommandAnswers : Prop := ∀ (i : Instr) (s : State), ∃ t, exec i s = .next t

/-- Device memory stays in its canonical form through every step. -/
def Obligations.StepKeepsMemoryCanonical : Prop :=
  ∀ s t : State, s.Inv → step s = .next t → t.Inv

/-- Commands leave first in, first out: a step takes the front command and no other, and no command adds one. -/
def Obligations.QueueIsFirstInFirstOut : Prop :=
  (∀ (i : Instr) (s t : State), exec i s = .next t → t.pending = s.pending) ∧
  ∀ (i : Instr) (rest : List Instr) (s t : State), s.pending = i :: rest → step s = .next t → t.pending = rest

/-! ### The sequencer (R75–R81, R129) -/

/-- An operation whose word does not stand at its core's program counter changes nothing; an unlisted opcode spells none, and the
example word of R83 spells its PASS. NOP, LOOP, NEXT, SETA and ADDA: the loop stack, the address registers and the program counter of their core change as R79 and
Table 4.5 say, and nothing else does. A LOOP or NEXT of another level than the innermost, an END with a level open and the end of
the program without END are refused with event 0x2301. -/
def Obligations.ControlOperations : Prop :=
  (∀ (c : Nat) (h : OpHdr) (s : State),
    (CanDispatch s c h (.nop c h) → ReadsOp s c ((coreOf s c).pc.toNat + 1) → exec (.nop c h) s = .next (nextOp c s)) ∧
    (∀ (k : BitVec 2) (n : BitVec 24), CanDispatch s c h (.loop c h k n) → ReadsOp s c ((coreOf s c).pc.toNat + 1) →
      exec (.loop c h k n) s = .next (nextOp c
        (updCore c (fun x => { x with loops := x.loops ++ [⟨n.toNat + 1, (coreOf s c).pc.toNat + 1⟩] }) s))) ∧
    (∀ (k : BitVec 2) (l : LoopLevel), CanDispatch s c h (.next c h k) → (coreOf s c).loops.getLast? = some l →
      (1 < l.count → exec (.next c h k) s = .next (updCore c (fun x => { x with pc := BitVec.ofNat 16 l.start })
        (updCore c (fun x => { x with loops := x.loops.dropLast ++ [{ l with count := l.count - 1 }] }) s))) ∧
      (l.count ≤ 1 → ReadsOp s c ((coreOf s c).pc.toNat + 1) →
        exec (.next c h k) s = .next (nextOp c (updCore c (fun x => { x with loops := x.loops.dropLast }) s)))) ∧
    (∀ (r : BitVec 4) (v : BitVec 20), CanDispatch s c h (.seta c h r v) → ReadsOp s c ((coreOf s c).pc.toNat + 1) →
      exec (.seta c h r v) s = .next (nextOp c (updCore c (fun x => { x with areg := sset 0 x.areg r.toNat v }) s))) ∧
    (∀ (r : BitVec 4) (v : BitVec 20), CanDispatch s c h (.adda c h r v) → ReadsOp s c ((coreOf s c).pc.toNat + 1) →
      exec (.adda c h r v) s = .next (nextOp c
        (updCore c (fun x => { x with areg := sset 0 x.areg r.toNat (sget 0 (coreOf s c).areg r.toNat + v) }) s))) ∧
    (Alive s → let x := coreOf s c
      (∀ (k : BitVec 2) (n : BitVec 24), atOp s c (.loop c h k n) = true → x.loops.length ≠ k.toNat →
        exec (.loop c h k n) s = .next (opRefuse c x.pc.toNat (opcodeOf (.loop c h k n)) 2 s)) ∧
      (∀ k : BitVec 2, atOp s c (.next c h k) = true → x.loops.length ≠ k.toNat + 1 →
        exec (.next c h k) s = .next (opRefuse c x.pc.toNat (opcodeOf (.next c h k)) 2 s)) ∧
      (atOp s c (.endOp c h) = true → x.loops ≠ [] → exec (.endOp c h) s = .next (pumpColls (opRefuse c x.pc.toNat (opcodeOf (.endOp c h)) 2 s)))) ∧
    (CanDispatch s c h (.nop c h) → (coreOf s c).progLen ≤ (coreOf s c).pc.toNat + 1 →
      exec (.nop c h) s = .next (opRefuse c ((coreOf s c).pc.toNat + 1) 0 5 (nextOp c s))) ∧
    ∀ n o cause : Nat, opRefuse c n o cause s =
      coreFault c 0x2301 (coreBlock s c) (n % 4096 + 2 ^ 16 * o + 2 ^ 24 * cause) (tagOnCore s c) s) ∧
  (∀ (c : Nat) (h : OpHdr) (s : State) (k : BitVec 2) (n : BitVec 24) (r ph : BitVec 4) (v : BitVec 20) (m : BitVec 16) (f : FlatF)
      (l : LoadF) (a : PassF) (d : DrainF),
    ∀ i ∈ [Instr.nop c h, .loop c h k n, .next c h k, .seta c h r v, .adda c h r v, .waitq c h m, .yield c h, .phase c h ph,
        .vbin c h f, .load c h l, .pass c h a [], .drain c h d, .moveCopy c h n],
      decodeOp c (opWord s c (coreOf s c).pc.toNat) ≠ some i.asWord → exec i s = .next s) ∧
  (∀ (c w : Nat), decodeOp c w = none ↔ w / 2 ^ 120 % 256 ∉ listedOpcodes) ∧
  ∀ c : Nat, decodeOp c 0x11F01402023FC0000220200000000000 = some (.pass c { dep := 15, slack := 0 }
    { target := 0, swap := true, column := false, start := true, last := false, fuse := false, sfmt := 2, tfmt := 2, rows1 := 255
      base := 0, stride := 17, src := 0x10000 } [])

/-- Address registers after SETA and ADDA: the one named takes the value or the sum, every other keeps its own, and A0 reads 0
(R78). -/
def Obligations.AddressRegisters : Prop :=
  ∀ (c : Nat) (h : OpHdr) (r : BitVec 4) (v : BitVec 20) (s : State), ReadsOp s c ((coreOf s c).pc.toNat + 1) →
    (CanDispatch s c h (.seta c h r v) → ∃ t, exec (.seta c h r v) s = .next t ∧ aReg (coreOf t c) r.toNat = v.toNat ∧
      (∀ k, k ≠ r.toNat → aReg (coreOf t c) k = aReg (coreOf s c) k) ∧ ∀ d, d ≠ c → coreOf t d = coreOf s d) ∧
    (CanDispatch s c h (.adda c h r v) → ∃ t, exec (.adda c h r v) s = .next t ∧
      aReg (coreOf t c) r.toNat = (aReg (coreOf s c) r.toNat + v.toNat) % 2 ^ 20 ∧
      (∀ k, k ≠ r.toNat → aReg (coreOf t c) k = aReg (coreOf s c) k) ∧ ∀ d, d ≠ c → coreOf t d = coreOf s d) ∧
    aReg (coreOf s c) 0 = 0

/-- WAITQ holds dispatch while a named queue has an unretired operation. YIELD waits until every queue is empty, unloads the
function slots and writes the record from which a pre-empted kernel goes on. PHASE closes the core's phase, adding its time to the
owner's total, and enters another (Table 4.5, R80, R129, R322). -/
def Obligations.WaitYieldPhase : Prop :=
  (∀ (c : Nat) (h : OpHdr) (mask : BitVec 16) (s : State), CanDispatch s c h (.waitq c h mask) →
    ((∀ q < 13, bitOf mask.toNat q = true → (queueAt (coreOf s c) q).entries = []) →
      ReadsOp s c ((coreOf s c).pc.toNat + 1) → exec (.waitq c h mask) s = .next (nextOp c s)) ∧
    ((∃ q < 13, bitOf mask.toNat q = true ∧ (queueAt (coreOf s c) q).entries ≠ []) → exec (.waitq c h mask) s = .next s)) ∧
  (∀ (c : Nat) (h : OpHdr) (s : State) (k : Kernel), CanDispatch s c h (.yield c h) → kernelOnCore s c = some k →
    let t := odCount 0x2301 5 1 (updCore c (fun x =>
      { x with fslots := [], yieldRec := contextRecord s c ((coreOf s c).pc.toNat + 1) 0 }) s)
    (queuesEmpty (coreOf s c) = false → exec (.yield c h) s = .next s) ∧
    (queuesEmpty (coreOf s c) = true → ReadsOp s c ((coreOf s c).pc.toNat + 1) →
      (k.phase ≠ .stopping → exec (.yield c h) s = .next (nextOp c t)) ∧
      (k.phase = .stopping →
        exec (.yield c h) s = .next (saveIfStopped k.kid (nextOp c (updCore c (fun x => { x with yielded := true }) t)))))) ∧
  (∀ (c : Nat) (h : OpHdr) (ph : BitVec 4) (s : State) (p : Nat), CanDispatch s c h (.phase c h ph) →
    ReadsOp s c ((coreOf s c).pc.toNat + 1) → ownerOfCore s c = some p →
    let x := coreOf s c
    exec (.phase c h ph) s = .next (nextOp c (updCore c (fun x => { x with phase := ph.toNat, phaseSince := s.time })
      (updPanel p (fun y => { y with phaseNs := sset 0 y.phaseNs x.phase ((sget 0 y.phaseNs x.phase + (s.time - x.phaseSince)) % 2 ^ 64) }) s))))

/-- COMMIT and END wait until every queue has retired. COMMIT then saves the context record and the counts in the slots by turns,
and releases spool entries; END ends the core's part of the kernel. -/
def Obligations.CommitAndEnd : Prop :=
  ∀ (c : Nat) (h : OpHdr) (s : State) (k : Kernel), kernelOnCore s c = some k →
    (CanDispatch s c h (.commit c h) → queuesEmpty (coreOf s c) = false → exec (.commit c h) s = .next (pumpColls s)) ∧
    (CanDispatch s c h (.endOp c h) → queuesEmpty (coreOf s c) = false → exec (.endOp c h) s = .next (pumpColls s)) ∧
    (CanDispatch s c h (.commit c h) → queuesEmpty (coreOf s c) = true →
      let t := saveSpools c k.panel s
      let y := coreOf t c
      let v : CommitSave := { record := contextRecord t c ((coreOf s c).pc.toNat + 1) (y.commitSeq + 1),
                              spoolP := y.spoolP, spoolC := y.spoolC, remote := y.remote, replay := y.replay }
      ReadsOp t c ((coreOf t c).pc.toNat + 1) →
      exec (.commit c h) s =
        .next (pumpColls (pumpCores k.panel (nextOp c (odCount 0x2301 6 1 (updCore c (putCommit y.commitSeq v) t)))))) ∧
    (CanDispatch s c h (.endOp c h) → queuesEmpty (coreOf s c) = true →
      exec (.endOp c h) s = .next (pumpColls (pumpCores k.panel (saveIfStopped k.kid
        (enterPhase c 5 (updCore c (fun x => { x with ended := true }) (saveSpools c k.panel s)))))))

/-- A dependency that has not retired far enough holds a control operation, which counts the stall; a full queue stalls any
other operation. OPERATION_RETIRE takes the head of its queue off when its effects are complete, and not before. -/
def Obligations.StallsAndRetirement : Prop :=
  (∀ (c : Nat) (h : OpHdr) (s : State), Alive s →
    (∀ (r : BitVec 4) (v : BitVec 20) (m : BitVec 16) (ph : BitVec 4),
      ∀ i ∈ [Instr.nop c h, .seta c h r v, .adda c h r v, .waitq c h m, .yield c h, .phase c h ph], atOp s c i = true →
      staticCause s c h i = none → depMet (coreOf s c) h.dep.toNat (needOf (coreOf s c) h) = false → exec i s = .next (odCount 0x2301 3 1 s)) ∧
    (∀ (f : FlatF), atOp s c (.vbin c h f) = true → staticCause s c h (.vbin c h f) = none → 16 ≤ (queueAt (coreOf s c) 9).entries.length →
      exec (.vbin c h f) s = .next (odCount 0x2301 3 1 s)) ∧
    ∀ (d : BitVec 24), atOp s c (.moveCopy c h d) = true → staticCause s c h (.moveCopy c h d) = none → 16 ≤ (queueAt (coreOf s c) 11).entries.length →
      exec (.moveCopy c h d) s = .next (odCount 0x2301 3 1 s)) ∧
  (∀ (c q : Nat) (s : State) (e : QEntry) (rest : List QEntry) (p : Nat), Alive s → panelOnCore s c = some p →
    (queueAt (coreOf s c) q).entries = e :: rest →
    ((e.started && e.ready) = false → exec (.operationRetire c q) s = .next (pumpColls s)) ∧
    ((e.started && e.ready) = true →
      exec (.operationRetire c q) s =
        .next (pumpColls (pumpCores p (pumpCore c pumpRounds (countRetired e.cmd (updQueue c q popHead s)))))))

/-! ### The arrays and the needle (R21–R41, R83) -/

/-- LOAD fills the inactive buffer of every array of its target from the store. -/
def Obligations.LoadFillsBuffer : Prop :=
  ∀ (c : Nat) (h : OpHdr) (f : LoadF) (s : State) (k : Kernel) (ks m : Nat), kernelOnCore s c = some k →
    let i := Instr.load c h f
    let s1 := enqueued c h i s
    let x := coreOf s1 c
    let b := readLoad s1 c f.sfmt f.tfmt ks (caAddr x f.elem) (8 * f.stride.toNat) (caAddr x f.scale)
    OpReady s c h i → pairShape f.sfmt f.tfmt = some (ks, m) →
      badOperand [strided (caAddr x f.elem) ks (8 * f.stride.toNat) (codeBytes f.sfmt 128),
        (caAddr x f.scale, (if hasScale f.sfmt then 4 * ks else 0) + (if f.sfmt = 0x03 then 4 * ks else 0))] = none →
      Begins s c i true (countReserved c k.panel (reservedCodes f.sfmt b.elems)
        ((targetArrays f.target.toNat).foldl (fun s n => updArr c n (fun a =>
          if a.active then { a with buf0 := b } else { a with buf1 := b }) s) s1))

/-- PASS runs the rows of its operand through the active buffers, swapped first where it says so. Rows that the residue check
found wrong are held back for the rerun, and are final for no DRAIN until it lands (R35). CHECK_RERUN reads the operands again and
runs the held rows again. When none mismatches the pass may retire; a row that mismatches for the last allowed time makes the
mismatch persistent: what the pass wrote is taken back, and the core fails (R36). -/
def Obligations.PassesAndReruns : Prop :=
  (∀ (c : Nat) (h : OpHdr) (f : PassF) (mis : List Nat) (s : State) (k : Kernel) (ks m : Nat), kernelOnCore s c = some k →
    let i := Instr.pass c h f mis
    let s1 := enqueued c h i s
    let x := coreOf s1 c
    let M := f.rows1.toNat + 1
    let t := f.target.toNat
    let ns := targetArrays t
    let us := passBufs x f false
    let src := caAddr x f.src
    let turned := ns.foldl (fun s n => updArr c n (fun a =>
      { a with active := if f.swap then !a.active else a.active, before := [] }) s) s1
    let run := runRows c k.panel us f src ks m (gangOf t) ((List.range M).filter fun r => !mis.contains r) turned
    let bad := (List.range M).filter mis.contains
    OpReady s c h i → pairShape f.sfmt f.tfmt = some (ks, m) → (∀ n, (arrOf x n).held = []) →
      f.base.toNat + (M + gangOf t - 1) / gangOf t ≤ (if f.column then 512 / m else 512) →
      (∀ u ∈ us, u.2.loaded = true ∧ u.2.sfmt = f.sfmt ∧ u.2.tfmt = f.tfmt ∧ (f.column = true → u.2.square = true)) →
      badOperand [strided src M (8 * f.stride.toNat) (rowBytes f.tfmt (if f.column then 128 else ks))] = none →
      (bad = [] → Begins s c i true run) ∧
      (bad ≠ [] → Begins s c i false (odCount 0x2101 1 bad.length (updArr c (targetFirst t) (fun y =>
        { y with held := [{ f := f, src := src, buf := (us.headD (0, {})).2, rows := bad, attempts := 1 }] })
          (bad.foldl (suppressRow c t f.base.toNat) run))))) ∧
  (∀ (c n : Nat) (mis : List Nat) (s : State) (p : Nat) (hp : HeldPass) (rest : List HeldPass) (ks m : Nat), Alive s →
    (coreOf s c).failed = false → (coreOf s c).awaitHost = false → (coreOf s c).lost = false →
    panelOnCore s c = some p → (arrOf (coreOf s c) n).held = hp :: rest → pairShape hp.f.sfmt hp.f.tfmt = some (ks, m) →
    let ns := targetArrays hp.f.target.toNat
    let u := readLoad s c hp.buf.sfmt hp.buf.tfmt hp.buf.rows hp.buf.src hp.buf.stride hp.buf.scaleSrc
    let good := hp.rows.filter fun r => !mis.contains r
    let bad := hp.rows.filter mis.contains
    let t0 := odCount 0x2101 2 hp.rows.length (odCount 0x2101 1 bad.length s)
    let t1 := ns.foldl (fun s i => updArr c i (fun a => if a.active then { a with buf1 := u } else { a with buf0 := u }) s) t0
    let t := runRows c p (ns.map fun i => (i, u)) hp.f hp.src ks m (gangOf hp.f.target.toNat) good t1
    let again := updArr c n (fun a => { a with held := [{ hp with rows := bad, attempts := hp.attempts + 1 }] }) t
    (bad = [] → exec (.checkRerun c n mis) s = .next (updCore c (fun x => { x with queues := smod {} x.queues n passReady })
      (updArr c n (fun a => { a with held := [] }) t))) ∧
    (bad ≠ [] → hp.attempts + 1 < odGet again 0x2100 2 → exec (.checkRerun c n mis) s = .next again) ∧
    (bad ≠ [] → odGet again 0x2100 2 ≤ hp.attempts + 1 →
      exec (.checkRerun c n mis) s =
        .next (coreFail c (odCount 0x2101 3 1 (ns.foldl (fun s i => updArr c i undoPass s) again)))))

/-- DRAIN delivers final rows to the vector engine, to the store as binary32, or to the store converted. A row that is not final
or that a held pass has suppressed holds the DRAIN: it is in its queue, and has read the rows before that one. -/
def Obligations.DrainDelivers : Prop :=
  ∀ (c : Nat) (h : OpHdr) (f : DrainF) (s : State) (k : Kernel), kernelOnCore s c = some k →
    let i := Instr.drain c h f
    let s1 := enqueued c h i s
    let x := coreOf s1 c
    let t := f.target.toNat
    let base := f.base.toNat
    let M := f.rows1.toNat + 1
    let g := gangOf t
    let info (r : Nat) := rowInfo x (rowPlace t base r).1 (rowPlace t base r).2
    let w := (info 0).width
    let v := (List.range M).map (drainRow x t base w)
    let dst := caAddr x f.dst
    let pitch := 8 * f.stride.toNat
    let d := convDesc (storeRead s1 c (caAddr x f.desc) 32)
    let idx := (coreOf s c).pc.toNat
    OpReady s c h i → base + (M + g - 1) / g ≤ 512 →
      ((∀ n, (arrOf x n).held = []) → (∀ r < M, (info r).final = true ∧ (info r).width = w) →
        base + (M + g - 1) / g ≤ 512 / (w / 128) →
        (f.dest = 2 → Begins s c i true (updCore c (fun y => { y with drained := y.drained ++ [⟨M, w, v.flatten⟩] }) s1)) ∧
        (f.dest = 1 → badOperand [strided dst M pitch (4 * w)] = none →
          Begins s c i true (storeRows c dst pitch (v.map wordsBytes) s1)) ∧
        (f.dest = 0 → badOperand [(caAddr x f.desc, 32)] = none → convGate s1 k.panel c x idx true d M w = .go →
          badOperand (convExtents x d dst M w pitch pitch) = none →
          Begins s c i true (convRun c k.panel x idx d v dst w pitch pitch s1))) ∧
      ((info 0).final = false → ReadsOp s1 c ((coreOf s1 c).pc.toNat + 1) → exec i s = .next (nextOp c s1))

/-- NHOLD fills the held-row buffer; NSTREAM adds the products of its rows to bank rows, NGRAFT1 puts them into the result store,
and NGRAFT2 adds its own to rows whose LAST pass asked for it. A mismatch that does not persist only counts (R39–R41). -/
def Obligations.NeedleOperations : Prop :=
  ∀ (c : Nat) (h : OpHdr) (s : State) (k : Kernel), kernelOnCore s c = some k →
    (∀ (f : NHoldF),
      let i := Instr.nhold c h f
      let s1 := enqueued c h i s
      let x := coreOf s1 c
      let rows := f.rows1.toNat + 1
      let len := f.len1.toNat + 1
      let n := rowBytes f.fmt len
      OpReady s c h i → heldOk f.fmt = true → badOperand [strided (caAddr x f.src) rows (8 * f.stride.toNat) n] = none →
        Begins s c i true (updCore c (fun y => { y with held :=
          { fmt := f.fmt, rows := rows, len := len
            data := (List.range rows).flatMap fun r => storeRead s1 c (caAddr x f.src + r * (8 * f.stride.toNat)) n } }) s1)) ∧
    (∀ (f : NStreamF) (mis : Nat) (d : NStreamed) (s2 : State),
      let i := Instr.nstream c h f mis
      let s1 := enqueued c h i s
      let x := coreOf s1 c
      let K := f.red1.toNat + 1
      let n := f.cols1.toNat + 1
      OpReady s c h i → needleOk f.fmt = true → f.base.toNat + x.held.rows ≤ 512 →
        badOperand (nExtent x f.fmt K n f.src) = none → nTake c x f.fmt K n f.src s1 = some (d, s2) →
        (∀ a, (arrOf x a).held = []) → mis = 0 ∨ mis < odGet s2 0x2100 2 →
        Begins s c i true (needleAdd c k.panel f.array.toNat f.base.toNat x.held.rows n (fun _ => f.final)
          (fun r j old => needleSum (heldBlock x.held K) f.fmt K n d r j (if f.start then 0 else old))
          (countReserved c k.panel (nReserved f.fmt d) (odCount 0x2101 2 mis (odCount 0x2101 1 mis s2))))) ∧
    (∀ (f : NGraft1F) (mis : Nat) (d : NStreamed) (s2 : State),
      let i := Instr.ngraft1 c h f mis
      let s1 := enqueued c h i s
      let x := coreOf s1 c
      let K := f.red1.toNat + 1
      let n := f.rank1.toNat + 1
      let s3 := countReserved c k.panel (nReserved f.fmt d) (odCount 0x2101 2 mis (odCount 0x2101 1 mis s2))
      let out := (List.range x.held.rows).flatMap fun r => (List.range n).map fun j =>
        (64 * r + j, needleSum (heldBlock x.held K) f.fmt K n d r j 0)
      let t := updCore c (fun y => { y with hres := out.foldl (fun m e => sset 0 m e.1 e.2.1) y.hres }) s3
      OpReady s c h i → needleOk f.fmt = true → badOperand (nExtent x f.fmt K n f.src) = none →
        nTake c x f.fmt K n f.src s1 = some (d, s2) → mis = 0 ∨ mis < odGet s2 0x2100 2 →
        Begins s c i true (if secure s3 k.panel then t else odCount 0x2201 4 (out.foldl (fun a e => a + e.2.2) 0) t)) ∧
    (∀ (f : NGraft2F) (mis : Nat) (d : NStreamed) (s2 : State),
      let i := Instr.ngraft2 c h f mis
      let s1 := enqueued c h i s
      let x := coreOf s1 c
      let K := f.rank1.toNat + 1
      let n := f.cols1.toNat + 1
      OpReady s c h i → needleOk f.fmt = true → f.base.toNat + x.held.rows ≤ 512 →
        (∀ r < x.held.rows, (sget {} (arrOf x f.array.toNat).rows (f.base.toNat + r)).fuse = true) →
        badOperand (nExtent x f.fmt K n f.src) = none → nTake c x f.fmt K n f.src s1 = some (d, s2) →
        (∀ a, (arrOf x a).held = []) → mis = 0 ∨ mis < odGet s2 0x2100 2 →
        Begins s c i true (needleAdd c k.panel f.array.toNat f.base.toNat x.held.rows n (fun _ => true)
          (fun r j old => needleSum (graftBlock x.hres K) f.fmt K n d r j old)
          (countReserved c k.panel (nReserved f.fmt d) (odCount 0x2101 2 mis (odCount 0x2101 1 mis s2)))))

/-! ### Vector and function operations -/

/-- Elementwise operations of the vector engine write op(a, b) over their destination and nothing else of the store. Row
operations: VRED writes one result a row, VROW op(a, b) or fma(a, b, c) with its row's operands, VSOFT the new rows, the new
maxima and the corrections of a running softmax (R86, R91). -/
def Obligations.VectorOperations : Prop :=
  (∀ (c : Nat) (h : OpHdr) (f : FlatF) (s s2 : State) (k : Kernel) (v : List Word32), kernelOnCore s c = some k →
    let n := f.n1.toNat + 1
    let w := n * vecBytes f.fmt
    (let i := Instr.vbin c h f
     let s1 := enqueued c h i s
     let x := coreOf s1 c
     let copy := f.subop = 5
     OpReady s c h i → badOperand ((caAddr x f.dst, w) :: (if copy then [] else [(caAddr x f.b, w)]) ++ extA x f.fmt f.a n) = none →
      operandA c k.panel x f.fmt f.a (.flat n) s1 = some (v, s2) →
      Begins s c i true (vecWrite c f.fmt (caAddr x f.dst)
        (List.zipWith (vbinOp f.subop.toNat) v (if copy then v else vecRead s2 c f.fmt (caAddr x f.b) n)) s2)) ∧
    (let i := Instr.vfma c h f
     let s1 := enqueued c h i s
     let x := coreOf s1 c
     OpReady s c h i → badOperand ([(caAddr x f.dst, w), (caAddr x f.b, w)] ++ extA x f.fmt f.a n) = none →
      operandA c k.panel x f.fmt f.a (.flat n) s1 = some (v, s2) →
      Begins s c i true (vecWrite c f.fmt (caAddr x f.dst)
        (List.zipWith (fun ab z => fma32 ab.1 ab.2 z) (v.zip (vecRead s2 c f.fmt (caAddr x f.b) n))
          (vecRead s2 c f.fmt (caAddr x f.dst) n)) s2)) ∧
    (let i := Instr.vun c h f
     let s1 := enqueued c h i s
     let x := coreOf s1 c
     OpReady s c h i → badOperand ([(caAddr x f.dst, w)] ++ extA x f.fmt f.a n) = none →
      operandA c k.panel x f.fmt f.a (.flat n) s1 = some (v, s2) →
      Begins s c i true (vecWrite c f.fmt (caAddr x f.dst) (v.map (vunOp f.subop.toNat)) s2))) ∧
  (∀ (c : Nat) (h : OpHdr) (f : RowF) (s s2 : State) (k : Kernel) (v : List Word32), kernelOnCore s c = some k →
    let M := f.rows1.toNat + 1
    let len := f.len1.toNat + 1
    (let i := Instr.vred c h f
     let s1 := enqueued c h i s
     let x := coreOf s1 c
     OpReady s c h i → badOperand ([(caAddr x f.dst, 4 * M)] ++ extA x f.fmt f.a (M * len)) = none →
      operandA c k.panel x f.fmt f.a (.rows M len) s1 = some (v, s2) →
      Begins s c i true (vecWrite c 0x21 (caAddr x f.dst) ((splitRows len M v).map (vredRow f.subop.toNat)) s2)) ∧
    (let i := Instr.vrow c h f
     let s1 := enqueued c h i s
     let x := coreOf s1 c
     let ba := caAddr x f.b
     let b := vecRead s2 c 0x21 ba M
     let d := if f.subop = 3 then vecRead s2 c 0x21 (ba + 4 * M) M else b
     OpReady s c h i → badOperand ([(caAddr x f.dst, M * len * vecBytes f.fmt), (ba, if f.subop = 3 then 8 * M else 4 * M)] ++
        extA x f.fmt f.a (M * len)) = none →
      operandA c k.panel x f.fmt f.a (.rows M len) s1 = some (v, s2) →
      Begins s c i true (vecWrite c f.fmt (caAddr x f.dst)
        (List.zipWith (fun r bd => r.map (vrowOp f.subop.toNat bd.1 bd.2)) (splitRows len M v) (b.zip d)).flatten s2)) ∧
    (let i := Instr.vsoft c h f
     let s1 := enqueued c h i s
     let x := coreOf s1 c
     let out := List.zipWith vsoftRow (vecRead s2 c 0x21 (caAddr x f.b) M) (splitRows len M v)
     let s3 := if f.a = drainedCA then s2 else vecWrite c f.fmt (caAddr x f.a) (out.map (·.1)).flatten s2
     OpReady s c h i → badOperand ([(caAddr x f.dst, 4 * M), (caAddr x f.b, 4 * M)] ++ extA x f.fmt f.a (M * len)) = none →
      operandA c k.panel x f.fmt f.a (.rows M len) s1 = some (v, s2) →
      Begins s c i true (vecWrite c 0x21 (caAddr x f.dst) (out.map (·.2.1))
        (vecWrite c 0x21 (caAddr x f.b) (out.map (·.2.2)) s3))))

/-- VMASK writes −∞ over the masked places; VSCAN runs its recurrence and keeps the last state (R90, R92). FLOAD copies an image
into a slot; FEVAL and FDERIV evaluate the image of a loaded slot and count the elements (R88, R89). -/
def Obligations.MasksScansFunctions : Prop :=
  ((∀ (c : Nat) (h : OpHdr) (f : RowF) (s s2 : State) (k : Kernel) (v : List Word32), kernelOnCore s c = some k →
    let M := f.rows1.toNat + 1
    let len := f.len1.toNat + 1
    let i := Instr.vmask c h f
    let s1 := enqueued c h i s
    let x := coreOf s1 c
    let ra := caAddr x f.b
    let pq := storeNat s1 c ra 3
    let pk := storeNat s1 c (ra + 4) 3
    let w := storeNat s1 c (ra + 8) 3
    OpReady s c h i →
      badOperand ([(ra, 16), (caAddr x f.dst, M * len * vecBytes f.fmt)] ++ extA x f.fmt f.a (M * len)) = none →
      pq + M - 1 ≤ 16777215 → pk + len - 1 ≤ 16777215 → operandA c k.panel x f.fmt f.a (.rows M len) s1 = some (v, s2) →
      Begins s c i true (vecWrite c f.fmt (caAddr x f.dst) ((List.range M).flatMap fun i => (List.range len).map fun j =>
        if masked (f.subop = 1) pq pk w i j then rne32 (.inf true) else canon32 (v.getD (i * len + j) 0)) s2)) ∧
  ∀ (c : Nat) (h : OpHdr) (f : ScanF) (s : State) (k : Kernel), kernelOnCore s c = some k →
    let i := Instr.vscan c h f
    let s1 := enqueued c h i s
    let x := coreOf s1 c
    let n := f.width1.toNat + 1
    let T := f.steps1.toNat + 1
    let w := n * vecBytes f.fmt
    let r := scanSteps c f.fmt n (caAddr x f.src) (caAddr x f.dst) T (vecRead s1 c f.fmt (caAddr x f.state) n) s1
    OpReady s c h i → badOperand [(caAddr x f.dst, T * w), (caAddr x f.src, 2 * T * w), (caAddr x f.state, w)] = none →
      Begins s c i true (vecWrite c f.fmt (caAddr x f.state) r.1 r.2)) ∧
  (∀ (c : Nat) (h : OpHdr) (s : State) (k : Kernel), kernelOnCore s c = some k →
    (∀ (slot : BitVec 4) (image : BitVec 24),
      let i := Instr.fload c h slot image
      let s1 := enqueued c h i s
      let a := caAddr (coreOf s1 c) image
      OpReady s c h i → badOperand [(a, imageSize)] = none →
        Begins s c i true (updCore c (fun y =>
          { y with fslots := y.fslots.filter (·.1 != slot.toNat) ++ [(slot.toNat, storeRead s1 c a imageSize)] }) s1)) ∧
    (∀ (f : FlatF) (b : Bytes),
      let i := Instr.feval c h f
      let s1 := enqueued c h i s
      let x := coreOf s1 c
      let n := f.n1.toNat + 1
      OpReady s c h i → slotImage x f.subop.toNat = some b →
        badOperand [(caAddr x f.dst, n * vecBytes f.fmt), (caAddr x f.a, n * vecBytes f.fmt)] = none →
        Begins s c i true (odCount 0x2301 8 n
          (vecWrite c f.fmt (caAddr x f.dst) ((vecRead s1 c f.fmt (caAddr x f.a) n).map (evalTable b false)) s1))) ∧
    ∀ (f : FlatF) (b : Bytes),
      let i := Instr.fderiv c h f
      let s1 := enqueued c h i s
      let x := coreOf s1 c
      let n := f.n1.toNat + 1
      let w := n * vecBytes f.fmt
      OpReady s c h i → slotImage x f.subop.toNat = some b →
        badOperand [(caAddr x f.dst, w), (caAddr x f.b, w), (caAddr x f.a, w)] = none →
        Begins s c i true (odCount 0x2301 8 n (odCount 0x2401 3 n (vecWrite c f.fmt (caAddr x f.dst)
          (List.zipWith (fun a g => mul32 (evalTable b true a) g) (vecRead s1 c f.fmt (caAddr x f.a) n)
            (vecRead s1 c f.fmt (caAddr x f.b) n)) s1))))

/-- Frame of VBIN, VFMA and VUN: only the destination's bytes of memory change, and no other core, no panel, no knot, no kernel
and no entry of the object dictionary does; the address registers and the loops stay. -/
def Obligations.VectorFrame : Prop :=
  ∀ (c : Nat) (h : OpHdr) (f : FlatF) (s s2 : State) (k : Kernel) (v : List Word32), kernelOnCore s c = some k →
    let n := f.n1.toNat + 1
    let w := n * vecBytes f.fmt
    let b := caAddr (coreOf s c) f.b
    ∀ e ∈ [(Instr.vbin c h f, if f.subop = 5 then [] else [(b, w)]), (.vfma c h f, [(b, w)]), (.vun c h f, [])],
      let i := e.1
      let s1 := enqueued c h i s
      let dst := caAddr (coreOf s c) f.dst
      OpReady s c h i → badOperand ((dst, w) :: e.2 ++ extA (coreOf s c) f.fmt f.a n) = none →
        operandA c k.panel (coreOf s1 c) f.fmt f.a (.flat n) s1 = some (v, s2) → ReadsOp s c ((coreOf s c).pc.toNat + 1) →
        ∃ t, exec i s = .next t ∧ (coreOf t c).pc = (coreOf s c).pc + 1 ∧
          (∀ a, a < coreStore c + dst ∨ coreStore c + dst + w ≤ a → memByte t.mem a = memByte s.mem a) ∧
          (∀ d, d ≠ c → coreOf t d = coreOf s d) ∧ t.panels = s.panels ∧ t.knots = s.knots ∧ t.od = s.od ∧
          t.kernels = s.kernels ∧ (coreOf t c).areg = (coreOf s c).areg ∧ (coreOf t c).loops = (coreOf s c).loops

/-- VCVT converts rows under its descriptor; VOPT applies its update, once its checks have passed (R52–R57, R118–R122). STEPCLOSE
closes the step of a layer record and of the scale records that point to it (R61–R63). -/
def Obligations.UpdateOperations : Prop :=
  (∀ (c : Nat) (h : OpHdr) (s : State) (k : Kernel), kernelOnCore s c = some k →
    let idx := (coreOf s c).pc.toNat
    (∀ (f : RowF) (v : List Word32) (s2 : State),
      let M := f.rows1.toNat + 1
      let len := f.len1.toNat + 1
      let i := Instr.vcvt c h f
      let s1 := enqueued c h i s
      let x := coreOf s1 c
      let d := convDesc (storeRead s1 c (caAddr x f.b) 32)
      let pitch := codeBytes d.target len
      OpReady s c h i → badOperand [(caAddr x f.b, 32)] = none → convGate s1 k.panel c x idx false d M len = .go →
        badOperand (extA x f.fmt f.a (M * len) ++ convExtents x d (caAddr x f.dst) M len pitch (len / 32)) = none →
        operandA c k.panel x f.fmt f.a (.rows M len) s1 = some (v, s2) →
        Begins s c i true (convRun c k.panel x idx d (splitRows len M v) (caAddr x f.dst) len pitch (len / 32) s2)) ∧
    ∀ (alg : BitVec 4) (ca : BitVec 24),
      let i := Instr.vopt c h alg ca
      let s1 := enqueued c h i s
      let x := coreOf s1 c
      let d := updDesc (storeRead s1 c (caAddr x ca) 128)
      OpReady s c h i → badOperand [(caAddr x ca, 128)] = none →
        (∀ r ∈ updRegions s1 d, grants s1 k.panel false r.2.1 r.2.2 = true ∧
          (r.1 = true → grants s1 k.panel true r.2.1 r.2.2 = true)) →
        updCause s1 c k.panel x alg.toNat d = none → badOperand (updExtents s1 c x d) = none →
        snapHolds s1 k.panel d.layer x.step.toNat = false →
        (d.has 1 = true → odGet s1 0x2400 1 = 1 → maskCause s1 d = none) →
        (d.has 4 = true →
          convGate s1 k.panel c x idx false (convDesc (storeRead s1 c (caAddr x d.conv) 32)) d.rows d.cols = .go) →
        clipRegion s1 k.panel d.table (x.step.toNat % 2) d.tag = none →
        Begins s c i true (runVOpt c k.panel x idx d s1)) ∧
  (∀ (c : Nat) (h : OpHdr) (y : Word48) (s : State) (k : Kernel), kernelOnCore s c = some k →
    let i := Instr.stepclose c h y
    let s1 := enqueued c h i s
    OpReady s c h i → grants s1 k.panel true y.toNat 32 = true →
      (∀ a ∈ layerRecords s1 k.panel y.toNat, grants s1 k.panel true a 320 = true ∧
        scaleRecOk s1 a (recLength s1 k.panel a) = true) →
      Begins s c i true (onceEffect c (closeStep k.panel y.toNat (coreOf s1 c).step.toNat (coreBlock s1 c)) s1))

/-! ### The mover (R171–R187) -/

/-- A MOVE or STREAM whose descriptor is accepted takes the next number and begins at the run that its cursor names. -/
def Obligations.MoveAccepted : Prop :=
  ∀ (c : Nat) (h : OpHdr) (ca : BitVec 24) (ch : BitVec 2) (s : State) (k : Kernel), kernelOnCore s c = some k →
    ∀ e ∈ [(Instr.moveCopy c h ca, 0), (.moveSwatchRead c h ca, 1), (.moveSwatchWrite c h ca, 2), (.moveTable c h ca, 3),
      (.moveZero c h ca, 4), (.moveSend c h ca, 5), (.stream c h ch ca, 0), (.stream c h ch ca, 1)],
    let i := e.1
    let s1 := enqueued c h i s
    let x := coreOf s1 c
    let d := (readDesc s1 c (caAddr x ca)).1
    let status := (readDesc s1 c (caAddr x ca)).2
    let L := (resumeRun s1 c d status).getD 0
    let m : Move :=
      { id := x.nextMove, kid := x.kid, ca := ca.toNat, d := d, channel := if opcodeOf i = 0x39 then some ch.toNat else none, pos := L * d.n0
        landed := L * d.n0, recorded := max (L / 2 ^ d.chunk) (if x.replaying then sget 0 x.recCounts d.xfer else 0)
        finalRec := !d.records || (x.replaying && d.chunks ≤ sget 0 x.recCounts d.xfer), parked := none, fault := none
        faultNo := none, stopped := false, hostlost := false
        send := if d.kind = 5 then some (sendRec s1 (shiftAddrOn s1 c d.dst)) else none
        data := [], handed := false, done := false }
    OpReady s c h i → d.kind = e.2 → badOperand [(caAddr x ca, 64)] = none →
      descCause s1 c k.panel d status (opcodeOf i == 0x39) = none →
      (d.kind = 5 → grants s1 k.panel false (shiftAddrOn s1 c d.dst) 32 = true ∧
        sendCause s1 k.panel d (sendRec s1 (shiftAddrOn s1 c d.dst)) = none) →
      Begins s c i false (updCore c (fun y => { y with moves := y.moves ++ [m], nextMove := y.nextMove + 1 }) s1)

/-- MOVER_REQUEST_ISSUE: the next request is delivered, or, where it is short and may be merged, waits in the merge stage;
MERGE_WINDOW_EXPIRY delivers the one that waits. CHUNK_COMPLETE writes the completion record of the chunks delivered; MOVE_RETIRE
retires a complete move with its status cleared, and leaves any other. -/
def Obligations.MoverProgress : Prop :=
  (∀ (c p : Nat) (s : State) (m : Move), Alive s → panelOnCore s c = some p →
    (issuing (coreOf s c) = some m → (coreOf s c).merge = none → 0 ≤ m.request.1 → 0 ≤ m.request.2.1 →
      m.request.1 + m.request.2.2 ≤ 2 ^ 48 → m.request.2.1 + m.request.2.2 ≤ 2 ^ 48 → m.d.records = false →
      let n := m.request.2.2
      let r : MergeReq :=
        ⟨m.d.kind, shiftAddrOn s c m.request.1.toNat, shiftAddrOn s c m.request.2.1.toNat, n, [(m.id, n)]⟩
      let t := updMove c m.id (fun v => { v with pos := v.pos + n }) s
      let short := n < 4096 && (m.d.kind = 0 || m.d.kind = 4) && m.channel.isNone && !m.d.nomerge && odGet s 0x2700 2 ≠ 0
      (short = true →
        exec (.moverRequestIssue c) s = .next (pumpColls (pumpCores p (updCore c (fun x => { x with merge := some r }) t)))) ∧
      (short = false → Lands t p m r →
        exec (.moverRequestIssue c) s = .next (pumpColls (pumpCores p (landed c p m r (deliverReq c m r none (moverCount p 1 1 t))))))) ∧
    ∀ (q : MergeReq) (e : Nat × Nat) (rest : List (Nat × Nat)), (coreOf s c).merge = some q → q.moves = e :: rest →
      let t := updCore c (fun x => { x with merge := none }) s
      moveOf t c e.1 = some m → m.cut = false → Lands t p m q →
      exec (.mergeWindowExpiry c) s =
        .next (pumpColls (pumpCores p (landed c p m q (deliverReq c m q none (moverCount p 1 1 t)))))) ∧
  (∀ (c p id : Nat) (s : State) (m : Move), Alive s → panelOnCore s c = some p → moveOf s c id = some m →
    (∀ (bus : Nat) (t : State),
      let a := recordAddr s p m
      let hp := portOfAddr a
      let n := m.chunksDone
      let st := if n = m.d.chunks then 1 else 0
      m.d.records = true → m.stopped = false → m.hostlost = false → m.fault = none → m.recorded < n →
      grants s p true a 16 = true → hostGone s a = false →
      translate hp (windowOf a).2.1 (windowOf a).2.2 (moverCount p 1 1 s) = (.ok bus, t) →
      exec (.chunkComplete c id) s = .next (pumpCores p (updCore c (fun x => { x with recCounts := sset 0 x.recCounts m.d.xfer n })
        (updMove c m.id (fun v => { v with recorded := n, finalRec := v.finalRec || st == 1, owed := none })
          (portSend hp (.write bus (recordBytes t c m n st)) t))))) ∧
    (moveComplete (coreOf s c) m = false → exec (.moveRetire c id) s = .next (pumpColls (pumpCores p s))) ∧
    (moveComplete (coreOf s c) m = true → m.done = false →
      exec (.moveRetire c id) s = .next (pumpColls (pumpCores p (retireMove c m.id (clearStatus c m.d s))))))

/-- HOST_WINDOW_FAULT stops the move at its last whole chunk, numbers the fault, and refers it to the host where the host asked
for that; FAULT_TIMEOUT ends the kernel of a fault that no one resumed (R183, R185). -/
def Obligations.HostWindowFaults : Prop :=
  ∀ (c p id number : Nat) (s : State), Alive s →
    (∀ (m : Move) (a cause : Nat), panelOnCore s c = some p → moveOf s c id = some m → m.fault = some (a, cause) →
      m.faultNo = none → m.d.records = false →
      let n := (panelOf s p).nextFault
      let t := updMove c m.id (fun v => { v with stopped := true, faultNo := some n, owed := none })
        (moverCount p 5 1 (writeStatus c m.d (stopRun s p m) true false
          (updPanel p (fun x => { x with nextFault := (n + 1) % 2 ^ 16 }) s)))
      odGet t 0x2700 1 = 1 ∨ cause ≠ 1 → exec (.hostWindowFault c id) s = .next (pumpCores p (referFault c p m n a cause t))) ∧
    ∀ (f : PendFault), faultBy s p number = some f → number < 2 ^ 16 →
      exec (.faultTimeout p (BitVec.ofNat 16 number)) s = .next (pumpColls (abortFault p number 0x2702
        (postPanel p 0x2702 (coreBlock s f.core) f.addr (number + 2 ^ 32 * tagOnCore s f.core) s)))

/-! ### Knots and spools (R191–R208) -/

/-- KADD and KSET on a knot of this module that the kernel's panel may reach: applied at once, and waits that they satisfy are
released. What KADD, KSET and KARRIVE leave in a knot that no one waits on, and that they touch no other knot and no memory (R192,
R194, R202). -/
def Obligations.KnotAddAndSet : Prop :=
  (∀ (c : Nat) (h : OpHdr) (f : KnotF) (s : State) (k : Kernel) (i v : Nat), kernelOnCore s c = some k → OthersWait s c i →
    (let op := Instr.kadd c h f
     let s1 := enqueued c h op s
     let t := taintRestore k.panel i s1
     OpReady s c h op → knotOperand (coreOf s1 c) 48 f.value.toNat f.mode f.reg f.step = some v →
      knotRoute s1 k.panel (shiftKnotOn s1 c f.knot) 48 = .here i → (knotOf t i).poisoned = false →
      BeginsKnot s c op true (onceEffect c (applyKadd i v (coreSignaller t c k.panel)) t)) ∧
    (let op := Instr.kset c h f
     let s1 := enqueued c h op s
     let t := taintRestore k.panel i s1
     OpReady s c h op → knotOperand (coreOf s1 c) 48 f.value.toNat f.mode f.reg f.step = some v →
      knotRoute s1 k.panel (shiftKnotOn s1 c f.knot) 49 = .here i →
      (knotOf t i).poisoned = false ∨ knotPanel t i = some k.panel →
      BeginsKnot s c op true (onceEffect c (applyKset i v (coreSignaller t c k.panel)) t))) ∧
  (∀ (i v p : Nat) (g : Signaller) (s : State), (∀ w ∈ s.waiters, w.knot ≠ i) →
    (knotOf (applyKadd i v g s) i).value = (knotOf s i).value + BitVec.ofNat 48 v ∧
    (knotOf (applyKadd i v g s) i).ops = (knotOf s i).ops + 1 ∧
    (knotOf (applyKset i v g s) i).value = BitVec.ofNat 48 v ∧
    ((knotOf s i).poisoned = true →
      (knotOf (applyKset i v g s) i).poisoned = false ∧ (knotOf (applyKset i v g s) i).gen = 0) ∧
    (∀ (n a : Nat), (knotOf s i).value.toNat = n * 2 ^ 32 + a * 2 ^ 16 → n < 2 ^ 16 → a + 1 < n →
      v = (knotOf s i).gen.toNat → (knotOf (applyArrive i v p g s) i).value.toNat = n * 2 ^ 32 + (a + 1) * 2 ^ 16 ∧
        (knotOf (applyArrive i v p g s) i).gen = (knotOf s i).gen) ∧
    (∀ (n : Nat), (knotOf s i).value.toNat = n * 2 ^ 32 + (n - 1) * 2 ^ 16 → 0 < n → n < 2 ^ 16 →
      v = (knotOf s i).gen.toNat → (knotOf (applyArrive i v p g s) i).value.toNat = n * 2 ^ 32 ∧
        (knotOf (applyArrive i v p g s) i).gen = (knotOf s i).gen + 1) ∧
    ∀ t ∈ [applyKadd i v g s, applyKset i v g s, applyArrive i v p g s],
      (∀ j, j ≠ i → knotOf t j = knotOf s j) ∧ t.mem = s.mem ∧ t.cores = s.cores ∧ t.panels = s.panels)

/-- An arrival at a barrier (R194): one of the current generation counts, one of the next is early, any other only raises
`knots.generation_errors`; when all have arrived the generation goes up and the early ones are the arrivals of the next. One at a
poisoned knot is ORPHANED. -/
def Obligations.BarrierArrivals : Prop :=
  (∀ (c p i : Nat) (x : Core) (f : ArriveF) (g : Nat) (s : State), knotOperand x 16 f.gen.toNat f.mode f.reg f.step = some g →
    knotRoute s p (shiftKnotOn s c f.knot) 50 = .here i → (knotOf (taintRestore p i s) i).poisoned = true →
    startArrive c p x f s = .stop (orphanOp c (shiftKnotOn s c f.knot).toNat (taintRestore p i s))) ∧
  ∀ (i g p n a e : Nat) (q : Signaller) (s : State), (∀ w ∈ s.waiters, w.knot ≠ i) → n < 2 ^ 16 → a + 1 < 2 ^ 16 → e + 1 < 2 ^ 16 →
    (knotOf s i).value = BitVec.ofNat 48 (n * 2 ^ 32 + a * 2 ^ 16 + e) →
    let t := applyArrive i g p q s
    let G := (knotOf s i).gen
    let shows (a e : Nat) (G : Word16) : Prop :=
      (knotOf t i).value = BitVec.ofNat 48 (n * 2 ^ 32 + a * 2 ^ 16 + e) ∧ (knotOf t i).gen = G ∧
        odGet t 0x2807 6 = odGet s 0x2807 6
    (g = G.toNat →
      (n = 0 ∨ a + 1 < n → shows (a + 1) e G) ∧
      (0 < n → n ≤ a + 1 → e < n → shows e 0 (G + 1)) ∧
      (0 < n → n ≤ a + 1 → n ≤ e → shows 0 0 (G + 2))) ∧
    (g = (G + 1).toNat → n = 0 ∨ a < n → shows a (e + 1) G) ∧
    (g ≠ G.toNat → g ≠ (G + 1).toNat → n = 0 ∨ a < n →
      (knotOf t i).value = (knotOf s i).value ∧ (knotOf t i).gen = G ∧
        odGet t 0x2807 6 = (odGet s 0x2807 6 + 1) % odModulus 0x2807 6)

/-- A wait on a knot of this module goes on at once when its condition holds, and otherwise stands until it does; KARRIVE counts
its arrival first. -/
def Obligations.KnotWaits : Prop :=
  ∀ (c : Nat) (h : OpHdr) (s : State) (k : Kernel) (i v : Nat), kernelOnCore s c = some k →
    (∀ e ∈ [(fun f => Instr.kwaitge c h f, 0x42), (fun f => Instr.kwaiteq c h f, 0x43)], ∀ (f : KnotF),
      let op := e.1 f
      let s1 := enqueued c h op s
      let t := taintRestore k.panel i s1
      let w : Waiter :=
        { knot := i, fab := none, core := c, op := e.2, mode := f.mode.toNat, value := v, qp := 0, count := 0, since := s.time }
      OpReady s c h op → knotOperand (coreOf s1 c) 48 f.value.toNat f.mode f.reg f.step = some v →
        knotRoute s1 k.panel (shiftKnotOn s1 c f.knot) 50 = .here i → (knotOf t i).poisoned = false →
        (waitMet (knotOf t i) e.2 v = true → BeginsKnot s c op true t) ∧
        (waitMet (knotOf t i) e.2 v = false → BeginsKnot s c op false { t with waiters := t.waiters ++ [w] })) ∧
    ∀ (f : ArriveF),
      let op := Instr.karrive c h f
      let s1 := enqueued c h op s
      let t := taintRestore k.panel i s1
      let u := onceEffect c (applyArrive i v k.panel (coreSignaller t c k.panel)) t
      let w : Waiter :=
        { knot := i, fab := none, core := c, op := 0x44, mode := f.mode.toNat, value := v, qp := 0, count := 0, since := u.time }
      OpReady s c h op → OthersWait s c i → knotOperand (coreOf s1 c) 16 f.gen.toNat f.mode f.reg f.step = some v →
        knotRoute s1 k.panel (shiftKnotOn s1 c f.knot) 50 = .here i → (knotOf t i).poisoned = false →
        (waitMet (knotOf u i) 0x44 v = true → BeginsKnot s c op true u) ∧
        (waitMet (knotOf u i) 0x44 v = false → BeginsKnot s c op false { u with waiters := u.waiters ++ [w] })

/-- An operation on a knot of another device leaves on the panel's CONTROL QP; a wait or an arrival then stands until the owner
wakes it (R192, R200). -/
def Obligations.KnotOperationsAway : Prop :=
  ∀ (c : Nat) (h : OpHdr) (s : State) (k : Kernel) (q v : Nat), kernelOnCore s c = some k → (qpOf s q).waiting = [] →
    (qpOf s q).unacked.length < 256 → (qpOf s q).control = true →
    sendOpen s (qpOf s q).owner c (qpOf s q).remFab (coreOf s c).nextMove = false →
    secure s (qpOf s q).owner = false ∨ (sget {} (panelOf s (qpOf s q).owner).keys (qpOf s q).keySlot).packet < 2 ^ 48 →
    (∀ (f : KnotF), ∀ e ∈ [(Instr.kadd c h f, 0x40, 48), (.kset c h f, 0x41, 49)],
      let s1 := enqueued c h e.1 s
      let a := shiftKnotOn s1 c f.knot
      OpReady s c h e.1 → knotOperand (coreOf s1 c) 48 f.value.toNat f.mode f.reg f.step = some v →
        knotRoute s1 k.panel a e.2.2 = .away q → BeginsKnot s c e.1 true (remoteOp q c a.toNat e.2.1 v s1)) ∧
    (∀ (f : KnotF), ∀ e ∈ [(Instr.kwaitge c h f, 0x42), (.kwaiteq c h f, 0x43)],
      let s1 := enqueued c h e.1 s
      let a := shiftKnotOn s1 c f.knot
      OpReady s c h e.1 → knotOperand (coreOf s1 c) 48 f.value.toNat f.mode f.reg f.step = some v →
        knotRoute s1 k.panel a 50 = .away q →
        BeginsKnot s c e.1 false (updCore c (fun x => { x with remoteWait := some 2 }) (remoteOp q c a.toNat e.2 v s1))) ∧
    ∀ (f : ArriveF),
      let op := Instr.karrive c h f
      let s1 := enqueued c h op s
      let a := shiftKnotOn s1 c f.knot
      OpReady s c h op → knotOperand (coreOf s1 c) 16 f.gen.toNat f.mode f.reg f.step = some v →
        knotRoute s1 k.panel a 50 = .away q →
        BeginsKnot s c op false (updCore c (fun x => { x with remoteWait := some 2 }) (remoteOp q c a.toNat 0x44 v s1))

/-- The operations on a spool: the producer waits for space and commits entries, the consumer waits for data and releases
entries (R206, R207). -/
def Obligations.SpoolOperations : Prop :=
  ∀ (c : Nat) (h : OpHdr) (n : BitVec 6) (s : State) (k : Kernel), kernelOnCore s c = some k →
    (∀ (y : BitVec 48), ∀ e ∈ [(Instr.spaceWait c h n y, true), (.dataWait c h n y, false)],
      let s1 := enqueued c h e.1 s
      let r := spoolRec s1 k.panel n.toNat
      let i := knotAt (if e.2 then r.cKnot else r.pKnot)
      let v := if e.2 then sget 0 (coreOf s1 c).spoolP n.toNat + y.toNat - r.depth else sget 0 (coreOf s1 c).spoolC n.toNat + y.toNat
      let w : Waiter := { knot := i, fab := none, core := c, op := 0x42, mode := if e.2 then 2 else 3, value := v, qp := 0
                          count := 0, since := s.time }
      OpReady s c h e.1 → spoolOk s1 k.panel n.toNat = true → (if e.2 then r.producer else r.consumer) = c →
        (knotOf s1 i).poisoned = false →
        (v ≤ (knotOf s1 i).value.toNat → BeginsKnot s c e.1 true s1) ∧
        ((knotOf s1 i).value.toNat < v → BeginsKnot s c e.1 false { s1 with waiters := s1.waiters ++ [w] })) ∧
    (∀ (y : BitVec 24),
      let op := Instr.scommit c h n y
      let s1 := enqueued c h op s
      let r := spoolRec s1 k.panel n.toNat
      let P := sget 0 (coreOf s1 c).spoolP n.toNat + y.toNat
      let t := updCore c (fun x => { x with spoolP := sset 0 x.spoolP n.toNat P }) s1
      OpReady s c h op → spoolOk s1 k.panel n.toNat = true → r.producer = c → (knotOf s1 (knotAt r.pKnot)).poisoned = false →
        OthersWait s c (knotAt r.pKnot) →
        BeginsKnot s c op true (onceEffect c (fun s =>
          markHigh (raiseKnot (knotAt r.pKnot) P (coreSignaller t c k.panel) s) k.panel n.toNat) t)) ∧
    ∀ (y : BitVec 24),
      let op := Instr.srelease c h n y
      let s1 := enqueued c h op s
      OpReady s c h op → spoolOk s1 k.panel n.toNat = true → (spoolRec s1 k.panel n.toNat).consumer = c →
        BeginsKnot s c op true (onceEffect c id (updCore c (fun x =>
          { x with spoolC := sset 0 x.spoolC n.toNat (sget 0 x.spoolC n.toNat + y.toNat) }) s1))

/-- SPOOL_OCCUPANCY_SAMPLE adds to the sums of the spool record; REMOTE_WAIT_RETRY sends the oldest refused wait of a core again;
WATCHDOG_EXPIRY reports a wait and, in abort mode, ends its kernel (R200, R201, R205). -/
def Obligations.WaitsWatched : Prop :=
  ∀ (c q p n : Nat) (s : State), Alive s →
    (n < 64 → panelOpen s p = true → spoolOk s p n = true →
      let r := spoolRec s p n
      let occ := (knotOf s (knotAt r.pKnot)).value.toNat - (knotOf s (knotAt r.cKnot)).value.toNat
      let a := spoolAddr s p n
      exec (.spoolOccupancySample p n) s = .next (storeBytes (a + 72)
        (toLe 8 (readNat s (a + 72) 8 + occ) ++ toLe 8 (readNat s (a + 80) 8 + 1)) (markHigh s p n))) ∧
    (∀ (o : OutPkt), (s.qps.findSome? fun e => (e.2.unacked.find? fun o => o.core = c && o.nak = 6 && e.2.st = .ready)) = some o →
      stillWaits s c o = true → exec (.remoteWaitRetry c) s = .next (resendPkt o s)) ∧
    ∀ (w : WaitInfo) (k : Kernel) (e : QEntry), waitOf s c q = some w → kernelOnCore s c = some k →
      panelOnCore s c = some k.panel → panelQuiesced s k.panel = false → (queueAt (coreOf s c) q).entries[w.pos]? = some e →
      let t := postPanel k.panel 0x2801 (coreBlock s c) (w.knot + 2 ^ 32 * w.opcode + 2 ^ 40 * w.mode + 2 ^ 42 * w.spool)
        (k.tag.toNat + 2 ^ 32 * (e.expiries + 1)) (odCount 0x2807 4 1 (updQueue c q (fun y =>
          { y with entries := y.entries.modify w.pos fun e' => { e' with expiries := e.expiries + 1 } })
            (updCore c (fun x => { x with expiries := sset 0 x.expiries q (e.expiries + 1) }) s)))
      (odGet t 0x2800 1 = 0 → exec (.watchdogExpiry c q) s = .next (pumpColls (endParked k.kid (abortKernel k.kid 0x2801 t)))) ∧
      (odGet t 0x2800 1 ≠ 0 → exec (.watchdogExpiry c q) s = .next (pumpColls t))

/-! ### Kernels and snapshots (R132–R135, R316–R325) -/

/-- Where a kernel goes (R318, R319): to the base, among those allowed whose cores are free, with the most groups whose resident tag
is the kernel's, and of those to the lowest; a kernel of tag 0 goes to the lowest free base. -/
def Obligations.BaseChoice : Prop :=
  ∀ (s : State) (k : Kernel), let free := fun b : Nat => (coresAt k b).all (coreFree s k) = true
    (∀ b : Nat, chooseBase s k = some b → b ∈ basesOf k ∧ free b ∧ ∀ a ∈ basesOf k, free a →
      residentCount s k a < residentCount s k b ∨ (residentCount s k a = residentCount s k b ∧ b ≤ a)) ∧
    (k.affinity = 0 → ∀ b : Nat, chooseBase s k = some b → ∀ a ∈ basesOf k, free a → b ≤ a) ∧
    (chooseBase s k = none → ∀ a ∈ basesOf k, ¬ free a)

/-- KERNEL_START takes the most urgent kernel that is not blocked and finds its cores free; with nothing to start it changes
nothing. KERNEL_END ends a kernel whose cores are all done; one that is still at work goes on. PREEMPT asks the kernels in the way
of the most urgent waiting one to stop, in the place where saving them costs least; KERNEL_RESUME restores the most urgent pre-
empted kernel whose cores are free again (R321–R324). -/
def Obligations.KernelScheduling : Prop :=
  (∀ (p kid : Nat) (s : State),
    (HubReady s → (∀ j ∈ waitingOf s p, lostCoreOf s j = none) →
      (∀ (k : Kernel) (b : Nat), firstByPrio ((waitingOf s p).filter fun k => unblocked s k && (chooseBase s k).isSome) = some k →
        chooseBase s k = some b → exec (.kernelStart p) s = .next (pumpColls (startAt k b s))) ∧
      ((∀ j ∈ waitingOf s p, chooseBase s j = none) → exec (.kernelStart p) s = .next (pumpColls s))) ∧
    (Alive s → ∀ (k : Kernel), kernelBy s kid = some k →
      (kernelDone s k = false → exec (.kernelEnd kid) s = .next (pumpColls s)) ∧
      (kernelDone s k = true → k.phase = .ending ∨ (s.colls.any (·.kid == kid)) = false →
        exec (.kernelEnd kid) s = .next (pumpColls (endKernel k s))) ∧
      (kernelDone s k = true → k.phase ≠ .ending → (s.colls.any (·.kid == kid)) = true →
        exec (.kernelEnd kid) s = .next (pumpColls s)))) ∧
  (∀ (p : Nat) (s : State) (k : Kernel), HubReady s →
    (∀ (b : Nat) (rest : List Nat), firstByPrio (waitingOf s p) = some k → odGet s 0x3401 (p + 1) ≠ 0 → chooseBase s k = none →
      (∀ j ∈ s.kernels, j.phase = .stopping → j.forKid ≠ k.kid) → (basesOf k).filter (canPreempt s k) = b :: rest →
      (∀ a ∈ rest, saveCost s k b ≤ saveCost s k a) →
      exec (.preempt p) s = .next (pumpColls (requestStop k b s))) ∧
    (firstByPrio (s.kernels.filter fun k => k.panel == p && canResume s k) = some k →
      exec (.kernelResume p) s = .next (pumpColls (resumeKernel k s))))

/-- SNAPSHOT_ENTRY copies the next tensor of a snapshot once its knot shows the step; SNAPSHOT_TIMEOUT gives the snapshot up, with
completion status 3 (R132–R135). -/
def Obligations.Snapshots : Prop :=
  ∀ (p : Nat) (s : State) (n : Snap), HubAwake s → (panelOf s p).snap = some n →
    (let a := n.list + 32 * n.next
     let k := BitVec.ofNat 32 (readNat s (a + 24) 4)
     let src := readNat s (a + 8) 8
     let len := readNat s (a + 16) 8
     let key := (sget {} (panelOf s p).keys n.keySlot).key
     let last := n.next + 1 = n.count
     let m := Snap.addPayload (secure s p) key (snapEntry s a) last { n with next := n.next + 1 }
     let m := if last then m.emit (padTo 64 (sha256 m.stream)) else m
     n.out = [] → n.next < n.count → knotFab k = fabricId s → knotAddrOk k = true →
      n.step.toNat ≤ (knotOf s (knotAt k)).value.toNat → grants s p false src len = true → ∀ u, hubMeets [(src, len)] s = (none, u) →
      exec (.snapshotEntry p) s =
        .next (pumpColls (pumpCores p (flushSnap p (updPanel p (fun x => { x with snap := some m }) (noteRead src len u)))))) ∧
    exec (.snapshotTimeout p) s = .next (pumpColls (pumpCores p (checkHead n.port n.ring
      (completeRec n.port n.ring n.recIdx n.hostTag 0x11 n.cqe 3 0 0x2505 (postPanel p 0x2505 (hubBlock n.port) n.id n.next
        (odCount 0x2501 6 1 (updPanel p (fun x => { x with snap := none }) s)))))))

/-! ### Crown and Root (R139–R170) -/

/-- A failed read counts and begins the restore of its unit; a rebuilt or regenerated unit is good again and its waiters go on
(R157–R161). -/
def Obligations.RestoresOfUnits : Prop :=
  ∀ (a : Word48) (tag : Bool) (s : State), HubAwake s →
    (let t := if rootBase ≤ a.toNat && a.toNat < rootEnd && tag then odCount 0x3003 1 1 s
       else if a.toNat < crownEnd then odCount 0x1901 3 1 s else s
     exec (.readFailure a tag) s = .next (pumpColls (readFail (unitOf a.toNat) false t))) ∧
    ∀ (r : Restore), let u := unitOf a.toNat
      s.restores.find? (fun r => r.line == u && !r.host && r.knot.isSome) = some r →
      (restorePath s r.panel u r.swatch = .rebuild → exec (.reconstructionComplete a) s = .next (pumpColls
        (finishRestore u r.panel 1 (odCount 0x2601 6 1 { s with lostLines := s.lostLines.filter (· != u) })))) ∧
      (restorePath s r.panel u r.swatch = .regenerate → exec (.reconstructionComplete a) s = .next (pumpColls s)) ∧
      (∀ e g i, restorePath s r.panel u r.swatch = .regenerate → regenFor s r.panel u = some (e, g, i) →
        let areas := masterAreas e g i ++ [annexArea e g i]
        let gone := (areas.flatMap fun a => goneLines s a.1 a.2).eraseDups
        let t := areas.foldl (fun s a => noteRead a.1 a.2 s) (odCount 0x2601 6 gone.length s)
        (regenRegion s r.panel e g i = none → masterFails s e g i = none →
          exec (.regenerationComplete a) s = .next (pumpColls
            (finishRestore u r.panel 1 (odCount 0x2601 7 1 (writeBytes (e.copy + i * g.size) (regenBytes t e g i) t))))) ∧
        (∀ m, regenRegion s r.panel e g i = none → masterFails s e g i = some m →
          exec (.regenerationComplete a) s = .next (pumpColls (failRegen u r.panel 0x2602 (e.copy + i * g.size) m s)))) ∧
      ∀ cause, restorePath s r.panel u r.swatch = .lost cause →
        let t := loseUnit u r.panel cause s
        ∀ i ∈ [Instr.reconstructionComplete a, .regenerationComplete a],
          exec i s = .next (pumpColls (settleRestores r.panel (t.restores.length + 1) t))

/-- The Root ports: one that goes down loses its contents in the plain mode, one that comes up shows its link, a finished rebuild
shows its whole capacity, and the end of a Sanitize brings its port up or puts it down for good (R147–R150, R162). The Root
streamer starts a fill when its slot is released, and a fill that completes lands in its slot (R156). -/
def Obligations.RootPortsAndStreamer : Prop :=
  (∀ (x : Nat) (s : State), Alive s → x < 4 →
    ((rootPort s x).st = 1 ∨ (rootPort s x).st = 3 →
      let t := updRootPort x (fun r => { r with st := 2, lanes := 0, gts := 0 }) s
      let u := match s.root.rebuilding with
        | some y => let v := updRootPort y (fun r => { r with st := 2 }) t
          { v with root := { v.root with rebuilding := none } }
        | none => t
      let v := scrub (portBase x) 0x0400_0000_0000 u
      (s.root.mode ≠ 0 → exec (.rootPortDown x) s = .next u) ∧
      (s.root.mode = 0 → ownerOfRoot v x = none →
        exec (.rootPortDown x) s = .next (postMgmt 0xFF 0x2606 (0x5000 + x) x 0 v)) ∧
      ∀ p, s.root.mode = 0 → ownerOfRoot v x = some p →
        exec (.rootPortDown x) s = .next (postBoth p 0x2606 (0x5000 + x) x (grantsOnPort v p x) v)) ∧
    (∀ (lanes gts cap : Nat), (rootPort s x).st = 0 ∨ (rootPort s x).st = 2 →
      exec (.rootPortUp x lanes gts cap) s = .next (updRootPort x (fun r => { r with
        lanes := lanes, gts := gts, capacity := cap
        st := if !r.locked && (r.st = 0 || s.root.mode = 0) then 1 else 2 }) s)) ∧
    (s.root.rebuilding = some x →
      let t := updRootPort x (fun r => { r with st := 1, rebuilt := r.capacity / 2 ^ 30 }) s
      exec (.rootRebuildComplete x) s = .next { t with root := { t.root with rebuilding := none } }) ∧
    ((rootPort s x).st = 4 →
      exec (.sanitizeComplete x true) s = .next (settleMode (updRootPort x (fun r => { r with st := 1, locked := false }) s)) ∧
      exec (.sanitizeComplete x false) s = .next (failMode x 1 s) ∧ exec (.sanitizeTimeout x) s = .next (failMode x 2 s))) ∧
  (∀ (p n : Nat) (s : State) (x : Streamer), HubAwake s → (panelOf s p).streamer = some x →
    (x.next < x.n ∨ x.next - x.n + 1 ≤ knotShows s x.relKnot → x.next < x.done + x.n →
      exec (.streamFillStart p) s = .next (updStreamer p (fun x => { x with next := x.next + 1 }) s)) ∧
    (x.done + x.n ≤ x.next → exec (.streamFillStart p) s = .next s) ∧
    (let e := x.table + 64 + 16 * (n % max x.entries 1)
     let src := readNat s e 8
     let len := readNat s (e + 8) 4
     let dst := x.base + n % x.n * x.slot
     n < x.next → x.done ≤ n → n ∉ x.landed → grants s p false e 16 = true → grants s p false src len = true →
      grants s p true dst len = true → readMeets x.served [(src, len)] s = (none, s) → badSwatch s src len = none →
      exec (.streamFillComplete p n) s = .next (pumpColls (pumpCores p (advanceFills p 65
        (updStreamer p (fun x => { x with landed := x.landed ++ [n], served := [] })
          (writeWhole dst (readBytes s src len) (noteRead src len (noteRead e 16 s)))))))))

/-! ### Table engines (R163–R167) -/

/-- A gather of an ordinary panel writes the rows it asks for; a member's waits at the merge queue. A scatter-add puts its rows
into the gradient slots; an update applies row-wise Adagrad to the used slots and empties them. A tick of a table's batch sends
one batch to every shard that lookups wait for, unless its window is shut; a batch that is served comes back to its lookups when
this module is the shard (R165, R166). -/
def Obligations.TableEngines : Prop :=
  (∀ (t : Nat) (q : TableReq) (s : State), TableAccepted s t q →
    let d := tableDesc (tableSlot s (q.f 7 1)).desc
    let s0 := noteRead (tableList q).1 (tableList q).2 s
    (q.f 4 1 = 1 →
      let areas := (List.range q.count).map fun i => rowArea d (listRow s0 q i)
      let s1 := areas.foldl (fun s e => noteRead e.1 e.2 s) s0
      let out := gatherOut s0 d q fun i => let e := rowArea d (listRow s0 q i); readBytes s0 e.1 e.2
      (panelKind s0 q.panel = 2 → exec (.tableGather t) s = .next (pumpColls (gatherMember t q s0))) ∧
      (panelKind s0 q.panel ≠ 2 → waitData q areas s0 = none → lostPartly s1 (q.f 24 8) out.length = none →
        exec (.tableGather t) s = .next (pumpColls (pumpCores q.panel (dropReq t (doneReq q (writeBytes (q.f 24 8) out s1))))))) ∧
    (q.f 4 1 = 2 → waitData q [(q.f 24 8, 4 * d.n * q.count), (d.map, 4 * d.rows), (d.grad, 64 + d.slots * d.gradStride)] s0 = none →
      (coreOf s0 q.core).suppress = 0 →
      let r := scatterFrom d q q.count 0 s0
      (r.1 = .done → exec (.tableScatterAdd t) s = .next (pumpColls (pumpCores q.panel
        (dropReq t (doneReq q (onceEffect q.core id r.2)))))) ∧
      (r.1 = .full → exec (.tableScatterAdd t) s = .next (pumpColls (dropReq t (refuseReq q t 5 r.2)))) ∧
      (r.1 = .lost → exec (.tableScatterAdd t) s = .next (pumpColls (dropReq t (loseReq q r.2))))) ∧
    (q.f 4 1 = 3 →
      let used := min (readNat s0 d.grad 4) d.slots
      let rows := (List.range used).map fun k => readNat s0 (d.grad + 64 + k * d.gradStride) 8
      let gt := (panelOf s0 q.panel).groupTable
      let b := q.f 12 4 % 2
      let cf := tableClip q gt b s0
      let e := groupEntry cf.2 gt b (q.f 40 1 % 64)
      let r := (List.range used).foldl (fun st k => updateRow d e cf.1 (coreOf cf.2 q.core).seed st.1 st.2 k)
        (true, noteRead (q.f 32 8) 4 cf.2)
      waitData q ((q.f 32 8, 4) :: (d.grad, 64 + d.slots * d.gradStride) ::
        rows.flatMap fun r => [(d.rowAddr r, d.rowBytes), (d.accum + 4 * r, 4)]) s0 = none →
      (coreOf cf.2 q.core).suppress = 0 → r.1 = true → lostPartly r.2 d.grad 4 = none →
      exec (.tableUpdate t) s = .next (pumpColls (pumpCores q.panel (dropReq t (doneReq q (onceEffect q.core id
        (writeBytes d.grad (toLe 4 0) r.2)))))))) ∧
  (∀ (n : Nat) (s : State), HubAwake s → (tableSlot s n).owner.isSome = true →
    let d := tableDesc (tableSlot s n).desc
    (windowOpen s d = true → exec (.tableBatchPeriod n) s = .next (pumpColls
      ((List.range (if d.shards = 0 then 256 else d.shards)).foldl (sendBatch n d) (repliesCame n d.rowBytes s)))) ∧
    (windowOpen s d = false → exec (.tableBatchPeriod n) s = .next (pumpColls s)) ∧
    ∀ (src : BitVec 8) (rows : List Nat) (mine : List Lookup) (p : Nat), src.toNat = fabricId s → mine ≠ [] →
      (tableSlot s n).owner = some p → (tableSlot s n).flight.find? (fun e => e.1 = src.toNat) = some (src.toNat, mine) →
      let all := ((rows ++ mine.map (·.row)).eraseDups.foldl (fun l n => placeNat n l) []).filter (rowOk d false)
      (∀ l ∈ mine, rowOk d false l.row = true) →
      (∀ g ∈ all, grants s p false (rowArea d g).1 (rowArea d g).2 = true ∧ lostIn s (rowArea d g).1 (rowArea d g).2 = none) →
      readMeets (tableSlot s n).served (all.map (rowArea d)) s = (none, s) →
      let t := updTable n (fun x => { x with flight := x.flight.erase (src.toNat, mine), served := [] })
        (all.foldl (fun s g => noteRead (rowArea d g).1 (rowArea d g).2 s) s)
      exec (.tableBatchServe n src rows) s = .next (pumpColls
        (mine.foldl (fun s l => rowCame n l (readBytes s (rowArea d l.row).1 d.rowBytes) s) t)))

/-! ### The seam (R226–R236) -/

/-- A deposit is taken from the doorbell by the command of its kind: a new one opens or joins its slot, one that breaks a rule is
refused with the lowest cause, and a repeat is only acknowledged (R228, R229). A slot that waits too long drops the members that
have not contributed; a slot with too few contributors is discarded, and any other releases its sum (R230–R232). -/
def Obligations.SeamDepositsAndSlots : Prop :=
  (∀ (p : Nat) (s : State) (e : Nat × Bytes), HubAwake s → s.seam.inbox.find? (·.1 == p) = some e →
    ∀ i ∈ [(Instr.depositDense p, 1), (.depositNoise p, 2), (.depositRowed p, 3), (.depositFree p, 4)],
      fieldNat e.2 4 1 = i.2 →
      let t := { s with seam := { s.seam with inbox := s.seam.inbox.erase e } }
      let d := depositRec e.2
      (isDuplicate t p d e.2 = true → exec i.1 s = .next (pumpColls (showResult p 2 d.slot d.step d.tag 0 t))) ∧
      (isDuplicate t p d e.2 = false → ∀ cause, depositCause t p d = some cause →
        exec i.1 s = .next (pumpColls (postPanel p 0x3004 seamBlock (d.slot + 2 ^ 16 * d.tag.toNat) (d.step.toNat + 2 ^ 32 * cause)
          (odCount 0x3002 4 1 (showResult p 3 d.slot d.step d.tag cause t))))) ∧
      (isDuplicate t p d e.2 = false → depositCause t p d = none → exec i.1 s = .next (pumpColls (if d.kind = 4 then
        showResult p 1 d.slot d.step d.tag 0 (updSeamSlot d.slot (fun x => { last := x.last }) t)
        else acceptDeposit p ((panelOf t p).seamIdx.getD 0) d e.2 t)))) ∧
  (∀ (n : Nat) (s : State), HubAwake s →
    ((seamSlot s n).st = .filling → exec (.seamSlotTimeout n) s = .next (pumpColls (settleSlot n
      (((seamSlot s n).set.filter fun p => !completed s (seamSlot s n) p).foldl (fun s p => dropFrom n p s) s)))) ∧
    ((seamSlot s n).st ≠ .filling → exec (.seamSlotTimeout n) s = .next (pumpColls s)) ∧
    ((seamSlot s n).st = .releasing →
      let x := seamSlot s n
      ((doneBy s x).length < minContributors s → exec (.seamRelease n) s = .next (pumpColls (discardSlot n 0 s))) ∧
      (minContributors s ≤ (doneBy s x).length → x.kind ≠ 3 → seamNoise s = false → noiseMode s ≠ 1 →
        exec (.seamRelease n) s = .next (pumpColls (finishRelease n x (wordsBytes (denseSum s n x)) false x.count s))) ∧
      (minContributors s ≤ (doneBy s x).length → x.kind ≠ 3 → noiseMode s = 1 →
        exec (.seamRelease n) s = .next (pumpColls (finishRelease n x
          (wordsBytes (List.zipWith add32 (denseSum s n x) (hostNoise s n x))) true x.count s)))))

/-! ### Ashlinks (R245–R265, R372) -/

/-- A link's states: detection, training, its end, the loss of a lane or of the signal, retrain and its end (R246, R248). -/
def Obligations.LinkStates : Prop :=
  ∀ (l : Nat) (s : State), Alive s → l < 24 →
    (linksPowered s = true → linkDisabled s l = false → (linkOf s l).st = .down →
      exec (.linkPartnerDetect l) s = .next (updLink l (fun x => { x with st := .training }) s)) ∧
    (∀ lanes : Nat, (linkOf s l).st = .training →
      let t := updLink l (fun x => { x with st := if native s then .config else .up, lanes := min lanes 2
                                            ctStep := odGet s 0x3100 8, ctPackets := 0 }) s
      (lanes = 0 → exec (.linkTrainingDone l 0) s = .next (updLink l (fun x => { x with st := .down, lanes := 0 }) s)) ∧
      (lanes ≠ 0 → native s = true → exec (.linkTrainingDone l lanes) s = .next (sendLinkctl l (.ident (identMsg t l)) t)) ∧
      (lanes ≠ 0 → native s = false → exec (.linkTrainingDone l lanes) s = .next (pumpLink l (doAnnounce t)))) ∧
    ((linkOf s l).st ≠ .down → (linkOf s l).st ≠ .disabled → exec (.lossOfSignal l) s = .next (loseLink l s)) ∧
    (carrying s l = true →
      ((linkOf s l).lanes ≤ 1 → exec (.laneFailure l) s = .next (loseLink l s)) ∧
      (1 < (linkOf s l).lanes → exec (.laneFailure l) s = .next (updLink l (fun x => { x with lanes := 1 }) s)) ∧
      (native s = true → let told := if (linkOf s l).replay.length < 1024 then sendLinkctl l .retrain s else s
        exec (.retrain ⟨l, none⟩) s = .next (linkCount l 72 1 (updLink l (fun x =>
          { x with st := .retraining, naks := 0, rxNaks := 0, discarding := false }) told)))) ∧
    ((linkOf s l).st = .retraining →
      exec (.linkRetrainTimeout l) s = .next (loseLink l s) ∧ exec (.retrainComplete l 0) s = .next (loseLink l s) ∧
      ∀ lanes : Nat, lanes ≠ 0 → let t := updLink l (fun x => { x with lanes := min lanes 2 }) s
        (native s = false →
          exec (.retrainComplete l lanes) s = .next (pumpLink l (updLink l (fun x => { toFrames x with st := .up }) t))) ∧
        (native s = true → (linkOf s l).nbDigest ≠ [] →
          let u := repeatFlits l (updLink l (fun x => { x with st := .config }) t)
          (identCause u l = none →
            exec (.retrainComplete l lanes) s = .next (retrySprayed (pumpLink l (updLink l (fun x => { x with st := .up }) u)))) ∧
          ∀ cause, identCause u l = some cause → exec (.retrainComplete l lanes) s = .next (pumpLink l
            (postMgmt 0xFF 0x3101 (linkBlock l) (l + 2 ^ 8 * cause) ((linkOf u l).nbFab.toNat + 2 ^ 8 * (linkOf u l).nbLink.toNat)
              (updLink l (fun x => { x with st := .quarantine }) u)))))

/-- What a received flit does: a failed one is counted and answered with a NAK; a good one frees what it acknowledges and returns
credits; one in order advances the expected number and is acknowledged, one that came before is discarded, one that leaves a gap is
answered with a NAK; a NAK and the replay timeout send every unacknowledged flit again (R247, R248). -/
def Obligations.LinkFlits : Prop :=
  ∀ (l : Nat) (h : FlitHdr) (m : IdentMsg) (sp : BitVec 2) (q : BitVec 12) (s : State), Alive s → carrying s l = true →
    native s = true →
    let x := linkOf s l
    let t := flitSeen l h s
    (¬ FlitGood h → ∀ i ∈ [Instr.flitIdle l h, .flitNak l h] ++ numberedFlits l h m sp q,
      exec i s = .next (nakFlit l (linkCount l 48 (if h.crcOk then 0 else 1)
        (linkCount l 40 h.fecLost (linkCount l 32 h.fecFixed s))))) ∧
    (FlitGood h →
      (h.seq = x.rxExpect → let k := h.vc.toNat * 16 + h.panel.toNat
        exec (.flitData l h) s = .next (flitDone l (updLink l (fun y =>
          { y with rxVc := some h.vc, owed := sset 0 y.owed k (sget 0 y.owed k + 1) }) (flitTaken l h s)))) ∧
      (h.seq = x.rxExpect → exec (.retrain ⟨l, some h⟩) s = .next (flitDone l (linkCount l 72 1 (updLink l (fun x =>
        { x with st := .retraining, naks := 0, rxNaks := 0, discarding := false }) (flitTaken l h s))))) ∧
      (2048 ≤ (h.seq - x.rxExpect).toNat → ∀ i ∈ numberedFlits l h m sp q, exec i s = .next (afterFlit l t)) ∧
      (h.seq ≠ x.rxExpect → (h.seq - x.rxExpect).toNat < 2048 → x.discarding = false →
        ∀ i ∈ numberedFlits l h m sp q, exec i s = .next (afterFlit l (nakFlit l t))) ∧
      exec (.flitIdle l h) s = .next (afterFlit l (takeCredits l h t)) ∧
      (let u := updLink l (fun x => { x with rxNaks := x.rxNaks + 1 }) (resendAll l 56 (takeCredits l h t))
       ((linkOf u l).rxNaks < 8 → exec (.flitNak l h) s = .next (afterFlit l u)) ∧
       (8 ≤ (linkOf u l).rxNaks → exec (.flitNak l h) s = .next (afterFlit l (askRetrain l u))))) ∧
    (x.replay = [] → exec (.replayTimeout l) s = .next s) ∧
    (x.replay ≠ [] → exec (.replayTimeout l) s = .next (linkCount l 64 1 (x.replay.foldl (fun s f => emitFlit l f s) s)))

/-- Packets for others are counted and go on, sprayed or in order; one that is stomped, whose CRC-32 fails or whose header is broken
is dropped and counted; a sprayed packet that waits too long goes on in the ordered channel; an underrun stomps the packet that the
link sends, past what its cut-through step gathers, and sends it again whole, one step higher, and 2²⁰ packets without one bring the
step down again (R253–R257). Speed changes: a request to lower is refused by a busy, degraded or just raised end, any other is
acknowledged with the number at which the speed changes; a window below the threshold asks to lower, and a trigger asks to raise
(R256). -/
def Obligations.LinkForwardingAndSpeed : Prop :=
  (∀ (l : Nat) (p : Packet) (s : State), Alive s → l < 24 →
    (native s = true → linkUp s (p.hdr.cls == 3) l = true → p.hdr.dstFab.toNat ≠ fabricId s →
      let c := linkCount l 144 (if p.ce then 1 else 0) s
      let t := linkCount l 152 1 (linkCount l 24 p.payload.length c)
      (p.intact = false → exec (.packetForward l p) s = .next (linkCount l 120 1 (linkCount l 104 1 c))) ∧
      (p.intact = true → headerBroken p = true → exec (.packetForward l p) s = .next (linkCount l 120 1 c)) ∧
      (p.intact = true → headerBroken p = false →
        (p.hdr.cls = 1 → (linkOf s l).rxVc ≠ some 0 → exec (.packetForward l p) s = .next (sendSprayed (l / 6) p t)) ∧
        (p.hdr.cls = 1 → (linkOf s l).rxVc = some 0 → exec (.packetForward l p) s = .next (sendOrdered 0 (l / 6) (some l) p t)) ∧
        (p.hdr.cls ≠ 1 →
          exec (.packetForward l p) s = .next (sendOrdered p.hdr.cls.toNat (packetTile p (l / 6)) (some l) p t)))) ∧
    ((l / 6, p) ∈ s.sprayWait → exec (.sprayEscapeTimeout l p) s =
      .next (sendOrdered 0 (l / 6) none p { s with sprayWait := s.sprayWait.erase (l / 6, p) })) ∧
    (∀ (w : LinkWait), linkUp s true l = true → sending (linkOf s l) = some w → w.sent ≤ 32 + w.pkt.payload.length →
      ∃ k, cutThrough (linkOf s l).ctStep w.pkt ≤ k ∧ w.sent ≤ k ∧ k ≤ 32 + w.pkt.payload.length ∧
        exec (.transmitUnderrun l) s = .next (pumpLink l (linkCount l 96 1 (updLink l (fun x => { x with
          ctStep := min 5 (x.ctStep + 1), ctPackets := 0, packets := x.packets + 1, last := none
          out := if native s then x.out.map (stompOut w.id k)
            else (cutLast (cutFrame (frameBody s l w.pkt) (66 + k)) x.out.reverse).reverse
          replay := x.replay.map (stompFlit w.id k)
          backlog := (x.backlog.filter (·.id == w.id)).map (fun u => { u with stomp := some k }) ++
            { w with id := x.packets, sent := 0 } :: x.backlog.filter (·.id != w.id) }) (freshVal s).2)))) ∧
    ((linkOf s l).ctPackets < 2 ^ 20 → exec (.cutThroughStepDown l) s = .next s) ∧
    (2 ^ 20 ≤ (linkOf s l).ctPackets → exec (.cutThroughStepDown l) s = .next (updLink l (fun x =>
      { x with ctPackets := 0, ctStep := max (odGet s 0x3100 8) ((linkOf s l).ctStep - 1) }) s))) ∧
  (∀ (l : Nat) (h : FlitHdr) (t : BitVec 2) (s : State), Alive s → speedLink s l = true →
    let x := linkOf s l
    let u := flitTaken l h s
    let y := linkOf u l
    (FlitGood h → h.seq = x.rxExpect →
      (t ≠ 3 → t = 0 ∨ refuseSpeed u y = false → exec (.speedReq l ⟨h, t⟩) s = .next (flitDone l (linkCount l 80 1 (updLink l
        (fun z => { z with lowered := t.toNat, speedAsked := none, switchAt := none
                           sinceRise := if t = 0 then u.time + 1 else z.sinceRise })
        (sendLinkctl l (.speedAck t (y.txSeq + 1)) u))))) ∧
      (t ≠ 0 → t = 3 ∨ refuseSpeed u y = true →
        exec (.speedReq l ⟨h, t⟩) s = .next (flitDone l (linkCount l 88 1 (sendLinkctl l (.speedRefuse t) u)))) ∧
      (∀ q : BitVec 12, x.speedAsked = some t →
        exec (.speedAck l ⟨h, t⟩ q) s = .next (flitDone l (updLink l (fun x => { x with switchAt := some q }) u))) ∧
      (x.speedAsked ≠ none → exec (.speedRefuse ⟨l, h⟩) s = .next (flitDone l
        (linkCount l 88 1 (updLink l (fun x => { x with speedAsked := none, switchAt := none }) u))))) ∧
    (∀ util : Nat, let v := updLink l (fun x => { x with util := util }) s
      (odGet s 0x3100 4 = 1 → util < odGet s 0x3100 6 → x.lowered = 0 → x.speedAsked = none → x.lanes = 2 →
        exec (.speedLowerWindow l util) s = .next (askSpeed l (if odGet s 0x3100 5 = 0 then 1 else 2) v)) ∧
      (odGet s 0x3100 6 ≤ util → exec (.speedLowerWindow l util) s = .next v)) ∧
    (x.lowered ≠ 0 → x.speedAsked ≠ some 0 → exec (.speedRaiseTrigger l) s = .next (askSpeed l 0 s)))

/-- IDENT records the neighbour, is answered with this end's own where the digest is new, and puts the link UP when fabric ID, link
number and digest agree, into QUARANTINE with event 0x3101 otherwise; a digest is recorded, and announced to every other fabric ID
(R264, R265). -/
def Obligations.LinkAgreement : Prop :=
  ∀ (s : State), Alive s →
    (∀ (l : Nat) (h : FlitHdr) (m : IdentMsg), carrying s l = true → native s = true → FlitGood h → h.seq = (linkOf s l).rxExpect →
      let fab : Byte := if m.unassigned then 0xFF else m.fabric
      let u := updLink l (fun x => { x with nbFab := fab, nbLink := m.link, nbDigest := m.digest }) (flitTaken l h s)
      let t := if (linkOf s l).st ≠ .config ∧ (linkOf s l).nbDigest ≠ m.digest then sendIdent l u else u
      let up := retrySprayed (pumpLink l (updLink l (fun x => { x with st := .up }) t))
      (identCause t l = none → anyLink t = true → exec (.ident l ⟨h, m⟩) s = .next (flitDone l up)) ∧
      (identCause t l = none → anyLink t = false → exec (.ident l ⟨h, m⟩) s = .next (flitDone l (doAnnounce up))) ∧
      (∀ cause, identCause t l = some cause → anyLink t = true →
        exec (.ident l ⟨h, m⟩) s = .next (flitDone l (pumpLink l (postMgmt 0xFF 0x3101 (linkBlock l) (l + 2 ^ 8 * cause)
          (fab.toNat + 2 ^ 8 * m.link.toNat) (updLink l (fun x => { x with st := .quarantine }) t))))) ∧
      (m.unassigned = true → identCause t l = some (if m.digest ≠ configDigest t then 1 else 2))) ∧
    (fabricSet s = true → anyLink s = true → exec .digestAnnounce s = .next
      (((List.range (odGet s 0x3100 3)).filter (· ≠ fabricId s)).foldl (fun s f => netSend 0 (digestPacket s f) s) s)) ∧
    (anyLink s = false → exec .digestAnnounce s = .next s) ∧
    ∀ (p : Packet), linksPowered s = true → PacketGood s p → p.hdr.op = 0x06 → p.payload.length = 40 →
      p.hdr.dstFab.toNat = fabricId s → p.hdr.srcFab.toNat ≠ fabricId s →
      exec (.digest p.hdr p.ce p.payload ⟨p.tag, p.link, p.intact⟩) s = .next (pumpLinks (noteDigest p.hdr.srcFab.toNat (p.payload.drop 8) (packetSeen p s)))

/-- Ethernet mode: which frames reach the transport, flow control by PFC, LLDP and Neighbor Advertisement (R258–R261). -/
def Obligations.EthernetLinks : Prop :=
  ∀ (l : Nat) (s : State), Alive s → ethLink s l = true →
    (∀ f : EthFrame,
      let good := f.dstMac = linkMac l ∧ f.ethertype = 0x86DD ∧ f.dstAddr = linkAddr s l ∧ f.udpPort.toNat = odGet s 0x3100 0xA ∧
        f.fcsOk = true ∧ f.sumOk = true ∧ f.tags ≤ 1 ∧ (f.tags = 0 ∨ f.vid = 0 ∨ f.vid.toNat = odGet s 0x3100 0xC % 2 ^ 12) ∧
        f.nextHeader = 17 ∧ f.length ≤ 9216
      (good → exec (.ethFrameReceive l f) s = .next (pumpColls (linkCount l 8 1 s))) ∧
      (¬ good → exec (.ethFrameReceive l f) s = .next (pumpColls
        (linkCount l 120 1 (if f.fcsOk then linkCount l 8 1 s else linkCount l 48 1 s))))) ∧
    (∀ (control : Bool) (fill : Nat), let sent := sget 0 (linkOf s l).pfcSent control.toNat
      let buf := if control then 64 * 1024 else 192 * 1024
      let t := updLink l (fun x => { x with rxFill := sset 0 x.rxFill control.toNat fill }) s
      (3 * buf < 4 * fill → sent = 0 → exec (.pfcSend l control fill) s = .next (sendPfc l control.toNat 0xFFFF t)) ∧
      (2 * fill < buf → sent = 1 → exec (.pfcSend l control fill) s = .next (sendPfc l control.toNat 0 t)) ∧
      (buf ≤ 2 * fill → 4 * fill ≤ 3 * buf → exec (.pfcSend l control fill) s = .next t) ∧
      (sent ≠ 0 → buf < 2 * sget 0 (linkOf s l).rxFill control.toNat →
        exec (.pfcRepeat l control) s = .next (sendPfc l control.toNat 0xFFFF s)) ∧
      (sent = 0 ∨ 2 * sget 0 (linkOf s l).rxFill control.toNat ≤ buf → exec (.pfcRepeat l control) s = .next s) ∧
      exec (.pfcQuantaExpiry l control) s = .next (setPause l control.toNat 0 s)) ∧
    (∀ (prio : BitVec 3) (quanta : Word16), let t := linkCount l 8 1 (linkCount l 136 1 s)
      (prio.toNat = odGet s 0x3100 0xD → exec (.pfcReceive l prio quanta) s = .next (setPause l 0 quanta.toNat t)) ∧
      (prio.toNat = odGet s 0x3100 0xE → odGet s 0x3100 0xE ≠ odGet s 0x3100 0xD →
        exec (.pfcReceive l prio quanta) s = .next (setPause l 1 quanta.toNat t)) ∧
      (prio.toNat ≠ odGet s 0x3100 0xD → prio.toNat ≠ odGet s 0x3100 0xE → exec (.pfcReceive l prio quanta) s = .next t)) ∧
    exec (.lldpTransmit l) s = .next (linkCount l 0 1 (linkEmit l (.lldp (lldpBytes s l)) s)) ∧
    (∀ (fabric link : BitVec 8) (digest : Bytes), exec (.lldpReceive l fabric link digest) s = .next (linkCount l 8 1
      (updLink l (fun x => { x with nbFab := fabric, nbLink := link, nbDigest := digest }) s))) ∧
    (exec (.neighborSolicitation l (linkAddr s l)) s =
        .next (linkCount l 0 1 (linkEmit l (.advert (linkAddr s l)) (linkCount l 8 1 s))) ∧
      ∀ target : BitVec 128, target ≠ linkAddr s l → exec (.neighborSolicitation l target) s = .next (linkCount l 8 1 s))

/-! ### Queue pairs, messages and collectives (R269–R287) -/

/-- QP records: a create that a rule refuses posts event 0x3204 with the lowest cause, any other makes a READY queue pair whose
sequence state is at its start; destroy and reset act on a queue pair of the panel (R270). A COLL record that a rule refuses holds
its ring with event 0x3205 and the lowest cause; any other becomes a kernel on its worker core (R285, R286). -/
def Obligations.QueuePairRecords : Prop :=
  (∀ (h r : Nat) (s : State) (c : Rec), AtHead s h r c → c.type = 0x22 →
    let q := c.field 10 2
    let w := qpSoft s c.p q
    (c.field 8 1 = 1 → (∀ cause, qpCause s c.p q w = some cause → exec (.qpCreate h r) s = .next (pumpColls
        (postPanel c.p 0x3204 c.hub (q % 4096 + 2 ^ 16 * cause) 0 (doneRec c 2 0x3204 s)))) ∧
      (qpCause s c.p q w = none → exec (.qpCreate h r) s = .next (pumpColls (doneRec c 0 0 (touchQp q (clearCounts q
        (updQp q (fun _ => freshQp c.p w) (storeBytes (qpTable s c.p q + 64) (List.replicate 960 0) s)))))))) ∧
    (q < 4096 → (qpOf s q).st ≠ .free → (qpOf s q).owner = c.p →
      (c.field 8 1 = 2 → exec (.qpDestroy h r) s = .next (pumpColls (pumpCores c.p (doneRec c 0 0 (destroyQp q s))))) ∧
      (c.field 8 1 = 3 → exec (.qpReset h r) s = .next (pumpColls (pumpCores c.p (doneRec c 0 0 (resetQp q s)))))) ∧
    ((qpOf s q).st = .free → (c.field 8 1 = 2 → exec (.qpDestroy h r) s = .next (pumpColls
        (postPanel c.p 0x3204 c.hub (q % 4096 + 2 ^ 16) 0 (doneRec c 2 0x3204 s)))) ∧
      (c.field 8 1 = 3 → exec (.qpReset h r) s = .next (pumpColls
        (postPanel c.p 0x3204 c.hub (q % 4096 + 2 ^ 16) 0 (doneRec c 2 0x3204 s)))))) ∧
  (∀ (h r : Nat) (s : State) (c : Rec), AtHead s h r c → c.type = 0x23 →
    ∀ i ∈ [(Instr.allReduce h r, 1), (.reduceScatter h r, 2), (.allGather h r, 3), (.permute h r, 4)], c.field 8 1 = i.2 →
      (∀ cause, collCause s c = some cause → exec i.1 s = .next (pumpColls
        (postPanel c.p 0x3205 c.hub (c.field 16 8) (c.field 12 4 + 2 ^ 32 * cause) (holdRefused h r s)))) ∧
      (collCause s c = none →
        let t := takeRec c s
        let u := { t with kernels := t.kernels ++ [collKernel s c], nextKid := t.nextKid + 1, colls := t.colls ++ [collOf s c] }
        lostCoreOf u (collKernel s c) = none → exec i.1 s = .next (pumpColls (checkHead h r u))))

/-- A SEND packet is placed where its receive entry says, or answered by the NAK of its fault: 3 when the entry is not posted, 4
when the placement is refused, which puts the queue pair in ERROR; one of a message already complete is acknowledged and
dropped (R271–R278). -/
def Obligations.MessagesPlaced : Prop :=
  ∀ (s : State) (pkt : Packet) (b : Bytes), PacketNew s false pkt b → pkt.hdr.op = 0x01 →
    let q := pkt.hdr.dstQp.toNat
    let t := met pkt s
    let x := qpOf t q
    let m := pkt.hdr.msg
    let d := splitTrail pkt b
    (pkt.hdr.trail = true → b.length < 16 → exec (.send pkt) s = .next (pumpColls (afterPkt q (msgCount x.owner 8 1 t)))) ∧
    ((pkt.hdr.trail = true → 16 ≤ b.length) →
    (2 ^ 31 ≤ (m - x.rxPrefix).toNat ∨ m ∈ x.rxDone → exec (.send pkt) s = .next (pumpColls (afterPkt q (ackDrop q pkt.hdr.psn t)))) ∧
    ((m - x.rxPrefix).toNat < 64 → m ∉ x.rxDone →
      ∀ i, attemptOf x m (pkt.hdr.psn - BitVec.ofNat 24 (pkt.hdr.off.toNat / 4096)) = some i →
      (entryPosted t x m = false → exec (.send pkt) s = .next (pumpColls (afterPkt q (sendNak q 3 pkt.hdr.psn t)))) ∧
      (entryPosted t x m = true →
        (∀ a, placeAt t x (recvEntry x m.toNat) pkt.hdr.off.toNat d.1.length = some a →
          exec (.send pkt) s = .next (pumpColls (afterPkt q (placePkt q pkt i a d.1 d.2 t)))) ∧
        (placeAt t x (recvEntry x m.toNat) pkt.hdr.off.toNat d.1.length = none → exec (.send pkt) s = .next (pumpColls (afterPkt q
          (qpError q 2 2 m.toNat pkt.hdr.psn.toNat (updQp q (fun x => { x with inMsgs := x.inMsgs.filter (·.id != m) })
            (setRecvStatus x m.toNat 3 (sendNak q 4 pkt.hdr.psn t))))))))))

/-- An ACK frees what it covers, raises the reported prefix and lets waiting packets go; a NAK of code 4 or 5 ends the queue pair
or the operation, any other sets the backoff of its packet (R279, R280). What a queue pair does in its own time: a due
acknowledgement, the retries after a NAK and after silence with the limits that end it in ERROR, the restore of a context, and the
recovery of its rate (R262, R279–R282). -/
def Obligations.AnswersAndTimers : Prop :=
  (∀ (s : State) (pkt : Packet) (b : Bytes), AnswerNew s pkt b →
    let v := packetSeen pkt s
    let q := pkt.hdr.dstQp.toNat
    let psn := BitVec.ofNat 24 (fieldNat b 4 4)
    let code := fieldNat b 0 1
    (pkt.hdr.op = 0x02 →
      let pre := BitVec.ofNat 32 (fieldNat b 4 4)
      let t := updQp q (fun x => { x with remPrefix := if (pre - x.remPrefix).toNat < 2 ^ 31 then pre else x.remPrefix })
        (if pkt.hdr.ece then lowerRate q v else v)
      exec (.ack pkt) s = .next (pumpColls (afterPkt q
        (pumpQp q 256 (freePsns q (ackCovers (BitVec.ofNat 24 (fieldNat b 0 4)) (b.drop 8)) t))))) ∧
    (pkt.hdr.op = 0x03 →
      (outPkt s q psn = none → exec (.nak pkt) s = .next (pumpColls v)) ∧
      ∀ o, outPkt s q psn = some o →
        (code = 4 → exec (.nak pkt) s = .next (pumpColls (qpError q 1 2 o.pkt.hdr.msg.toNat psn.toNat v))) ∧
        (code = 5 → exec (.nak pkt) s = .next (pumpColls (afterPkt q (freePsns q (· == psn) (refusedRemote q o v))))) ∧
        (code ∈ [1, 2, 3, 6, 7] → exec (.nak pkt) s = .next (pumpColls (odCount 0x2807 3 (if code = 6 then 1 else 0)
          (updOut q psn (fun o => { o with nak := code, backoffUs := if o.backoffUs = 0 then 2 else min 64 (2 * o.backoffUs) }) v)))))) ∧
  (∀ (q : Nat) (s : State), HubAwake s → linksPowered s = true →
    let x := qpOf s q
    (x.ackDue = true → x.st = .ready → exec (.ackTimer q) s = .next (sendAck q s)) ∧
    (x.ackDue = false → exec (.ackTimer q) s = .next s) ∧
    (∀ (psn : BitVec 24) (o : OutPkt), outPkt s q psn = some o → x.st = .ready → o.dead = false →
      (o.nak ≠ 0 → o.nak ≠ 6 → exec (.nakRetry q psn) s = .next (netSend o.src o.pkt s)) ∧
      (o.nak ≠ 0 → exec (.nakLimitExpiry q psn) s = .next (pumpColls
        (qpError q 4 2 o.pkt.hdr.msg.toNat psn.toNat (postTrailGone q (postFarGone q s))))) ∧
      (odGet s 0x3200 3 ≤ o.resends →
        exec (.retryTimeout q psn) s = .next (pumpColls (qpError q 3 2 o.pkt.hdr.msg.toNat psn.toNat s))) ∧
      (o.resends < odGet s 0x3200 3 → exec (.retryTimeout q psn) s = .next (pumpColls (msgCount x.owner 3 1
        (netSend o.src o.pkt (updOut q psn (fun o => { o with resends := o.resends + 1 }) s)))))) ∧
    (x.byHost = false → x.restoring = true → x.st ≠ .free → s.cacheOrder.length < 512 →
      (x.saved = [] ∨ readBytes s (qpTable s x.owner q + 64) 960 = x.saved.drop 64) →
      exec (.contextRestoreComplete q) s = .next (pumpColls (updQp q (fun x => { x with cached := true, restoring := false })
        { s with cacheOrder := q :: s.cacheOrder }))) ∧
    (x.byHost = true → exec (.contextRestoreComplete q) s = .next (pumpColls s)) ∧
    (x.st ≠ .free → exec (.ecnRateIncrease q) s =
      .next (updQp q (fun x => { x with rateMbps := min (x.rateMbps + odGet s 0x3100 0xF) 400000 }) s)))

/-- A CONTROL queue pair keeps the last count it applied for every source core, and applies an operation only when its count is one of
the next 2³¹ − 1; any other is acknowledged and not applied. A create and a reset clear the counts (R284). -/
def Obligations.CountedKnots : Prop :=
  (∀ (s : State) (pkt : Packet) (b : Bytes), PacketNew s true pkt b → pkt.hdr.op = 0x04 → b.length = 32 →
    let q := pkt.hdr.dstQp.toNat
    let t := met pkt s
    let m := knotMsg b
    let d := (m.count - BitVec.ofNat 32 (sget 0 (qpOf t q).counts m.core)).toNat
    0x40 ≤ m.op → m.op ≤ 0x44 →
      (d = 0 ∨ 2 ^ 31 ≤ d → exec (.knot pkt) s = .next (pumpColls (afterPkt q (ackDrop q pkt.hdr.psn t))) ∧
        (secure t (qpOf t q).owner = false → (ackDrop q pkt.hdr.psn t).knots = t.knots)) ∧
      (secure t (qpOf t q).owner = false → sget 0 (qpOf (takeKnot q pkt m t) q).counts m.core = m.count.toNat)) ∧
  (∀ (q : Nat) (s : State), (qpOf (resetQp q s) q).counts = []) ∧
  ∀ (p : Nat) (w : QpSoft), (freshQp p w).counts = []

/-- A KNOT packet adds to or sets the knot it names and is counted, waits at it, or is answered at once when its wait is met; a full
core answers NAK 6 and a knot of another panel NAK 5. A WAKE ends the wait of its core (R195, R283, R284). -/
def Obligations.RemoteKnots : Prop :=
  ∀ (s : State) (pkt : Packet) (b : Bytes), PacketNew s true pkt b →
    let q := pkt.hdr.dstQp.toNat
    let t := met pkt s
    let x := qpOf t q
    let m := knotMsg b
    let i := knotAt m.addr
    let u := takeKnot q pkt m t
    let d := (m.count - BitVec.ofNat 32 (sget 0 x.counts m.core)).toNat
    let g : Signaller := ⟨pkt.hdr.srcFab.toNat, m.core, m.tag, 16⟩
    (pkt.hdr.op = 0x04 → b.length = 32 → d ≠ 0 → d < 2 ^ 31 →
      (remoteKnotOk t x.owner m.addr = false →
        (m.op = 0x40 ∨ m.op = 0x41 → exec (.knot pkt) s = .next (pumpColls (afterPkt q (sendNak q 5 pkt.hdr.psn (storeKnot q pkt m t))))) ∧
        (m.op = 0x42 ∨ m.op = 0x43 ∨ m.op = 0x44 →
          exec (.knot pkt) s = .next (pumpColls (afterPkt q (sendWake q m.addr.toNat 2 m.core m.count.toNat u))))) ∧
      (remoteKnotOk t x.owner m.addr = true → (knotOf t i).poisoned = false →
        (m.op = 0x40 → exec (.knot pkt) s = .next (pumpColls (afterPkt q (applyRemote false i m.value g u)))) ∧
        (m.op = 0x41 → exec (.knot pkt) s = .next (pumpColls (afterPkt q (applyRemote true i m.value g u)))) ∧
        (m.op = 0x42 ∨ m.op = 0x43 →
          (recordsFull t i = true → exec (.knot pkt) s = .next (pumpColls (afterPkt q (sendNak q 6 pkt.hdr.psn t)))) ∧
          (recordsFull t i = false → exec (.knot pkt) s =
            .next (pumpColls (afterPkt q (remoteWait q pkt.hdr.srcFab.toNat m (odCount 0x2807 2 1 u)))))) ∧
        (m.op = 0x44 → recordsFull t i = false → exec (.knot pkt) s = .next (pumpColls (afterPkt q
          (remoteWait q pkt.hdr.srcFab.toNat m (odCount 0x2807 2 1 (applyArrive i (m.value % 2 ^ 16) x.owner g u)))))))) ∧
    (pkt.hdr.op = 0x05 → fieldNat b 4 1 = 0 →
      let c := fieldNat b 12 1
      let v := noteAck q (takePsn q pkt.hdr.psn t)
      c < 128 → ownerOfCore v c = some x.owner → (coreOf v c).remoteWait.isSome = true →
        sget 0 (coreOf v c).remote q = fieldNat b 16 4 →
        exec (.wake pkt) s = .next (pumpColls (afterPkt q (endRemoteWait c v))))

/-! ### Ring records (R297–R304, R313–R316) -/

/-- NOP and KERNEL records: a body that its rule does not allow is refused, an accepted kernel waits for its start (R301, R313,
R316). FENCE and PUBLISH stand at the head of the ring until every earlier record has completed; PUBLISH then writes the dirty lines
of its panel back (R304). JOB names the ring's job when every member is reachable (R303). -/
def Obligations.HubRecords : Prop :=
  (∀ (h r : Nat) (s : State) (c : Rec), AtHead s h r c →
    (c.type = 0x00 →
      (c.zeroBut [] = true → exec (.nopRecord h r) s = .next (pumpColls (doneRec c 0 0 s))) ∧
      (c.zeroBut [] = false → exec (.nopRecord h r) s = .next (pumpColls (refuseRec c s)))) ∧
    (c.type = 0x01 → c.zeroBut [(8, 4), (16, 16)] = true →
      let a := c.field 16 8
      let k := newKernel s c
      let t := takeRec c s
      let u := { t with kernels := t.kernels ++ [k], nextKid := t.nextKid + 1 }
      (headerOk s c.p a = false → exec (.kernel h r) s = .next (pumpColls (postPanel c.p 0x2305 c.hub a
        (if grants s c.p false a 64 then (kHeader s a).tag.toNat else 0) (doneRec c 2 0x2305 s)))) ∧
      (headerOk s c.p a = true → schedCause s c k = none → lostCoreOf u k = none →
        exec (.kernel h r) s = .next (pumpColls (checkHead h r u))) ∧
      (headerOk s c.p a = true → ∀ cause, schedCause s c k = some cause → exec (.kernel h r) s = .next (pumpColls
        (postPanel c.p 0x3401 c.hub (c.n + 2 ^ 32 * c.r) (k.mask.toNat + 2 ^ 16 * cause) (doneRec c 2 0x3401 s))))) ∧
    (∀ i ∈ [(Instr.fence h r, 0x02), (.publish h r, 0x03)], c.type = i.2 →
      (c.zeroBut [] = true → exec i.1 s = .next (pumpColls (fenceRec c s))) ∧
      (c.zeroBut [] = false → exec i.1 s = .next (pumpColls (holdRec c s)))) ∧
    (c.type = 0x04 → c.zeroBut [(8, 4), (16, 32)] = true → c.field 8 4 ≠ 0 →
      (jobCause s ((c.body.drop 16).take 32) = none → exec (.job h r) s = .next (pumpColls
        (doneRec c 0 0 (updRing h r (fun x => { x with job := BitVec.ofNat 32 (c.field 8 4) }) s)))) ∧
      (∀ f cause, jobCause s ((c.body.drop 16).take 32) = some (f, cause) →
        exec (.job h r) s = .next (pumpColls (holdRec c (postPanel c.p 0x3103 c.hub f cause s)))))) ∧
  ∀ (h r n : Nat) (cqe : Bool) (tag : Word16) (s : State), HubReady s →
    (∀ type : Byte, (ringOf s h r).fence = some (n, type, cqe, tag) → (ringOf s h r).open_ ≠ [] →
      exec (.fenceClear h r) s = .next (pumpColls s)) ∧
    ((ringOf s h r).fence = some (n, 0x02, cqe, tag) → (ringOf s h r).open_ = [] →
      exec (.fenceClear h r) s = .next (pumpColls (endFence h r n 0x02 cqe tag.toNat 0 0 s))) ∧
    (∀ p : Nat, (ringOf s h r).fence = some (n, 0x03, cqe, tag) → (ringOf s h r).open_ = [] → ringPanel s h r = some p →
      postedAll (tbFlush (tbOfPanel s p) s) h = true →
      exec (.fenceClear h r) s = .next (pumpColls (endFence h r n 0x03 cqe tag.toNat 0 0 (tbFlush (tbOfPanel s p) s))))

/-- SCHEDULE, SNAPSHOT, GRAFT, WINDOW and TABLE records: what each sets when its fields are good, and the event and cause of the
refusal when they are not (R116, R132, R136, R156, R163). -/
def Obligations.TrainingRecords : Prop :=
  ∀ (h r : Nat) (s : State) (c : Rec), AtHead s h r c →
    (c.type = 0x10 → let t := c.field 16 8
      t ≠ 0 → grants s c.p true t 8320 = true → readNat s t 4 = groupMagic →
      c.zeroBut [(8, 4), (16, 8), (24, 8), (32, 5), (40, 16)] = true → exec (.schedule h r) s =
        .next (pumpColls (doneRec c 0 0 (updPanel c.p (fun x => { x with groupTable := t }) (applySchedule t c.body s))))) ∧
    (c.type = 0x10 → c.field 16 8 = 0 → exec (.schedule h r) s =
      .next (pumpColls (postPanel c.p 0x2503 c.hub (c.field 8 4) 0 (holdRefused h r s)))) ∧
    (c.type = 0x11 → (panelOf s c.p).snap = none →
      (snapCause s c = none → exec (.snapshot h r) s = .next (pumpColls (checkHead h r (startSnap c (takeRec c s))))) ∧
      (∀ cause, snapCause s c = some cause → exec (.snapshot h r) s = .next (pumpColls (postPanel c.p 0x2504 c.hub
        (c.field 8 4 + 2 ^ 32 * cause) (c.field 16 8) (doneRec c 2 0x2504 s))))) ∧
    (c.type = 0x12 → c.field 10 1 = 1 →
      (graftCause s c = none → exec (.graftRegister h r) s = .next (pumpColls
        (doneRec c 0 0 { s with grafts := sset (0, 0) s.grafts (c.field 8 1) (c.p, c.field 9 1) }))) ∧
      (∀ cause, graftCause s c = some cause → exec (.graftRegister h r) s = .next (pumpColls (postPanel c.p 0x2506 c.hub
        (c.field 8 1 + 2 ^ 8 * cause) (c.field 12 4) (doneRec c 2 0x2506 s))))) ∧
    (c.type = 0x12 → c.field 10 1 = 2 → exec (.graftRelease h r) s = .next (pumpColls
      (doneRec c 0 0 { s with grafts := s.grafts.filter fun g => !(g.1 == c.field 8 1 && g.2.1 == c.p) }))) ∧
    (c.type = 0x20 → c.field 8 1 = 1 → let t := c.field 16 8
      let n0 := readNat s (t + 20) 1
      (windowCause s c.p t = none → exec (.windowStart h r) s = .next (pumpColls (doneRec c 0 0 (updPanel c.p (fun x => { x with
        streamer := some { table := t, entries := readNat s (t + 4) 4, base := readNat s (t + 8) 8, slot := readNat s (t + 16) 4,
                           n := if n0 = 0 then odGet s 0x2600 2 else n0, fillKnot := BitVec.ofNat 32 (readNat s (t + 24) 4),
                           relKnot := BitVec.ofNat 32 (readNat s (t + 28) 4), next := 0, landed := [], done := 0 } }) s)))) ∧
      (∀ cause, windowCause s c.p t = some cause → exec (.windowStart h r) s =
        .next (pumpColls (postPanel c.p 0x2605 c.hub t cause (doneRec c 2 0x2605 s))))) ∧
    (c.type = 0x20 → c.field 8 1 = 2 →
      exec (.windowStop h r) s = .next (pumpColls (doneRec c 0 0 (updPanel c.p (fun x => { x with streamer := none }) s)))) ∧
    (c.type = 0x21 → c.field 9 1 = 1 →
      (tableRegCause s c = none → exec (.tableRegister h r) s = .next (pumpColls (doneRec c 0 0
        (updTable (c.field 8 1) (fun _ => { owner := some c.p, desc := readBytes s (c.field 16 8) 128 }) s)))) ∧
      (∀ cause, tableRegCause s c = some cause → exec (.tableRegister h r) s = .next (pumpColls
        (postPanel c.p 0x2603 (tableBlock c.h) (c.field 16 8) (2 ^ 32 * cause) (doneRec c 2 0x2603 s))))) ∧
    (c.type = 0x21 → c.field 9 1 = 2 →
      ((tableSlot s (c.field 8 1)).owner = some c.p →
        exec (.tableRelease h r) s = .next (pumpColls (doneRec c 0 0 (freeTable (c.field 8 1) s)))) ∧
      ((tableSlot s (c.field 8 1)).owner ≠ some c.p → exec (.tableRelease h r) s = .next (pumpColls (doneRec c 0 0 s))))

/-- HINT sets the panel's operating-point hint until it expires, WORKLIST builds a step's list and shows it on its knot, and MODEL
waits as a fence does and then replaces the resident model (R326, R328, R335). -/
def Obligations.ServingRecords : Prop :=
  (∀ (h r : Nat) (s : State) (c : Rec), AtHead s h r c →
    (c.type = 0x30 →
      (hintCause c = none → exec (.hint h r) s = .next (pumpColls (doneRec c 0 0
        (updPanel c.p (fun x => { x with hint := some ⟨c.field 8 1, bitOf (c.field 9 1) 0⟩ }) s)))) ∧
      (∀ cause, hintCause c = some cause → exec (.hint h r) s = .next (pumpColls
        (postPanel c.p 0x2001 powerBlock (c.n + 2 ^ 32 * c.r) cause (doneRec c 2 0x2001 s))))) ∧
    (c.type = 0x31 → let st := c.field 8 4
      let n := c.field 12 4
      (worklistCause s c.p n = none →
        let t := if odGet s 0x3400 1 = 0 then buildList c.p st s else s
        exec (.worklist h r) s = .next (pumpColls (pumpCores c.p (doneRec c 0 0 (odCount 0x340B 7 1
          (panelKnot c.p c.hub true (BitVec.ofNat 32 (odGet t 0x3407 (c.p + 1))) st t)))))) ∧
      (∀ cause, worklistCause s c.p n = some cause → exec (.worklist h r) s = .next (pumpColls
        (postPanel c.p 0x3404 c.hub st (n + 2 ^ 32 * cause) (holdRefused h r s))))) ∧
    (c.type = 0x32 → exec (.model h r) s = .next (pumpColls (fenceRec c s)))) ∧
  (∀ (h r n p : Nat) (cqe : Bool) (tag : Word16) (s : State), HubReady s →
    (ringOf s h r).fence = some (n, 0x32, cqe, tag) → (ringOf s h r).open_ = [] → ringPanel s h r = some p →
    let b := (ringOf s h r).fenceBody
    let es := (List.range (fieldNat b 24 4)).map (imageEntry s (fieldNat b 16 8))
    modelCause s p b = none → (copyImages es s).1 = .done → exec (.fenceClear h r) s =
      .next (pumpColls (endFence h r n 0x32 cqe tag.toNat 0 0 (setModel p b (copyImages es s).2)))) ∧
  ∀ (p : Nat) (x : Hint) (s : State), Alive s → (panelOf s p).hint = some x →
    (x.hold = true → odGet s 0x2000 1 = 1 → exec (.hintExpiry p) s = .next s) ∧
    (x.hold = false ∨ odGet s 0x2000 1 ≠ 1 → exec (.hintExpiry p) s = .next (updPanel p (fun y => { y with hint := none }) s))

/-! ### Riloz ports (R289–R312) -/

/-- A doorbell of tail v acts by its distances from the head and from the tail already accepted; at a HELD ring it resumes the ring
first, and at a DISABLED or QUIESCED one it does nothing (R299). -/
def Obligations.DoorbellDistances : Prop :=
  ∀ (h r : Nat) (v : Word32) (s : State), Alive s → (portOf s h).st = .up → r < 64 → ringPanel s h r ≠ none → s.startup.dstate = 0 →
    let x := ringOf s h r
    let u := updRing h r (fun x => if x.st = .held then { x with st := .running, cause := 0 } else x) s
    let a := (v - x.head).toNat
    let b := (x.tail - x.head).toNat
    (x.st = .disabled ∨ x.st = .quiesced → exec (.doorbell h r v) s = .next (pumpColls u)) ∧
    (x.st = .running ∨ x.st = .held →
      (v = x.tail → exec (.doorbell h r v) s = .next (pumpColls (checkHead h r u))) ∧
      (b < a → a ≤ x.entries.toNat →
        exec (.doorbell h r v) s = .next (pumpColls (checkHead h r (updRing h r (fun x => { x with tail := v }) u)))) ∧
      (a < b → exec (.doorbell h r v) s =
        .next (pumpColls (checkHead h r (updRing h r (fun x => { x with stale := x.stale + 1 }) u)))) ∧
      (b < a → x.entries.toNat < a → exec (.doorbell h r v) s = .next (pumpColls (postRing h r 0x3302 (rilozBlock h) (ringName h r)
        (v.toNat + 2 ^ 32 * x.head.toNat) (holdRing h r 3 u)))))

/-- Host writes to an UP port: each acts as the field it covers, in its slot block, its ring block or its control page; in BAR2 a
write lands where the slot's window points, when the panel may write there (R291, R294, R295, R299, R305, R306). -/
def Obligations.HostRegisters : Prop :=
  ∀ (h : Nat) (s : State), Alive s → (portOf s h).st = .up →
    (∀ (r : Nat) (v : Word32), r < 64 →
      (ringPanel s h r ≠ none →
        exec (.doorbell h r v) s = .next (pumpColls (doDoorbell h r v (wakeDoorbell s))) ∧
        exec (.ringEnable h r) s = .next (pumpColls (doRingEnable h r s)) ∧
        exec (.ringDisable h r) s = .next (pumpColls
          (updRing h r (fun x => { x with st := .disabled, fence := none, fenceBody := [], cause := 0 }) s)) ∧
        exec (.completionConsumerWrite h r v) s = .next (pumpColls
          (checkHead h r (retryRing h r (updRing h r (fun x => { x with cCons := v }) s))))) ∧
      (ringPanel s h r = none → ∀ i ∈ [Instr.doorbell h r v, .ringEnable h r, .ringDisable h r, .completionConsumerWrite h r v],
        exec i s = .next (pumpColls s))) ∧
    (∀ (w : Nat) (v : Word32), w < 4 → ownerOfSlot s h w ≠ none →
      exec (.translationInvalidate h w v) s = .next (pumpColls
        (retrySlot h w (dropCache h w (fun i => v = 0xFFFF_FFFF || i = v.toNat) s))) ∧
      exec (.eventConsumerWrite h w v) s = .next (pumpColls (retryEvents h w (updSlot h w (fun b => { b with evCons := v }) s)))) ∧
    (∀ (w e p : Nat), w < 4 → 48 ≤ e → e < 256 → ownerOfSlot s h w = some p → (panelOf s p).st = .open →
      let x := sget {} (panelOf s p).regions e
      let raw := padTo 30 x.raw
      (x.valid = false → regionStatus s p e raw 1 = 0 →
        exec (.regionEntryValidate h w e) s = .next (pumpColls (updRegion p e (fun _ => { parseRegion raw with valid := true }) s))) ∧
      (x.valid = false → regionStatus s p e raw 1 ≠ 0 → exec (.regionEntryValidate h w e) s = .next (pumpColls
        (updRegion p e (fun y => { y with status := BitVec.ofNat 8 (regionStatus s p e raw 1) }) s))) ∧
      (x.valid = true → exec (.regionEntryValidate h w e) s = .next (pumpColls s) ∧
        exec (.regionEntryRevoke h w e) s = .next (pumpColls (updRegion p e (fun y => { y with valid := false }) s)))) ∧
    (∀ (o : Nat) (d : Bytes),
      (s.startup.running = false → exec (.inboundWrite h false o d) s = .next (pumpColls (stageWrite h o d s))) ∧
      (s.startup.running = true → s.startup.dstate = 0 → o < 2 ^ 38 →
        let b := slotOf s h (o / 2 ^ 36)
        let a := b.target.toNat + o % 2 ^ 36
        ∀ p, ownerOfSlot s h (o / 2 ^ 36) = some p → o % 2 ^ 36 + d.length ≤ b.length.toNat →
          (grants s p true a d.length = true → lostPartly s a d.length = none →
            exec (.inboundWrite h false o d) s = .next (pumpColls (countInbound h d.length (writeBytes a d s)))) ∧
          (grants s p true a d.length = false → exec (.inboundWrite h false o d) s = .next (pumpColls
            (postPanel p 0x3001 (rilozBlock h) a 0 (portCount h 64 1 s))))) ∧
      exec (.bar2Read h o) s = .next (portCount h 72 1 s))

/-- Ports in trouble: a retrain keeps host writes and device writes and lets them go afterwards; a lost host quiesces its panels,
which an attach within the grace lets go on, and whose end resets them; what hold-off and grace of a doorbell leave (R300,
R307–R312). -/
def Obligations.HostPorts : Prop :=
  ∀ (h : Nat) (s : State), Alive s →
    ((portOf s h).st = .up → ∀ failed replayed : Nat, exec (.portRetrain ⟨h, failed, replayed⟩) s =
      .next (portCount h 32 1 (portCount h 24 replayed (portCount h 16 failed
        (updPort h (fun x => { x with st := .retraining, retrains := x.retrains + 1 }) s))))) ∧
    ((portOf s h).st = .retraining →
      (∀ (bar0 : Bool) (o : Nat) (d : Bytes), exec (.inboundWrite h bar0 o d) s =
        .next (pumpColls (updPort h (fun x => { x with waitHost := x.waitHost ++ [(bar0, o, d)] }) s))) ∧
      exec (.portRetrainComplete h) s = .next (pumpColls ((portOf s h).waitHost.foldl (deliverHost h) (portBack h s)))) ∧
    ((portOf s h).st = .up ∨ (portOf s h).st = .retraining →
      let x := portOf s h
      let t := updPort h (fun x => { x with
          st := .hostlost, grace := true, losses := x.losses + 1, replay := [], irqPend := [], waitHost := [] })
        (portCount h 40 1 (portCount h 80 x.replay.length s))
      let u := (allMoves t).foldl (fun s e => loseHost h e.1 e.2 s) t
      let ps := panelsOn u h
      exec (.hostLost h) s = .next (pumpColls (postPanels ps 0x3304 (rilozBlock h) h (maskOf ps) (ps.foldl (quiescePanel h) u)))) ∧
    ((portOf s h).st = .hostlost →
      exec (.attach h) s = .next (pumpColls (doAttach h s)) ∧
      ((portOf s h).grace = true →
        let ps := (List.range 16).filter fun p => (panelOf s p).quiesced.contains h
        let t := updPort h (fun x => { x with grace := false, held := [] }) (zeroPortBlocks h (ps.foldl (graceReset h) s))
        exec (.hostGraceExpiry h) s = .next (pumpColls (pumpAll
          (postMgmt (match ps with | [p] => p | _ => 0xFF) 0x3306 (rilozBlock h) h (maskOf ps) t)))) ∧
      ((portOf s h).grace = false → exec (.hostGraceExpiry h) s = .next (pumpColls s))) ∧
    (∀ v : Word16, v ∈ (portOf s h).irqBusy →
      let t := updPort h (fun x => { x with irqBusy := x.irqBusy.erase v, irqPend := x.irqPend.erase v }) s
      (v ∈ (portOf s h).irqPend → exec (.irqHoldoffExpiry h v) s = .next (raiseVector h v t)) ∧
      (v ∉ (portOf s h).irqPend → exec (.irqHoldoffExpiry h v) s = .next t)) ∧
    ∀ r : Nat, s.startup.running = true → s.startup.dstate = 0 → taking (ringOf s h r) = true →
      let x := ringOf s h r
      (phaseValid x x.head (recordAt s x x.head) = false → exec (.doorbellGraceExpiry h r) s = .next (pumpColls (holdInvalid h r s))) ∧
      (phaseValid x x.head (recordAt s x x.head) = true → exec (.doorbellGraceExpiry h r) s = .next (pumpColls s))

/-! ### Power and heat (R333–R345) -/

/-- The power cap: a write outside 600–1,500 W is rejected, any other takes effect at the next 10 µs period, and the cap moves the
target of the ceiling and never the operating point (R339). -/
def Obligations.CapWrites : Prop :=
  ∀ (s : State),
    (∀ (r : OdReq) (v : Nat), v < 2 ^ 16 → MayPut s r 0x2000 2 (toLe 2 v) →
      (v < 600 ∨ 1500 < v → exec (.write r 0x2000 2 (toLe 2 v)) s =
        .next (pumpColls (answer r (putMsg 0x2000 2 (toLe 2 v)) 0x20 0x06 0 [] (wakeD1 (heard r s))))) ∧
      (600 ≤ v → v ≤ 1500 → exec (.write r 0x2000 2 (toLe 2 v)) s =
        .next (answered r 0x2000 2 (toLe 2 v) (odPut 0x2000 2 v (wakeD1 (heard r s)))))) ∧
    (Alive s → ∀ mw : Nat, ∃ t, exec (.capUpdate mw) s = .next t ∧
      t.power = { s.power with capTarget := capCeiling mw (odGet s 0x2000 2) s.power.ceiling })

/-- The operating point follows its requests, and OP0 is forced while PWRBRK_N, heat or the input voltage ask for it; the ceiling
moves by one step towards the lower of its targets; skipping is counted by group (R334–R343). The input voltage and the
temperatures: below 40 V and at 105 °C OP0 is forced, with an event once; below 36 V for long and at 115 °C the module stops;
above 61 V it loses its power; hot junctions lower the thermal target by one step a sample (R342, R343). -/
def Obligations.PowerControl : Prop :=
  (∀ (s : State), Alive s →
    exec .opRequestTick s = .next (updPower (requestStep (odGet s 0x2000 6 / 10) (requestedOp s)) s) ∧
    (∀ t : Nat, s.power.target = some t →
      (t ≠ s.power.op → exec .opChange s =
        .next (odCount 0x2002 2 1 (updPower (fun x => { x with op := t, target := none, ceiling := min x.ceiling 4 }) s))) ∧
      (t = s.power.op → exec .opChange s = .next (updPower (fun x => { x with target := none }) s))) ∧
    (s.power.target = none → exec .opChange s = .next s) ∧
    (∀ mw : Nat, let t := capCeiling mw (odGet s 0x2000 2) s.power.ceiling
      exec (.capUpdate mw) s = .next (odCount 0x2002 5 (if t < 16 then 10 else 0) (updPower (fun x => { x with capTarget := t }) s))) ∧
    (s.power.ceiling = 16 → ceilingTarget s.power = 16 → exec .ceilingStep s = .next s) ∧
    (∃ t, exec .ceilingStep s = .next t ∧ t.power.op = s.power.op ∧
      (s.power.ceiling < ceilingTarget s.power → t.power.ceiling = s.power.ceiling + 1) ∧
      (ceilingTarget s.power < s.power.ceiling → t.power.ceiling = s.power.ceiling - 1) ∧
      (s.power.ceiling = ceilingTarget s.power → t.power.ceiling = s.power.ceiling)) ∧
    (s.pins.pwrbrkN = true → exec .pwrbrkAssert s = .next (odCount 0x2002 3 1
      (updPower (fun x => forceOp0 { x with pwrbrk := true }) { s with pins := { s.pins with pwrbrkN := false } }))) ∧
    (s.pins.pwrbrkN = false → exec .pwrbrkAssert s = .next s ∧ exec .pwrbrkDeassert s =
      .next (updPower (fun x => releaseOp0 { x with pwrbrk := false }) { s with pins := { s.pins with pwrbrkN := true } })) ∧
    (∀ g : Nat, g < 16 → exec (.droopDetect g) s = .next (updGroup g (fun x => { x with droop := true }) s)) ∧
    (∀ (g skipped : Nat), (groupOf s g).droop = true →
      let v := odGet s 0x2003 0
      let w := v / 2 ^ (64 * g) % 2 ^ 64
      exec (.droopRecover g skipped) s = .next (odPut 0x2003 0
        (v - w * 2 ^ (64 * g) + (w + skipped) % 2 ^ 64 * 2 ^ (64 * g)) (updGroup g (fun x => { x with droop := false }) s)))) ∧
  (∀ (mv : Nat) (s : State), Alive s →
    let u := updPower (fun x => forceOp0 { x with underV := true, inputMv := mv }) s
    (mv < 40000 → s.power.underV = false → exec (.inputUndervoltage mv) s = .next (postMgmt 0xFF 0x2004 powerBlock mv 0 u)) ∧
    (mv < 40000 → s.power.underV = true → exec (.inputUndervoltage mv) s = .next u) ∧
    (40000 ≤ mv → exec (.inputUndervoltage mv) s = .next s) ∧
    (s.power.underV = true →
      (41000 ≤ mv → exec (.inputVoltageRecover mv) s =
        .next (updPower (fun x => releaseOp0 { x with underV := false, inputMv := mv }) s)) ∧
      (mv < 41000 → exec (.inputVoltageRecover mv) s = .next (updPower (fun x => { x with inputMv := mv }) s)) ∧
      (s.power.inputMv < 36000 → exec .inputBrownoutExpiry s = .next (fatal 2 0xFF s)) ∧
      (36000 ≤ s.power.inputMv → exec .inputBrownoutExpiry s = .next s)) ∧
    (61000 < mv → exec (.inputOvervoltage mv) s = .next (powerOff s)) ∧
    (mv ≤ 61000 → exec (.inputOvervoltage mv) s = .next s) ∧
    ∀ ts : List (BitVec 8), ts.length = 36 → s.startup.phase ≠ .step 0 →
      let v := updPower (fun x => throttle ts (keepTemps ts x)) (odCount 0x2002 4 (if s.power.thermTarget < 16 then 100 else 0) s)
      (hotSensor 115 ts = none → s.power.thermLimit = false → hotSensor 105 ts = none → exec (.thermalSample ts) s = .next v) ∧
      (∀ i, hotSensor 115 ts = none → s.power.thermLimit = false → hotSensor 105 ts = some i →
        exec (.thermalSample ts) s = .next (postMgmt 0xFF 0x2002 powerBlock i (sensorTemp ts i)
          (updPower (fun x => forceOp0 { x with thermLimit := true }) v))) ∧
      (∀ i, hotSensor 115 ts = some i → exec (.thermalSample ts) s = .next (thermalTrip ts (thermalLimit ts v))))

/-! ### Power, resets and what a start keeps (R349–R361, R406) -/

/-- PWR_EN starts a module and its removal leaves the module store; MOD_RST_N holds the module in reset and lets it start again;
an idle module goes to D1 (R349, R354, R357, R359). What a power removal, a module reset and their starts keep and lose: nothing
of memory, cores, kernels, rings, queue pairs and knots is left, entries of class K are, and a start without cold junctions waits
(R354, R406, Table 16.4). -/
def Obligations.PowerAndReset : Prop :=
  (∀ (s : State),
    (∀ cal : Bool, s.startup.phase = .off →
      let t := { powerOff s with pins := { (powerOff s).pins with pwrEn := true } }
      (s.pins.modRstN = true → exec (.powerOn cal) s = .next (toImageWait t)) ∧
      (s.pins.modRstN = false → exec (.powerOn cal) s = .next (setPhase .held t))) ∧
    (∀ cal : Bool, s.startup.phase ≠ .off → exec (.powerOn cal) s = .next s) ∧
    exec .powerRemoval s = .next (powerOff { s with pins := { s.pins with pwrEn := false } }) ∧
    (s.pins.modRstN = false → exec .moduleResetAssert s = .next s) ∧
    (s.pins.modRstN = true → s.startup.phase ≠ .off →
      let t := { s with pins := { s.pins with modRstN := false } }
      exec .moduleResetAssert s = .next (setPhase .held (beginReset false (if s.pins.thermTripN then 1 else 4)
        { t with pins := { t.pins with thermTripN := true } }))) ∧
    (s.pins.modRstN = true → exec .moduleResetRelease s = .next s) ∧
    (s.pins.modRstN = false →
      let t := { s with pins := { s.pins with modRstN := true } }
      (s.startup.phase = .held → exec .moduleResetRelease s = .next (startFromReset t)) ∧
      (s.startup.phase ≠ .held → exec .moduleResetRelease s = .next t)) ∧
    (Alive s →
      (s.startup.running = true → s.startup.dstate = 0 → odGet s 0x1800 0xA ≠ 0 → moduleIdle s = true →
        exec .d1IdleExpiry s = .next (setD 1 s)) ∧
      (odGet s 0x1800 0xA = 0 ∨ moduleIdle s = false → exec .d1IdleExpiry s = .next s))) ∧
  (∀ (s : State) (i : Instr), i = .powerRemoval ∨ (i = .moduleResetAssert ∧ s.pins.modRstN = true ∧ s.startup.phase ≠ .off) →
    ∃ t, exec i s = .next t ∧ t.mem = [] ∧ t.cores = [] ∧ t.kernels = [] ∧ t.knots = [] ∧ t.waiters = [] ∧ t.qps = [] ∧
      t.rings = [] ∧ t.slots = [] ∧ t.tables = [] ∧ t.colls = [] ∧ t.seam = {} ∧ t.pins.ready = false ∧
      t.startup.running = false ∧ t.pending = s.pending ∧
      (∀ k v, (k, v) ∈ s.od → classOf k = some .k → (k, v) ∈ t.od) ∧
      ((s.panels.map (·.1)).Nodup → ∀ p, (panelOf t p).epochs = (panelOf s p).epochs))

/-! ### Failure hiding (R366–R375) -/

/-- Spare cores, hubs and Crown rows: a failed core's place is taken by the spare of its group, three missed heartbeats are a
failure, a dead hub's tile goes to the next that runs, the patrol counts and reports, and a module-fatal condition drops READY
(R366–R375). -/
def Obligations.FailureHiding : Prop :=
  ∀ (s : State), Alive s →
    (∀ c : Nat, (coreOf s c).lost = false → (coreOf s c).failed = true →
      ((groupOf s (c / 8)).spareUsable = true → exec (.coreRemap c []) s = .next (pumpColls (pumpAll (remapCore c s)))) ∧
      (∀ bad : List Nat, (groupOf s (c / 8)).spareUsable = true → bad ≠ [] →
        exec (.coreRemap c bad) s = .next (pumpColls (poisonWords c bad (pumpAll (remapCore c s))))) ∧
      ((groupOf s (c / 8)).spareUsable = false → exec (.coreRemap c []) s = .next (pumpColls (remapLate c s)))) ∧
    (∀ (c : Nat) (ok : Bool), dispatching s c = true →
      let t := updCore c (fun x => { x with missed := x.missed + 1 }) s
      (ok = true → exec (.coreHeartbeatProbe c ok) s = .next (pumpColls (updCore c (fun x => { x with missed := 0 }) s))) ∧
      (ok = false → (coreOf t c).missed < 3 → exec (.coreHeartbeatProbe c ok) s = .next (pumpColls t)) ∧
      (ok = false → 3 ≤ (coreOf t c).missed → exec (.coreHeartbeatProbe c ok) s = .next (pumpColls (coreFail c t)))) ∧
    (∀ t : Nat, t < 4 → t ∉ s.hubs.dead → s.startup.running = true →
      let u := { s with hubs := { s.hubs with dead := s.hubs.dead ++ [t] } }
      (∀ h, nextHub u.hubs.dead t = some h → exec (.hubAdoption t) s = .next (odCount 0x1901 7 1
        { u with hubs := { u.hubs with serving := u.hubs.serving.map fun x => if x = t then h else x } })) ∧
      (nextHub u.hubs.dead t = none → exec (.hubAdoption t) s = .next (fatal 4 t u))) ∧
    (∀ (k corrected queued : Nat) (bad : List Word48), s.startup.running = true → odGet s 0x1900 2 ≠ 1 →
      (∀ a ∈ bad, a.toNat / stackSize = k) → exec (.patrolScrub k corrected bad queued) s = .next (pumpColls
        (bad.foldl (fun s a => doReadFailure a.toNat false s) (odCount 0x1901 2 corrected s)))) ∧
    (∀ k : Nat, (s.startup.dstate = 1 → sget 0 s.hubs.rows k ≠ 0 → sget 0 s.hubs.repaired k < Config.spareRows k →
        exec (.rowRepair k) s = .next { s with hubs := { s.hubs with
          rows := smod 0 s.hubs.rows k (· - 1), repaired := smod 0 s.hubs.repaired k (· + 1) } }) ∧
      (s.startup.dstate ≠ 1 → exec (.rowRepair k) s = .next s)) ∧
    (∀ (cause tile : Byte), ∃ t, exec (.moduleFatal cause tile) s = .next t ∧ t.pins.ready = false ∧ t.pins.alertN = false ∧
      t.startup.fatal = true ∧ odGet t 0x1905 0 = cause.toNat ∧ t.mem = s.mem ∧ t.cores = s.cores) ∧
    (∀ (p : Nat) (ms : Word32), s.startup.running = true → s.startup.dstate ≤ 1 → (panelOf s p).st = .releasing →
      ∃ t, exec (.panelScrubComplete p ms) s = .next (pumpColls t) ∧ (panelOf t p).st = .free ∧ (panelOf t p).regions = [] ∧
        (panelOf t p).keys = []) ∧
    (∀ (n : Nat) (rest : List Nat) (ok : Bool), s.attest.waiting = n :: rest →
      let t := { s with attest := { s.attest with waiting := rest } }
      (leafLimit ≤ s.attest.leaf → exec (.quoteReady ok) s = .next (postMgmt 0xFF 0x3008 0xC000 s.attest.leaf 0 t)) ∧
      (ok = false → s.attest.leaf < leafLimit → exec (.quoteReady ok) s = .next t) ∧
      (ok = true → s.attest.leaf < leafLimit →
        let b := quoteBody t (sget [] s.attest.nonces n)
        exec (.quoteReady ok) s = .next { s with attest := { t.attest with
          leaf := s.attest.leaf + 1,
          quotes := sset [] s.attest.quotes n (b ++ (List.range 3124).map (Config.hssSignByte s.attest.leaf b)) } }))

/-- Without power, held in reset, or after a module-fatal condition no command has an effect but those of power, of the reset
lines and of PWRBRK_N (R349, R375). -/
def Obligations.NothingWithoutPower : Prop :=
  ∀ (i : Instr) (s : State), powered s = false ∨ s.startup.fatal = true →
    match i with
    | .pwrbrkAssert | .pwrbrkDeassert | .inputOvervoltage _ | .powerOn _ | .powerRemoval | .moduleResetAssert | .moduleResetRelease
    | .moduleReset _ => True
    | _ => exec i s = .next s

/-- The module before power: nothing is in memory, in a queue or in a register but what the spec or the log gives; the canonical
form holds; power and the release of MOD_RST_N lead to the wait for an image. -/
def Obligations.ResetState : Prop :=
  State.reset.Inv ∧ State.reset.pending = [] ∧ powered State.reset = false ∧ State.reset.pins.ready = false ∧
    State.reset.startup.running = false ∧
    (∀ a n, readBytes State.reset a n = List.replicate n 0) ∧
    (∀ c, coreOf State.reset c = {}) ∧ (∀ p, panelOf State.reset p = {}) ∧ (∀ q, qpOf State.reset q = {}) ∧
    (∀ i, (knotOf State.reset i).value = 0) ∧ (∀ h, (portOf State.reset h).st = .down) ∧ (∀ l, (linkOf State.reset l).st = .down) ∧
    ∀ (cal : Bool), ∃ t u, exec (.powerOn cal) State.reset = .next t ∧ t.startup.phase = .held ∧
      exec .moduleResetRelease t = .next u ∧ u.startup.phase = .step 2 ∧ u.startup.running = false ∧ u.pins.ready = false ∧
      ∀ h < 4, (portOf u h).st = .up

/-! ### The object dictionary (R379–R400) -/

/-- Writes that are commands of their own: what the entry does with the value, and the answer with the status it gives (R161, R176,
R201, R217, R233, R234, R241, R282, R318, R325, R326, R352, R354, R356, R362, R369, R383). -/
def Obligations.DictionaryCommands : Prop :=
  ∀ (r : OdReq) (p : Nat) (s : State), p < 16 →
    (∀ (n : Word16) (v : Word64) (tag : Word32) (x : Byte),
      ∀ e ∈ ([
        (.faultResume r p n, 0x2706, p + 1, toLe 2 n.toNat, fun s => (0, resumeFault p n.toNat s)),
        (.faultAbort r p n, 0x2707, p + 1, toLe 2 n.toNat, fun s => (0, abortFault p n.toNat 0x2701 s)),
        (.poolConfigWrite r p true v, 0x2703, p + 1, toLe 4 v.toNat,
          fun s => (0, odPut 0x2704 (p + 1) 0 (odPut 0x2703 (p + 1) (v.toNat % 2 ^ 32) s))),
        (.waitAbort r p tag, 0x2802, p + 1, toLe 4 tag.toNat, writeWaitAbort p tag),
        (.schedAbort r p tag, 0x3402, p + 1, toLe 4 tag.toNat, fun s => (0, doSchedAbort p tag s)),
        (.schedDecide r p tag, 0x3409, p + 1, toLe 4 tag.toNat, fun s => (0, doSchedDecide p tag s)),
        (.ctxRestored r p n, 0x3205, p + 1, toLe 2 n.toNat, writeCtxRestored p n.toNat),
        (.remapGo r p x, 0x1906, p + 1, [x], writeRemapGo p x.toNat),
        (.panelReset r p, 0x1801, p + 1, [1], writePanelReset p 1),
        (.panelOpen r p, panelIdx p 0, 7, [1], writeOpen p),
        (.panelRelease r p, panelIdx p 0, 7, [2], writeRelease p),
        (.seamJoin r p, panelIdx p 2, 1, [1], writeJoin p 1),
        (.seamLeave r p, panelIdx p 2, 1, [0], writeJoin p 0),
        (.warmReset r, 0x1800, 8, [2], fun s => (0, warmReset s)),
        (.powerStateD0 r, 0x1800, 9, [0], writePowerState 0),
        (.powerStateD1 r, 0x1800, 9, [1], writePowerState 1),
        (.powerStateD2 r, 0x1800, 9, [2], writePowerState 2),
        (.powerStateD3 r, 0x1800, 9, [3], writePowerState 3)]
        : List (Instr × Nat × Nat × Bytes × (State → Nat × State))),
      MayPut s r e.2.1 e.2.2.1 e.2.2.2.1 →
        let u := wakeD1 (heard r s)
        exec e.1 s = .next (pumpColls (answer r (putMsg e.2.1 e.2.2.1 e.2.2.2.1) 0x20 (e.2.2.2.2 u).1 0 [] (e.2.2.2.2 u).2))) ∧
    (∀ v : Word64, v.toNat % 8 = 0 → MayPut s r 0x2702 (p + 1) (toLe 8 v.toNat) →
      exec (.poolConfigWrite r p false v) s = .next (answered r 0x2702 (p + 1) (toLe 8 v.toNat)
        (odPut 0x2704 (p + 1) 0 (odPut 0x2702 (p + 1) v.toNat (wakeD1 (heard r s)))))) ∧
    (∀ x : Byte,
      ∀ e ∈ ([
        (.directWaysWrite r p x, 0x2602, p + 1, 16, writeDirectWays p x.toNat),
        (.rootRebuild r x, 0x2600, 7, 3, writeRebuild x.toNat),
        (.rootModeWrite r false x, 0x2600, 1, 1, writeRootMode false x.toNat),
        (.rootModeWrite r true x, 0x2600, 2, 3, writeRootMode true x.toNat),
        (.boot r x, 0x1800, 4, 4, writeBoot x.toNat)]
        : List (Instr × Nat × Nat × Nat × (State → Nat × State))),
      MayPut s r e.2.1 e.2.2.1 [x] →
        let u := wakeD1 (heard r s)
        (x.toNat ≤ e.2.2.2.1 →
          exec e.1 s = .next (pumpColls (answer r (putMsg e.2.1 e.2.2.1 [x]) 0x20 (e.2.2.2.2 u).1 0 [] (e.2.2.2.2 u).2))) ∧
        (e.2.2.2.1 < x.toNat → exec e.1 s = .next (pumpColls (answer r (putMsg e.2.1 e.2.2.1 [x]) 0x20 0x06 0 [] u)))) ∧
    (∀ v : Word16, v.toNat ≤ 255 → MayPut s r 0x1100 2 (toLe 2 v.toNat) →
      let u := wakeD1 (heard r s)
      (anyKernel u = true → exec (.fabricIdWrite r v) s =
        .next (pumpColls (answer r (putMsg 0x1100 2 (toLe 2 v.toNat)) 0x20 0x08 0 [] u))) ∧
      (anyKernel u = false → exec (.fabricIdWrite r v) s =
        .next (answered r 0x1100 2 (toLe 2 v.toNat) (digestChanged (odPut 0x1100 2 v.toNat u))))) ∧
    (∀ q : Nat, MayPut s r 0x3001 1 [1] → commonPanel (wakeD1 (heard r s)) = some q →
      let u := wakeD1 (heard r s)
      exec (.seamArm r) s =
        .next (pumpColls (answer r (putMsg 0x3001 1 [1]) 0x20 (writeArm q 1 u).1 0 [] (writeArm q 1 u).2))) ∧
    (∀ q : Nat, MayPut s r 0x3001 1 [0] → commonPanel (wakeD1 (heard r s)) = some q →
      exec (.seamDisarm r) s = .next (answered r 0x3001 1 [0] (disarmSeam (wakeD1 (heard r s))))) ∧
    (MayPut s r 0x1800 8 [1] → exec (.moduleReset r) s =
      .next (answer r (putMsg 0x1800 8 [1]) 0x20 0 0 [] (moduleReset (wakeD1 (heard r s)))))

/-- Who may release a panel: the management port any, a mailbox only the panel for which it asks, by that panel's own block (R396). -/
def Obligations.ReleaseAccess : Prop :=
  ∀ (s : State) (q : Nat), q < 16 → s.startup.running = true →
    (∀ panel : Nat, requestCode s 0 panel (panelIdx q 0) 7 true 2 = 0) ∧
    ∀ (path p : Nat), path ≠ 0 → p < 16 → (∃ w < 4, ownerOfSlot s (path - 1) w = some p) →
      (requestCode s path p (panelIdx q 0) 7 true 2 = 0 ↔ p = q)

/-- What a panel's open, the low-power states and a boot come to: the checks that turn them away, and the state that they lead to
(R217, R352, R356). -/
def Obligations.PanelsAndStates : Prop :=
  ∀ (r : OdReq) (s : State), let u := wakeD1 (heard r s)
    (∀ p : Nat, p < 16 → MayPut s r (panelIdx p 0) 7 [1] →
      ((panelOf u p).st ≠ .free → exec (.panelOpen r p) s =
        .next (pumpColls (answer r (putMsg (panelIdx p 0) 7 [1]) 0x20 0x08 0 [] u))) ∧
      ((panelOf u p).st = .free → ∀ cause, openCause u p = some cause → exec (.panelOpen r p) s =
        .next (answered r (panelIdx p 0) 7 [1] (postMgmt p 0x3002 (panelHub u p) p cause u))) ∧
      ((panelOf u p).st = .free → openCause u p = none → ∃ t, exec (.panelOpen r p) s = .next (answered r (panelIdx p 0) 7 [1] t) ∧
        (panelOf t p).st = .open ∧ (panelOf t p).regions = hubEntries u p ∧ (panelOf t p).keys = [] ∧
        (panelOf t p).epochs = (panelOf u p).epochs)) ∧
    (MayPut s r 0x1800 9 [1] → u.startup.running = true → u.startup.dstate = 0 →
      (busyForD u = false → exec (.powerStateD1 r) s = .next (answered r 0x1800 9 [1] (setD 1 u))) ∧
      (busyForD u = true → exec (.powerStateD1 r) s = .next (pumpColls (answer r (putMsg 0x1800 9 [1]) 0x20 0x08 0 []
        (postMgmt 0xFF 0x1803 (hubBlock 0) 1 (maskOf (kernelPanels u)) u))))) ∧
    (MayPut s r 0x1800 9 [2] → u.startup.running = true → u.startup.dstate = 0 → busyForD u = false →
      exec (.powerStateD2 r) s = .next (answered r 0x1800 9 [2] (enterD2 u))) ∧
    (MayPut s r 0x1800 9 [3] → u.startup.running = true → u.startup.dstate = 0 → busyForD u = false →
      exec (.powerStateD3 r) s = .next (answered r 0x1800 9 [3] (enterD3 u))) ∧
    (MayPut s r 0x1800 9 [0] →
      (u.startup.dstate = 0 → exec (.powerStateD0 r) s = .next (answered r 0x1800 9 [0] u)) ∧
      (u.startup.dstate = 2 → u.startup.running = true → exec (.powerStateD0 r) s = .next (answered r 0x1800 9 [0] (leaveD2 u))) ∧
      (u.startup.dstate = 3 → exec (.powerStateD0 r) s = .next (answered r 0x1800 9 [0] (toImageWait (beginReset true 3 u))))) ∧
    ∀ x : Byte, x.toNat ≤ 4 → MayPut s r 0x1800 4 [x] →
      let b := readBytes u (fwArea (sourceStack x.toNat)) u.startup.imgLen
      (u.startup.imgLen = 0 ∨ x.toNat ∉ u.startup.staged →
        exec (.boot r x) s = .next (answered r 0x1800 4 [x] (refuseImage x.toNat 7 u))) ∧
      (u.startup.imgLen ≠ 0 → x.toNat ∈ u.startup.staged →
        (∀ cause, imageCause b (odGet u 0x1800 6) = some cause →
          exec (.boot r x) s = .next (answered r 0x1800 4 [x] (refuseImage x.toNat cause u))) ∧
        (imageCause b (odGet u 0x1800 6) = none →
          exec (.boot r x) s = .next (answered r 0x1800 4 [x] (runImage b (odPut 0x1800 2 0 u)))))

/-- Segmented writes made whole: knot grants, keys and nonces; and the report that a line is restored (R161, R196, R238,
R240). A transfer open on the path ends first. -/
def Obligations.DictionaryAreas : Prop :=
  ∀ (r : OdReq) (p : Nat) (s : State), p < 16 →
    (∀ data : Bytes,
      ∀ e ∈ ([
        (.knotGrantsWrite r p data, 0x2805, p + 1, 512, writeGrants p data),
        (.keyEstablish r p data, panelIdx p 1, 2, 1600, writeKeyEstablish p data),
        (.keyInstall r p data, panelIdx p 1, 4, 48, writeKeyInstall p data),
        (.attestNonce r data, 0x3010, r.path + 1, 33, writeNonce r.path data)]
        : List (Instr × Nat × Nat × Nat × (State → Nat × State))),
      let s1 := endSeg r.path 0x0C s
      let m := wholeMsg e.2.1 e.2.2.1 data
      let u := wakeD1 (heard r s1)
      TakesRequest s1 r m → requestCode u r.path r.panel e.2.1 e.2.2.1 true (leNat data) = 0 →
        (data.length = e.2.2.2.1 ∨ keyEntry e.2.1 e.2.2.1 = true →
          exec e.1 s = .next (pumpColls (answer r m 0x20 (e.2.2.2.2 u).1 0 [] (e.2.2.2.2 u).2))) ∧
        (data.length ≠ e.2.2.2.1 → keyEntry e.2.1 e.2.2.1 = false →
          exec e.1 s = .next (pumpColls (answer r m 0x20 0x07 0 [] u)))) ∧
    (∀ (data : Bytes) (s : State), let slot := fieldNat data 0 1
      let purpose := fieldNat data 1 1
      secure s p = true → (panelOf s p).st = .open → slot < 16 → (sget {} (panelOf s p).keys slot).purpose = 0 →
      purpose ≠ 0 → purpose ≤ 3 →
      (data.length ≠ 1600 → allZero ((data.drop 2).take 30) = true → writeKeyEstablish p data s =
        (0x07, postPanel p 0x3007 (secBlock s p) (slot + 2 ^ 8 * purpose) 3 s)) ∧
      (data.length ≠ 48 → allZero ((data.drop 3).take 5) = true → writeKeyInstall p data s =
        (0x07, postPanel p 0x3007 (secBlock s p) (slot + 2 ^ 8 * purpose) 3 s))) ∧
    (∀ (k : Byte) (good : Bool), MayPut s r 0x2605 (p + 1) [k] →
      let u := wakeD1 (heard r s)
      (k.toNat < 248 → exec (.restoreDone r p k good) s =
        .next (pumpColls (answer r (putMsg 0x2605 (p + 1) [k]) 0x20 0x06 0 [] u))) ∧
      ∀ x : Restore, 248 ≤ k.toNat → u.restores.find? (fun x => x.panel == p && x.knot == some (k.toNat - 248) && x.host) = some x →
        (good = true → exec (.restoreDone r p k good) s = .next (answered r 0x2605 (p + 1) [k]
          (pumpCores p (finishRestore x.line p 1 { u with lostLines := u.lostLines.filter (· != x.line) })))) ∧
        (good = false → exec (.restoreDone r p k good) s = .next (answered r 0x2605 (p + 1) [k]
          (postPanel p 0x2604 (unitBlock u x.line) x.line (restoreKnotAddr u p (k.toNat - 248)) u))))

/-- Requests and their answers: a refused read or write changes nothing but counts and its answer; a read answers the entry's value;
segmented transfers hand their data over in order, one open on a path; addresses and events of the management port (R379–R393). -/
def Obligations.DictionaryRequests : Prop :=
  ∀ (r : OdReq) (s : State),
    (∀ (index : Word16) (sub : Byte), let m := readMsg index sub
      let u := heard r s
      let b := readEntry u r.path index.toNat sub.toNat
      TakesRequest s r m →
      (requestCode u r.path r.panel index.toNat sub.toNat false 0 ≠ 0 → exec (.read r index sub) s =
        .next (answer r m 0x20 (requestCode u r.path r.panel index.toNat sub.toNat false 0) 0 [] u)) ∧
      (requestCode u r.path r.panel index.toNat sub.toNat false 0 = 0 →
        (b.1.length ≤ 8 → exec (.read r index sub) s = .next (answer r m 0x20 0 0 b.1 b.2)) ∧
        (8 < b.1.length → exec (.read r index sub) s = .next (answer r m 0x20 0x07 0 [] u)) ∧
        ((corFields s index.toNat sub.toNat).1.length = 1 → b.1.length ≤ 8 →
          exec (.corRead r index sub) s = .next (answer r m 0x20 0 0 b.1 b.2)))) ∧
    (∀ (index : Word16) (sub : Byte) (data : Bytes), let m := putMsg index.toNat sub.toNat data
      let u := wakeD1 (heard r s)
      let code := requestCode u r.path r.panel index.toNat sub.toNat true (leNat data)
      let e := applyWrite r.path index.toNat sub.toNat data u
      TakesRequest s r m →
      (code ≠ 0 → exec (.write r index sub data) s = .next (pumpColls (answer r m 0x20 code 0 [] u))) ∧
      (code = 0 → exec (.write r index sub data) s = .next (pumpColls (answer r m 0x20 e.1 0 [] e.2)))) ∧
    (∀ (index : Word16) (sub : Byte), let m := segMsg 0x12 index sub 0
      let u := endSeg r.path 0x0C (heard r s)
      let b := readEntry u r.path index.toNat sub.toNat
      let g : Seg := { write := false, index := index, sub := sub, txn := r.txn, total := b.1.length, next := 0, data := b.1,
                       panel := r.panel }
      TakesRequest s r m → requestCode u r.path r.panel index.toNat sub.toNat false 0 = 0 → exec (.segReadInitiate r index sub) s =
        .next (answer r m 0x20 0 b.1.length [] (updPath r.path (fun x => { x with seg := some g }) b.2))) ∧
    (∀ (index : Word16) (sub : Byte) (total : Word32) (row : OdRow), let m := segMsg 0x13 index sub total
      let u := wakeD1 (endSeg r.path 0x0C (heard r s))
      let g : Seg := { write := true, index := index, sub := sub, txn := r.txn, total := total.toNat, next := 0, data := [],
                       panel := r.panel }
      TakesRequest s r m → requestCode u r.path r.panel index.toNat sub.toNat true 0 = 0 → odRow index.toNat sub.toNat = some row →
      (total.toNat = entryLen u row index.toNat sub.toNat → exec (.segWriteInitiate r index sub total) s =
        .next (answer r m 0x20 0 total.toNat [] (updPath r.path (fun x => { x with seg := some g }) u))) ∧
      (total.toNat ≠ entryLen u row index.toNat sub.toNat → exec (.segWriteInitiate r index sub total) s =
        .next (answer r m 0x20 0x07 0 [] (wrongTotal index.toNat sub.toNat u)))) ∧
    (∀ (k : Word32) (data : Bytes) (g : Seg), let m := partMsg s r true 0x14 k data
      let u := heard r s
      let d := g.data ++ data
      let v := updPath r.path (fun x => { x with seg := none }) u
      let w := wakeD1 v
      TakesRequest s r m → openSeg (pathOf u r.path) true r.txn = some g →
      (k.toNat ≠ g.next → exec (.segment r k data) s = .next (pumpColls (answer r m 0x20 0x0A 0 [] v))) ∧
      (k.toNat = g.next → d.length < g.total → exec (.segment r k data) s = .next (pumpColls (answer r m 0x20 0 0 []
        (updPath r.path (fun x => { x with seg := some { g with next := g.next + 1, data := d } }) u)))) ∧
      (k.toNat = g.next → d.length = g.total → requestCode w r.path g.panel g.index.toNat g.sub.toNat true (leNat d) = 0 →
        let e := applyWrite r.path g.index.toNat g.sub.toNat d w
        exec (.segment r k data) s = .next (pumpColls (answer r m 0x20 e.1 0 [] e.2)))) ∧
    (∀ (k : Word32) (g : Seg), let m := partMsg s r false 0x15 k []
      TakesRequest s r m → openSeg (pathOf (heard r s) r.path) false r.txn = some g →
      (1024 * k.toNat < g.total → exec (.segReq r k) s =
        .next (answer r m 0x14 0 k.toNat ((g.data.drop (1024 * k.toNat)).take 1024) (heard r s))) ∧
      (g.total ≤ 1024 * k.toNat → exec (.segReq r k) s = .next (answer r m 0x20 0x0A 0 [] (heard r s)))) ∧
    (Alive s → pathOpen s r.path = true →
      exec (.abort r) s = .next (updPath r.path (fun x => { x with seg := none }) (heard r s))) ∧
    (Alive s → ∀ path : Nat, exec (.segTimeout path) s = .next (endSeg path 0x0B s)) ∧
    (let m : OdMsg := { op := 0x03, index := 0, sub := 0, param := 0, data := [] }
     TakesRequest s r m → r.path = 0 →
      (anyKernel (heard r s) = false → exec (.leave r) s = .next (leaveFabric (answer r m 0x20 0 0 [] (heard r s)))) ∧
      (anyKernel (heard r s) = true → exec (.leave r) s = .next (answer r m 0x20 0x08 0 [] (heard r s)))) ∧
    (Alive s → ∀ (mac : BitVec 48) (node : Byte) (txn : Word16), s.startup.phase = .step 5 → odGet s 0x1100 1 = 0 →
      s.pins.enumIn = true → node ≠ 0 → node.toNat ≤ 8 →
      let t := odCount 0x1101 1 1 (odPut 0x1100 1 node.toNat { s with mgmt := { s.mgmt with coordMac := mac } })
      let u := mgmtSend 0x02 (odHeader 0x02 0 node txn 0 0 0 22 0 ++ (List.range 16).map Config.serial ++
        toLe 6 (Config.baseMac + 24).toNat) t
      exec (.assign mac ⟨node, txn⟩) s =
        .next (alertLevel (flushMgmt 257 { u with pins := { u.pins with enumOut := u.mgmt.beacon } }))) ∧
    (Alive s → pathOpen s 0 = true →
      (∀ seq : Word32, exec (.eventAck seq) s = .next (alertLevel (flushMgmt 257 (odCount 0x1101 1 1 { s with mgmt :=
        { s.mgmt with sent := s.mgmt.sent.filter fun e => decide (2 ^ 31 ≤ (seq - e.1).toNat) } })))) ∧
      (∀ q e rest, s.mgmt.sent = (q, e) :: rest → exec .eventRetry s = .next (sendEventFrame q e s)) ∧
      (s.mgmt.sent = [] → exec .eventRetry s = .next s)) ∧
    (Alive s → exec .plcaBeaconLoss s = .next { s with mgmt := { s.mgmt with beacon := false } } ∧
      let v := sendHeld { s with mgmt := { s.mgmt with beacon := true } }
      exec .plcaBeaconReturn s = .next (alertLevel (flushMgmt 257
        { v with pins := { v.pins with enumOut := odGet v 0x1100 1 != 0 } })))
end

