-- ==== Sys2Proof/Laws/Sparse.lean ====
section
/-! SUPPORT. Laws of sparse maps: what a read gives after an update, and that every update keeps the canonical form. -/
namespace Sys2Proof.Machine

variable {α : Type}

@[simp] theorem sget_nil (d : α) (k : Nat) : sget d [] k = d := rfl

theorem sget_filter_ne (d : α) (m : Sparse α) (k j : Nat) (h : j ≠ k) :
    sget d (m.filter fun p => p.1 != k) j = sget d m j := by
  induction m with
  | nil => rfl
  | cons p t ih =>
    obtain ⟨k', v'⟩ := p
    by_cases e : k' = k <;> simp_all [sget]

theorem sget_filter_self (d : α) (m : Sparse α) (k : Nat) : sget d (m.filter fun p => p.1 != k) k = d := by
  induction m with
  | nil => rfl
  | cons p t ih =>
    obtain ⟨k', v'⟩ := p
    by_cases e : k' = k
    · simpa [e] using ih
    · have : ¬ k = k' := fun h => e h.symm
      simp [e, this, sget, ih]

theorem sget_sput_self (d : α) (m : Sparse α) (k : Nat) (v : α) : sget d (sput m k v) k = v := by
  induction m with
  | nil => simp [sput, sget]
  | cons p t ih =>
    obtain ⟨k', v'⟩ := p
    simp only [sput]
    split
    · simp [sget]
    · split
      · simp [sget]
      · simp_all [sget]

theorem sget_sput_ne (d : α) (m : Sparse α) (k j : Nat) (v : α) (h : j ≠ k) : sget d (sput m k v) j = sget d m j := by
  induction m with
  | nil => simp [sput, sget, h]
  | cons p t ih =>
    obtain ⟨k', v'⟩ := p
    simp only [sput]
    split
    · simp [sget, h]
    · split
      · simp_all [sget]
      · simp [sget, ih]

variable [DecidableEq α]

/-- A read after an update gives the new value. -/
@[simp] theorem sget_sset_self (d : α) (m : Sparse α) (k : Nat) (v : α) : sget d (sset d m k v) k = v := by
  unfold sset
  split
  · next h => rw [sget_filter_self, h]
  · exact sget_sput_self d m k v

/-- An update leaves every other key alone. -/
@[simp] theorem sget_sset_ne (d : α) (m : Sparse α) (k j : Nat) (v : α) (h : j ≠ k) :
    sget d (sset d m k v) j = sget d m j := by
  unfold sset
  split
  · exact sget_filter_ne d m k j h
  · exact sget_sput_ne d m k j v h

theorem sget_sset (d : α) (m : Sparse α) (k j : Nat) (v : α) :
    sget d (sset d m k v) j = if j = k then v else sget d m j := by
  split
  · next h => rw [h, sget_sset_self]
  · next h => exact sget_sset_ne d m k j v h

omit [DecidableEq α] in
/-- Clearing a range. -/
theorem sget_sclear (d : α) (m : Sparse α) (lo n j : Nat) :
    sget d (sclear lo n m) j = if lo ≤ j ∧ j < lo + n then d else sget d m j := by
  induction m with
  | nil => simp [sclear]
  | cons p t ih =>
    obtain ⟨k, v⟩ := p
    unfold sclear at ih ⊢
    by_cases e : lo ≤ k ∧ k < lo + n
    · simp only [List.filter_cons, e, decide_true, Bool.and_self, Bool.not_true, Bool.false_eq_true, if_false, ih]
      split
      · rfl
      · next h =>
        have : j ≠ k := by rintro rfl; exact h e
        simp [sget, this]
    · have e' : (!(decide (lo ≤ k) && decide (k < lo + n))) = true := by simp; omega
      simp only [List.filter_cons, e', if_true, sget, ih]
      by_cases h : j = k
      · simp [h, e]
      · simp [h]

/-! ### The canonical form -/

theorem swf_nil (d : α) : swf d ([] : Sparse α) = true := rfl

omit [DecidableEq α] in
/-- Rising keys, as a relation of every two entries. -/
theorem srising_iff (lo : Option Nat) (m : Sparse α) :
    srising lo m = true ↔ (∀ p ∈ m, ∀ l, lo = some l → l < p.1) ∧ m.Pairwise (fun a b => a.1 < b.1) := by
  induction m generalizing lo with
  | nil => cases lo <;> simp [srising]
  | cons p t ih =>
    obtain ⟨k, v⟩ := p
    cases lo with
    | none => simp [srising, ih]
    | some l =>
      simp only [srising, Bool.and_eq_true, decide_eq_true_eq, ih, List.pairwise_cons, List.mem_cons,
        Option.some.injEq, forall_eq', forall_eq_or_imp]
      constructor
      · rintro ⟨h, h1, h2⟩
        exact ⟨⟨h, fun a ha => Nat.lt_trans h (h1 a ha)⟩, h1, h2⟩
      · rintro ⟨⟨h, -⟩, h1, h2⟩
        exact ⟨h, h1, h2⟩

/-- The canonical form: keys rise, and no value is the default. -/
theorem swf_iff (d : α) (m : Sparse α) :
    swf d m = true ↔ m.Pairwise (fun a b => a.1 < b.1) ∧ ∀ p ∈ m, p.2 ≠ d := by
  simp [swf, srising_iff]

theorem swf_filter (d : α) (m : Sparse α) (f : Nat × α → Bool) (h : swf d m = true) : swf d (m.filter f) = true := by
  rw [swf_iff] at h ⊢
  exact ⟨h.1.filter _, fun p hp => h.2 p (List.mem_filter.1 hp).1⟩

omit [DecidableEq α] in
theorem mem_sput (m : Sparse α) (k : Nat) (v : α) (p : Nat × α) (hp : p ∈ sput m k v) : p = (k, v) ∨ p ∈ m := by
  induction m with
  | nil => simpa [sput] using hp
  | cons q t ih =>
    obtain ⟨k', v'⟩ := q
    simp only [sput] at hp
    split at hp
    · simpa using hp
    · split at hp
      · rcases List.mem_cons.1 hp with h | h
        · exact .inl h
        · exact .inr (List.mem_cons_of_mem _ h)
      · rcases List.mem_cons.1 hp with h | h
        · exact .inr (h ▸ List.mem_cons_self)
        · rcases ih h with h | h
          · exact .inl h
          · exact .inr (List.mem_cons_of_mem _ h)

theorem swf_sput (d : α) (m : Sparse α) (k : Nat) (v : α) (hv : v ≠ d) (h : swf d m = true) : swf d (sput m k v) = true := by
  rw [swf_iff] at h ⊢
  refine ⟨?_, fun p hp => ?_⟩
  · obtain ⟨h, -⟩ := h
    induction m with
    | nil => simp [sput]
    | cons q t ih =>
      obtain ⟨k', v'⟩ := q
      obtain ⟨h1, h2⟩ := List.pairwise_cons.1 h
      simp only [sput]
      split
      · next hk =>
        refine List.pairwise_cons.2 ⟨fun p hp => ?_, h⟩
        rcases List.mem_cons.1 hp with e | e
        · exact e ▸ hk
        · exact Nat.lt_trans hk (h1 p e)
      · split
        · next hk => exact List.pairwise_cons.2 ⟨fun p hp => hk ▸ h1 p hp, h2⟩
        · refine List.pairwise_cons.2 ⟨fun p hp => ?_, ih h2⟩
          rcases mem_sput t k v p hp with e | e
          · subst e; show k' < k; omega
          · exact h1 p e
  · rcases mem_sput m k v p hp with e | e
    · subst e; exact hv
    · exact h.2 p e

/-- An update keeps the canonical form. -/
theorem swf_sset (d : α) (m : Sparse α) (k : Nat) (v : α) (h : swf d m = true) : swf d (sset d m k v) = true := by
  unfold sset
  split
  · exact swf_filter d m _ h
  · next hv => exact swf_sput d m k v hv h

theorem swf_smod (d : α) (m : Sparse α) (k : Nat) (f : α → α) (h : swf d m = true) : swf d (smod d m k f) = true :=
  swf_sset d m k _ h

theorem swf_sclear (d : α) (m : Sparse α) (lo n : Nat) (h : swf d m = true) : swf d (sclear lo n m) = true :=
  swf_filter d m _ h

end Sys2Proof.Machine
end

