-- ==== Sys2Proof/Laws/Memory.lean ====
section
/-! SUPPORT. Laws of device memory: every operation keeps the canonical form, a read gives what was written, and a write leaves
every other byte alone. -/
namespace Sys2Proof.Machine

theorem memWrite_wf (m : Mem) (a : Nat) (b : Bytes) (h : Memory.wf m = true) : Memory.wf (memWrite m a b) = true := by
  induction b generalizing m a with
  | nil => exact h
  | cons x t ih => exact ih _ _ (swf_sset 0 m a x h)

theorem memZero_wf (m : Mem) (a n : Nat) (h : Memory.wf m = true) : Memory.wf (memZero m a n) = true :=
  swf_sclear 0 m a n h

/-- A byte below a write. -/
theorem memByte_memWrite_lt (m : Mem) (a j : Nat) (b : Bytes) (h : j < a) : memByte (memWrite m a b) j = memByte m j := by
  induction b generalizing m a with
  | nil => rfl
  | cons x t ih => rw [memWrite, ih _ _ (by omega)]; exact sget_sset_ne 0 m a j x (by omega)

/-- A byte above a write. -/
theorem memByte_memWrite_ge (m : Mem) (a j : Nat) (b : Bytes) (h : a + b.length ≤ j) :
    memByte (memWrite m a b) j = memByte m j := by
  induction b generalizing m a with
  | nil => rfl
  | cons x t ih =>
    simp only [List.length_cons] at h
    rw [memWrite, ih _ _ (by omega)]
    exact sget_sset_ne 0 m a j x (by omega)

/-- A write leaves every byte outside it alone. -/
theorem memByte_memWrite_out (m : Mem) (a j : Nat) (b : Bytes) (h : j < a ∨ a + b.length ≤ j) :
    memByte (memWrite m a b) j = memByte m j :=
  h.elim (memByte_memWrite_lt m a j b) (memByte_memWrite_ge m a j b)

/-- A byte inside a write. -/
theorem memByte_memWrite_in (m : Mem) (a i : Nat) (b : Bytes) (h : i < b.length) :
    memByte (memWrite m a b) (a + i) = b[i] := by
  induction b generalizing m a i with
  | nil => simp at h
  | cons x t ih =>
    cases i with
    | zero =>
      rw [memWrite, memByte_memWrite_lt _ _ _ _ (by omega)]
      exact sget_sset_self 0 m a x
    | succ k =>
      have e : a + (k + 1) = a + 1 + k := by omega
      rw [memWrite, e, ih _ _ _ (by simpa using h)]
      rfl

/-- A read after a write of the same range gives the bytes written. -/
theorem memRead_memWrite (m : Mem) (a : Nat) (b : Bytes) : memRead (memWrite m a b) a b.length = b := by
  induction b generalizing m a with
  | nil => rfl
  | cons x t ih =>
    simp only [List.length_cons, memRead, memWrite, ih]
    rw [memByte_memWrite_lt _ _ _ _ (by omega)]
    exact congrArg (· :: t) (sget_sset_self 0 m a x)

/-- A read depends only on the bytes it reads. -/
theorem memRead_congr (m m' : Mem) (a n : Nat) (h : ∀ j, a ≤ j → j < a + n → memByte m j = memByte m' j) :
    memRead m a n = memRead m' a n := by
  induction n generalizing a with
  | zero => rfl
  | succ k ih =>
    rw [memRead, memRead, h a (by omega) (by omega), ih (a + 1) fun j h1 h2 => h j (by omega) (by omega)]

/-- A read that shares no byte with a write. -/
theorem memRead_memWrite_out (m : Mem) (a c n : Nat) (b : Bytes) (h : c + n ≤ a ∨ a + b.length ≤ c) :
    memRead (memWrite m a b) c n = memRead m c n :=
  memRead_congr _ _ _ _ fun j h1 h2 => memByte_memWrite_out m a j b (by omega)

theorem memByte_memZero (m : Mem) (a n j : Nat) :
    memByte (memZero m a n) j = if a ≤ j ∧ j < a + n then 0 else memByte m j :=
  sget_sclear 0 m a n j

@[simp] theorem memRead_length (m : Mem) (a n : Nat) : (memRead m a n).length = n := by
  induction n generalizing a with
  | zero => rfl
  | succ k ih => simp [memRead, ih]

/-! ### Byte strings -/

@[simp] theorem toLe_length (n v : Nat) : (toLe n v).length = n := by
  induction n generalizing v with
  | zero => rfl
  | succ k ih => simp [toLe, ih]

/-- A little-endian number read back (R5). -/
theorem leNat_toLe (n v : Nat) : leNat (toLe n v) = v % 256 ^ n := by
  induction n generalizing v with
  | zero => simp [toLe, leNat, Nat.mod_one]
  | succ k ih =>
    simp only [toLe, leNat, ih, BitVec.toNat_ofNat]
    rw [show (2 : Nat) ^ 8 = 256 from rfl, show 256 ^ (k + 1) = 256 * 256 ^ k by rw [Nat.pow_succ, Nat.mul_comm], Nat.mod_mul]

/-! ### State operations -/

@[simp] theorem heal_mem (a n : Nat) (s : State) : (heal a n s).mem = s.mem := rfl

/-- With no Root line of an earlier key, an access meets every line as it stands in memory. -/
theorem rekeyLines_none (a n : Nat) (s : State) (h : s.rootOld = []) : rekeyLines a n s = s := by
  simp [rekeyLines, h]

theorem readBytes_none (a n : Nat) (s : State) (h : s.rootOld = []) : readBytes s a n = memRead s.mem a n := by
  simp [readBytes, h]

theorem raiseCounters_crown (a n : Nat) (s : State) (h : inRoot a = false) : raiseCounters a n s = s := by
  simp [raiseCounters, h]

/-- What a store outside Root does, with no Root line of an earlier key: exactly the bytes named change, and bad data that it
covers whole is good again. -/
theorem storeBytes_crown (a : Nat) (b : Bytes) (s : State) (hr : s.rootOld = []) (hc : inRoot a = false)
    (hk : portKeepsNone s a = false) :
    storeBytes a b s = { s with
      mem := memWrite s.mem a b
      lostLines := s.lostLines.filter fun u => !(a ≤ u && u + unitLen u ≤ a + b.length)
      badWords := s.badWords.filter fun u => !(a ≤ u && u + 8 ≤ a + b.length) } := by
  unfold storeBytes
  rw [rekeyLines_none a _ s hr]
  simp [raiseCounters_crown _ _ _ hc, heal, hk]

theorem storeBytes_mem (a : Nat) (b : Bytes) (s : State) (hr : s.rootOld = []) (hc : inRoot a = false)
    (hk : portKeepsNone s a = false) : (storeBytes a b s).mem = memWrite s.mem a b := by
  rw [storeBytes_crown a b s hr hc hk]

@[simp] theorem scrub_mem (a n : Nat) (s : State) : (scrub a n s).mem = memZero s.mem a n := rfl

theorem readBytes_storeBytes (a : Nat) (b : Bytes) (s : State) (hr : s.rootOld = []) (hc : inRoot a = false)
    (hk : portKeepsNone s a = false) : readBytes (storeBytes a b s) a b.length = b := by
  rw [storeBytes_crown a b s hr hc hk, readBytes, if_pos (by simp [hr])]
  exact memRead_memWrite s.mem a b

/-! ### The object dictionary as a store -/

/-- An entry reads as what was last put there. -/
@[simp] theorem odGet_odPut_self (i k v : Nat) (s : State) : odGet (odPut i k v s) i k = v := by
  unfold odGet odPut
  rw [sget_sset_self]
  split
  · next h => split at h <;> simp_all
  · next h => split at h <;> simp_all

/-- Putting one entry leaves the others alone. -/
theorem odGet_odPut_ne (i k v i' k' : Nat) (s : State) (h : odKey i' k' ≠ odKey i k) :
    odGet (odPut i k v s) i' k' = odGet s i' k' := by
  unfold odGet odPut
  rw [sget_sset_ne _ _ _ _ _ h]

@[simp] theorem panelOf_setPanel_self (p : Nat) (x : Panel) (s : State) : panelOf (setPanel p x s) p = x :=
  sget_sset_self ({} : Panel) s.panels p x

theorem panelOf_setPanel_ne (p q : Nat) (x : Panel) (s : State) (h : q ≠ p) : panelOf (setPanel p x s) q = panelOf s q :=
  sget_sset_ne ({} : Panel) s.panels p q x h

end Sys2Proof.Machine
end

