-- ==== Sys2Proof/Laws/State.lean ====
section
/-! SUPPORT. What each named update of the state gives and what it leaves alone. -/
namespace Sys2Proof.Machine

/-! ### Cores -/

@[simp] theorem coreOf_setCore_self (c : Nat) (x : Core) (s : State) : coreOf (setCore c x s) c = x :=
  sget_sset_self ({} : Core) s.cores c x

theorem coreOf_setCore_ne (c d : Nat) (x : Core) (s : State) (h : d ≠ c) : coreOf (setCore c x s) d = coreOf s d :=
  sget_sset_ne ({} : Core) s.cores c d x h

@[simp] theorem coreOf_updCore_self (c : Nat) (f : Core → Core) (s : State) : coreOf (updCore c f s) c = f (coreOf s c) :=
  coreOf_setCore_self c _ s

theorem coreOf_updCore_ne (c d : Nat) (f : Core → Core) (s : State) (h : d ≠ c) : coreOf (updCore c f s) d = coreOf s d :=
  coreOf_setCore_ne c d _ s h

@[simp] theorem setCore_mem (c : Nat) (x : Core) (s : State) : (setCore c x s).mem = s.mem := rfl
@[simp] theorem setCore_kernels (c : Nat) (x : Core) (s : State) : (setCore c x s).kernels = s.kernels := rfl
@[simp] theorem setCore_badWords (c : Nat) (x : Core) (s : State) : (setCore c x s).badWords = s.badWords := rfl
@[simp] theorem setCore_od (c : Nat) (x : Core) (s : State) : (setCore c x s).od = s.od := rfl
@[simp] theorem setCore_panels (c : Nat) (x : Core) (s : State) : (setCore c x s).panels = s.panels := rfl
@[simp] theorem setCore_pending (c : Nat) (x : Core) (s : State) : (setCore c x s).pending = s.pending := rfl

@[simp] theorem updCore_mem (c : Nat) (f : Core → Core) (s : State) : (updCore c f s).mem = s.mem := rfl
@[simp] theorem updCore_kernels (c : Nat) (f : Core → Core) (s : State) : (updCore c f s).kernels = s.kernels := rfl
@[simp] theorem updCore_badWords (c : Nat) (f : Core → Core) (s : State) : (updCore c f s).badWords = s.badWords := rfl
@[simp] theorem updCore_od (c : Nat) (f : Core → Core) (s : State) : (updCore c f s).od = s.od := rfl
@[simp] theorem updCore_panels (c : Nat) (f : Core → Core) (s : State) : (updCore c f s).panels = s.panels := rfl
@[simp] theorem updCore_pending (c : Nat) (f : Core → Core) (s : State) : (updCore c f s).pending = s.pending := rfl
@[simp] theorem updCore_groups (c : Nat) (f : Core → Core) (s : State) : (updCore c f s).groups = s.groups := rfl
@[simp] theorem updCore_startup (c : Nat) (f : Core → Core) (s : State) : (updCore c f s).startup = s.startup := rfl

/-! ### Queues of a core -/

@[simp] theorem queueAt_updQueue_self (c q : Nat) (f : Queue → Queue) (s : State) :
    queueAt (coreOf (updQueue c q f s) c) q = f (queueAt (coreOf s c) q) := by
  unfold updQueue queueAt smod
  rw [coreOf_updCore_self]
  exact sget_sset_self _ _ _ _

theorem queueAt_updQueue_ne (c q q' : Nat) (f : Queue → Queue) (s : State) (h : q' ≠ q) :
    queueAt (coreOf (updQueue c q f s) c) q' = queueAt (coreOf s c) q' := by
  unfold updQueue queueAt smod
  rw [coreOf_updCore_self]
  exact sget_sset_ne _ _ _ _ _ h

@[simp] theorem coreOf_updQueue_ne (c d q : Nat) (f : Queue → Queue) (s : State) (h : d ≠ c) :
    coreOf (updQueue c q f s) d = coreOf s d :=
  coreOf_updCore_ne c d _ s h

@[simp] theorem updQueue_mem (c q : Nat) (f : Queue → Queue) (s : State) : (updQueue c q f s).mem = s.mem := rfl
@[simp] theorem updQueue_kernels (c q : Nat) (f : Queue → Queue) (s : State) : (updQueue c q f s).kernels = s.kernels := rfl
@[simp] theorem updQueue_badWords (c q : Nat) (f : Queue → Queue) (s : State) :
    (updQueue c q f s).badWords = s.badWords := rfl

/-! ### Kernels, groups, ports and rings -/

@[simp] theorem kernelOnCore_updQueue (c q : Nat) (f : Queue → Queue) (s : State) (d : Nat) :
    kernelOnCore (updQueue c q f s) d = kernelOnCore s d := by
  have h : (coreOf (updQueue c q f s) d).kid = (coreOf s d).kid := by
    by_cases e : d = c
    · subst e; unfold updQueue; rw [coreOf_updCore_self]
    · rw [coreOf_updQueue_ne c d q f s e]
  simp only [kernelOnCore, h]
  rfl

@[simp] theorem groupOf_updGroup_self (g : Nat) (f : Group → Group) (s : State) :
    groupOf (updGroup g f s) g = f (groupOf s g) :=
  sget_sset_self ({} : Group) s.groups g _

theorem groupOf_updGroup_ne (g k : Nat) (f : Group → Group) (s : State) (h : k ≠ g) :
    groupOf (updGroup g f s) k = groupOf s k :=
  sget_sset_ne ({} : Group) s.groups g k _ h

@[simp] theorem portOf_updPort_self (h : Nat) (f : Port → Port) (s : State) : portOf (updPort h f s) h = f (portOf s h) :=
  sget_sset_self ({} : Port) s.ports h _

theorem portOf_updPort_ne (h k : Nat) (f : Port → Port) (s : State) (e : k ≠ h) : portOf (updPort h f s) k = portOf s k :=
  sget_sset_ne ({} : Port) s.ports h k _ e

@[simp] theorem ringOf_updRing_self (h r : Nat) (f : Ring → Ring) (s : State) :
    ringOf (updRing h r f s) h r = f (ringOf s h r) :=
  sget_sset_self ({} : Ring) s.rings (64 * h + r) _

@[simp] theorem slotOf_updSlot_self (h w : Nat) (f : SlotBlk → SlotBlk) (s : State) :
    slotOf (updSlot h w f s) h w = f (slotOf s h w) :=
  sget_sset_self ({} : SlotBlk) s.slots (4 * h + w) _

@[simp] theorem panelOf_updPanel_self (p : Nat) (f : Panel → Panel) (s : State) :
    panelOf (updPanel p f s) p = f (panelOf s p) :=
  panelOf_setPanel_self p _ s

theorem panelOf_updPanel_ne (p q : Nat) (f : Panel → Panel) (s : State) (h : q ≠ p) :
    panelOf (updPanel p f s) q = panelOf s q :=
  panelOf_setPanel_ne p q _ s h

@[simp] theorem pathOf_updPath_self (n : Nat) (f : OdPath → OdPath) (s : State) :
    pathOf (updPath n f s) n = f (pathOf s n) :=
  sget_sset_self ({} : OdPath) s.paths n _

@[simp] theorem linkOf_updLink_self (l : Nat) (f : Link → Link) (s : State) : linkOf (updLink l f s) l = f (linkOf s l) :=
  sget_sset_self ({} : Link) s.links l _

@[simp] theorem qpOf_updQp_self (q : Nat) (f : Qp → Qp) (s : State) : qpOf (updQp q f s) q = f (qpOf s q) :=
  sget_sset_self ({} : Qp) s.qps q _

/-! ### Counters -/

@[simp] theorem odPut_mem (i k v : Nat) (s : State) : (odPut i k v s).mem = s.mem := rfl
@[simp] theorem odPut_cores (i k v : Nat) (s : State) : (odPut i k v s).cores = s.cores := rfl
@[simp] theorem odPut_panels (i k v : Nat) (s : State) : (odPut i k v s).panels = s.panels := rfl

/-- A counter goes up by n, to the modulus of its type. -/
theorem odGet_odCount_self (i k n : Nat) (s : State) (h : n ≠ 0) :
    odGet (odCount i k n s) i k = (odGet s i k + n) % odModulus i k := by
  simp [odCount, h]

theorem odGet_odCount_ne (i k n i' k' : Nat) (s : State) (h : odKey i' k' ≠ odKey i k) :
    odGet (odCount i k n s) i' k' = odGet s i' k' := by
  unfold odCount
  split
  · rfl
  · exact odGet_odPut_ne i k _ i' k' s h

end Sys2Proof.Machine
end

