-- ==== Sys2Proof/Laws/Quiet.lean ====
section
/-! SUPPORT. Operations that leave the queues of every core as they are. The relation, and how it passes through the forms that
operations are built from. -/
namespace Sys2Proof.Machine

/-- The queues of every core are the same. -/
def Quiet (s t : State) : Prop := ∀ c, (coreOf t c).queues = (coreOf s c).queues

/-- The same of the state in a pair. -/
def QuietPair {α : Type} (s : State) (r : α × State) : Prop := Quiet s r.2

/-- The same of a state that may be absent. -/
def QuietOpt (s : State) (r : Option State) : Prop := ∀ t, r = some t → Quiet s t

/-- The same of a pair that may be absent. -/
def QuietOptPair {α : Type} (s : State) (r : Option (α × State)) : Prop := ∀ a t, r = some (a, t) → Quiet s t

/-- The same of an operation that starts. -/
def QuietStart (s : State) (r : Start) : Prop := ∀ b t, r = .started b t → Quiet s t

variable {α β : Type} {s0 s t : State}

theorem Quiet.refl (s : State) : Quiet s s := fun _ => rfl

theorem Quiet.trans {u : State} (h : Quiet s t) (k : Quiet t u) : Quiet s u := fun c => (k c).trans (h c)

/-- A change of other fields. -/
theorem Quiet.of (h : Quiet s0 s) (e : t.cores = s.cores) : Quiet s0 t := by
  intro c; unfold coreOf; rw [e]; exact h c

theorem Quiet.ite {c : Prop} [Decidable c] (h : Quiet s0 s) (k : Quiet s0 t) : Quiet s0 (if c then s else t) := by
  split <;> assumption

theorem QuietPair.ite {c : Prop} [Decidable c] {x y : α × State} (h : QuietPair s0 x) (k : QuietPair s0 y) :
    QuietPair s0 (if c then x else y) := by
  split <;> assumption

theorem QuietOpt.ite {c : Prop} [Decidable c] {x y : Option State} (h : QuietOpt s0 x) (k : QuietOpt s0 y) :
    QuietOpt s0 (if c then x else y) := by
  split <;> assumption

theorem QuietOptPair.ite {c : Prop} [Decidable c] {x y : Option (α × State)} (h : QuietOptPair s0 x)
    (k : QuietOptPair s0 y) : QuietOptPair s0 (if c then x else y) := by
  split <;> assumption

theorem QuietStart.ite {c : Prop} [Decidable c] {x y : Start} (h : QuietStart s0 x) (k : QuietStart s0 y) :
    QuietStart s0 (if c then x else y) := by
  split <;> assumption

theorem QuietPair.mk {a : α} (h : Quiet s0 s) : QuietPair s0 (a, s) := h

theorem QuietPair.snd {x : α × State} (h : QuietPair s0 x) : Quiet s0 x.2 := h

theorem QuietPair.elim {x : α × State} {a : α} (e : x = (a, t)) (h : QuietPair s0 x) : Quiet s0 t := by
  subst e; exact h

theorem QuietOpt.none : QuietOpt s0 none := fun _ h => nomatch h

theorem QuietOpt.some (h : Quiet s0 s) : QuietOpt s0 (some s) := fun _ e => Option.some.inj e ▸ h

theorem QuietOpt.elim {x : Option State} (e : x = Option.some t) (h : QuietOpt s0 x) : Quiet s0 t := h t e

theorem QuietOptPair.none : QuietOptPair (α := α) s0 none := fun _ _ h => nomatch h

theorem QuietOptPair.some {a : α} (h : Quiet s0 s) : QuietOptPair s0 (some (a, s)) :=
  fun _ _ e => (Prod.mk.inj (Option.some.inj e)).2 ▸ h

theorem QuietOptPair.elim {x : Option (α × State)} {a : α} (e : x = Option.some (a, t)) (h : QuietOptPair s0 x) :
    Quiet s0 t := h a t e

theorem QuietStart.started {b : Bool} (h : Quiet s0 s) : QuietStart s0 (.started b s) := fun _ _ e => by cases e; exact h

theorem QuietStart.hold : QuietStart s0 .hold := fun _ _ e => nomatch e

theorem QuietStart.partly {n : Nat} {l : List (List Word32)} : QuietStart s0 (.partly n l s) := fun _ _ e => nomatch e

theorem QuietStart.stop : QuietStart s0 (.stop s) := fun _ _ e => nomatch e

theorem QuietStart.elim {b : Bool} {r : Start} (e : r = .started b t) (h : QuietStart s0 r) : Quiet s0 t := h b t e

theorem Quiet.foldl {f : State → β → State} {l : List β} (hf : ∀ t x, Quiet s0 t → Quiet s0 (f t x)) (h : Quiet s0 s) :
    Quiet s0 (l.foldl f s) := by
  induction l generalizing s with
  | nil => exact h
  | cons x l ih => exact ih (hf s x h)

theorem QuietPair.foldl {f : α × State → β → α × State} {l : List β} {x : α × State}
    (hf : ∀ t x, QuietPair s0 t → QuietPair s0 (f t x)) (h : QuietPair s0 x) : QuietPair s0 (l.foldl f x) := by
  induction l generalizing x with
  | nil => exact h
  | cons y l ih => exact ih (hf x y h)

theorem QuietOpt.map {f : β → State} {o : Option β} (hf : ∀ x, Quiet s0 (f x)) : QuietOpt s0 (o.map f) := by
  intro t e
  cases o with
  | none => simp at e
  | some x => exact Option.some.inj e ▸ hf x

/-- An update of a core that leaves its queues. -/
theorem updCore_quiet {c : Nat} {f : Core → Core} (hf : ∀ x, (f x).queues = x.queues) (h : Quiet s0 s) :
    Quiet s0 (updCore c f s) := by
  intro d
  by_cases e : d = c
  · subst e; rw [coreOf_updCore_self, hf]; exact h d
  · rw [coreOf_updCore_ne c d f s e]; exact h d

end Sys2Proof.Machine
end

