-- ==== Sys2Proof/Laws/QuietOps.lean ====
section
/-! SUPPORT. Operations that leave the queues of every core as they are (Laws/Quiet.lean), up to the starts of the
operations of the engines and of the mover. -/
namespace Sys2Proof.Machine

theorem raiseCounters_quiet {s0 a n s} (hs : Quiet s0 s) : Quiet s0 (raiseCounters a n s) := by
  unfold raiseCounters
  refine Quiet.ite hs ?_
  split
  · exact hs
  · refine Quiet.foldl ?_ hs
    intro x6 x7 x8
    extract_lets -merge t9
    clear_value t9
    exact Quiet.of x8 rfl

theorem heal_quiet {s0 a n s} (hs : Quiet s0 s) : Quiet s0 (heal a n s) := by
  unfold heal
  exact Quiet.of hs rfl

theorem keepLine_quiet {s0 u s} (hs : Quiet s0 s) : Quiet s0 (keepLine u s) := by
  unfold keepLine
  exact Quiet.ite (Quiet.of hs rfl) hs

theorem setPanel_quiet {s0 p x s} (hs : Quiet s0 s) : Quiet s0 (setPanel p x s) := by
  unfold setPanel
  exact Quiet.of hs rfl

theorem odPut_quiet {s0 index sub v s} (hs : Quiet s0 s) : Quiet s0 (odPut index sub v s) := by
  unfold odPut
  exact Quiet.of hs rfl

theorem rekeyLines_quiet {s0 a n s} (hs : Quiet s0 s) : Quiet s0 (rekeyLines a n s) := by
  unfold rekeyLines
  extract_lets -merge t1
  have h2 : Quiet s0 t1 := keepLine_quiet (keepLine_quiet hs)
  clear_value t1
  exact Quiet.ite hs (Quiet.of h2 rfl)

theorem updPanel_quiet {s0 p} {f : Panel → Panel} {s} (hs : Quiet s0 s) : Quiet s0 (updPanel p f s) := by
  unfold updPanel
  exact setPanel_quiet hs

theorem odCount_quiet {s0 index sub n s} (hs : Quiet s0 s) : Quiet s0 (odCount index sub n s) := by
  unfold odCount
  exact Quiet.ite hs (odPut_quiet hs)

theorem storeBytes_quiet {s0 a b s} (hs : Quiet s0 s) : Quiet s0 (storeBytes a b s) := by
  unfold storeBytes
  extract_lets -merge t1
  have h2 : Quiet s0 t1 := rekeyLines_quiet hs
  clear_value t1
  exact Quiet.ite hs (heal_quiet (raiseCounters_quiet (Quiet.of h2 rfl)))

theorem taint_quiet {s0 p s} (hs : Quiet s0 s) : Quiet s0 (taint p s) := by
  unfold taint
  exact Quiet.of hs rfl

theorem updSlot_quiet {s0 h w} {f : SlotBlk → SlotBlk} {s} (hs : Quiet s0 s) : Quiet s0 (updSlot h w f s) := by
  unfold updSlot
  exact Quiet.of hs rfl

theorem updPort_quiet {s0 h} {f : Port → Port} {s} (hs : Quiet s0 s) : Quiet s0 (updPort h f s) := by
  unfold updPort
  exact Quiet.of hs rfl

theorem taintStale_quiet {s0 h w i e s} (hs : Quiet s0 s) : Quiet s0 (taintStale h w i e s) := by
  unfold taintStale
  split
  · exact Quiet.ite hs (taint_quiet hs)
  · exact hs

theorem portCount_quiet {s0 h o n s} (hs : Quiet s0 s) : Quiet s0 (portCount h o n s) := by
  unfold portCount
  exact Quiet.ite hs (updPort_quiet hs)

theorem onceEffect_quiet {s0 c} {f : State → State} {s} (hf : ∀ z0, Quiet s0 z0 → Quiet s0 (f z0)) (hs : Quiet s0 s) :
    Quiet s0 (onceEffect c f s) := by
  unfold onceEffect
  exact Quiet.ite (hf _ (updCore_quiet (fun _ => rfl) hs)) (odCount_quiet (updCore_quiet (fun _ => rfl) hs))

theorem translate_quiet {s0 h w x s} (hs : Quiet s0 s) : QuietPair s0 (translate h w x s) := by
  unfold translate
  extract_lets -merge t1 t2 t3 t4 t5
  clear_value t1 t2
  have h8 : Quiet s0 t3 := portCount_quiet hs
  clear_value t3 t4 t5
  split
  · exact QuietPair.mk (taintStale_quiet hs)
  · refine QuietPair.ite (QuietPair.mk h8) ?_
    split
    · exact QuietPair.mk h8
    · exact QuietPair.ite (QuietPair.mk h8) (QuietPair.ite (QuietPair.mk h8) (QuietPair.mk (updPort_quiet h8)))

theorem portSend_quiet {s0 h x s} (hs : Quiet s0 s) : Quiet s0 (portSend h x s) := by
  unfold portSend
  extract_lets -merge t1
  clear_value t1
  split
  · exact portCount_quiet hs
  · exact portCount_quiet (portCount_quiet (updPort_quiet hs))
  · exact updPort_quiet hs

theorem outWrite_quiet {s0 h w a d s} (hs : Quiet s0 s) : QuietPair s0 (outWrite h w a d s) := by
  unfold outWrite
  refine QuietPair.ite (QuietPair.mk hs) ?_
  refine QuietPair.ite (QuietPair.mk hs) ?_
  split
  · rename_i y1 y2 y3 y4
    have h5 : Quiet s0 y3 := QuietPair.elim y4 (translate_quiet hs)
    exact QuietPair.mk (portSend_quiet h5)
  · rename_i y6 y7 y8 y9
    have h10 : Quiet s0 y8 := QuietPair.elim y9 (translate_quiet hs)
    exact QuietPair.mk h10

theorem raiseVector_quiet {s0 h v s} (hs : Quiet s0 s) : Quiet s0 (raiseVector h v s) := by
  unfold raiseVector
  extract_lets -merge t1
  have h2 : Quiet s0 t1 := portSend_quiet hs
  clear_value t1
  exact Quiet.ite (Quiet.ite hs (updPort_quiet hs)) (Quiet.ite h2 (updPort_quiet h2))

theorem writeProducer_quiet {s0 p h w s} (hs : Quiet s0 s) : Quiet s0 (writeProducer p h w s) := by
  unfold writeProducer
  extract_lets -merge t1 t2
  clear_value t1 t2
  split
  · rename_i y5 y6 y7
    have h8 : Quiet s0 y6 := QuietPair.elim y7 (outWrite_quiet hs)
    exact updPanel_quiet h8
  · rename_i y9 y10 y11
    have h12 : Quiet s0 y10 := QuietPair.elim y11 (outWrite_quiet hs)
    exact raiseVector_quiet (updSlot_quiet h12)

theorem flushEvents_quiet {s0 p a1 a2} (hs : Quiet s0 a2) : Quiet s0 (flushEvents p a1 a2) := by
  induction a1 generalizing a2 with
  | zero =>
    unfold flushEvents
    exact hs
  | succ n ih =>
    unfold flushEvents
    refine Quiet.ite hs ?_
    split
    · extract_lets -merge t9 t10
      clear_value t9 t10
      refine Quiet.ite ?_ hs
      split
      · rename_i y13 y14 y15
        have h16 : Quiet s0 y14 := QuietPair.elim y15 (outWrite_quiet hs)
        exact updPanel_quiet h16
      · rename_i y17 y18 y19
        have h20 : Quiet s0 y18 := QuietPair.elim y19 (outWrite_quiet hs)
        exact ih (writeProducer_quiet (updPanel_quiet h20))
    · exact Quiet.ite hs (writeProducer_quiet hs)
    · exact hs

theorem postPanelEvent_quiet {s0 p e s} (hs : Quiet s0 s) : Quiet s0 (postPanelEvent p e s) := by
  unfold postPanelEvent
  exact Quiet.ite (flushEvents_quiet (updPanel_quiet hs)) (updPanel_quiet hs)

theorem postPanel_quiet {s0 p code src a b s} (hs : Quiet s0 s) : Quiet s0 (postPanel p code src a b s) := by
  unfold postPanel
  exact postPanelEvent_quiet hs

theorem storeWrite_quiet {s0 c a b s} (hs : Quiet s0 s) : Quiet s0 (storeWrite c a b s) := by
  unfold storeWrite
  exact storeBytes_quiet hs

theorem vecWrite_quiet {s0 c fmt a l s} (hs : Quiet s0 s) : Quiet s0 (vecWrite c fmt a l s) := by
  unfold vecWrite
  exact storeWrite_quiet hs

theorem countConv_quiet {s0 p o s} (hs : Quiet s0 s) : Quiet s0 (countConv p o s) := by
  unfold countConv
  exact Quiet.ite hs (odCount_quiet (odCount_quiet (odCount_quiet (odCount_quiet hs))))

theorem noteRecord_quiet {s0 p a s} (hs : Quiet s0 s) : Quiet s0 (noteRecord p a s) := by
  unfold noteRecord
  exact Quiet.ite hs (updPanel_quiet hs)

theorem countCodes_quiet {s0 c p n s} (hs : Quiet s0 s) : Quiet s0 (countCodes c p n s) := by
  unfold countCodes
  exact Quiet.ite hs (Quiet.ite (odCount_quiet (updCore_quiet (fun _ => rfl) hs)) (updCore_quiet (fun _ => rfl) hs))

theorem noteSeen_quiet {s0 c idx a b s} (hs : Quiet s0 s) : Quiet s0 (noteSeen c idx a b s) := by
  unfold noteSeen
  exact updCore_quiet (fun _ => rfl) hs

theorem putScaleRec_quiet {s0 a t s} (hs : Quiet s0 s) : Quiet s0 (putScaleRec a t s) := by
  unfold putScaleRec
  exact storeBytes_quiet (storeBytes_quiet (storeBytes_quiet (storeBytes_quiet hs)))

theorem countReserved_quiet {s0 c p n s} (hs : Quiet s0 s) : Quiet s0 (countReserved c p n s) := by
  unfold countReserved
  extract_lets -merge t1
  have h2 : Quiet s0 t1 := countCodes_quiet hs
  clear_value t1
  refine Quiet.ite hs ?_
  split
  · exact h2
  · extract_lets -merge t8
    clear_value t8
    exact Quiet.ite h2 (onceEffect_quiet (fun x10 x11 => storeBytes_quiet x11) h2)

theorem storeRows_quiet {s0 c a pitch a3 a4} (hs : Quiet s0 a4) : Quiet s0 (storeRows c a pitch a3 a4) := by
  induction a3 generalizing a a4 with
  | nil =>
    unfold storeRows
    exact hs
  | cons b l ih =>
    unfold storeRows
    exact ih (storeWrite_quiet hs)

theorem contribute_quiet {s0 a o s} (hs : Quiet s0 s) : Quiet s0 (contribute a o s) := by
  unfold contribute
  extract_lets -merge t1
  clear_value t1
  exact putScaleRec_quiet hs

theorem closeOne_quiet {s0 p step s a} (hs : Quiet s0 s) : Quiet s0 (closeOne p step s a) := by
  unfold closeOne
  extract_lets -merge t1 t2 t3 t4
  clear_value t1 t2 t3
  have h8 : Quiet s0 t4 := updPanel_quiet hs
  clear_value t4
  exact putScaleRec_quiet h8

theorem convStore_quiet {s0 c x d o v dst len pitch sp s} (hs : Quiet s0 s) :
    Quiet s0 (convStore c x d o v dst len pitch sp s) := by
  unfold convStore
  extract_lets -merge t1 t2 t3
  have h4 : Quiet s0 t1 := storeRows_quiet hs
  clear_value t1
  have h5 : Quiet s0 t2 := Quiet.ite (storeRows_quiet h4) h4
  clear_value t2
  have h6 : Quiet s0 t3 := Quiet.ite (storeRows_quiet h5) h5
  clear_value t3
  exact Quiet.ite h6 (storeWrite_quiet h6)

theorem convRun_quiet {s0 c p x idx d v dst len pitch sp s} (hs : Quiet s0 s) :
    Quiet s0 (convRun c p x idx d v dst len pitch sp s) := by
  unfold convRun
  extract_lets -merge t1 t2 t3 t4 t5 t6
  clear_value t1 t2 t3
  have h10 : Quiet s0 t4 := Quiet.ite (taint_quiet hs) hs
  clear_value t4
  have h11 : Quiet s0 t5 := countConv_quiet (convStore_quiet h10)
  clear_value t5
  have h12 : Quiet s0 t6 := noteSeen_quiet h11
  clear_value t6
  exact Quiet.ite h11 (Quiet.ite (onceEffect_quiet (fun x13 x14 => contribute_quiet x14) (noteRecord_quiet h12)) h12)

theorem closeStep_quiet {s0 p y step src s} (hs : Quiet s0 s) : Quiet s0 (closeStep p y step src s) := by
  unfold closeStep
  extract_lets -merge t1 t2 t3 t4 t5 t6 t7 t8 t9 t10 t11 t12 t13 t14
  clear_value t1 t2 t3
  have h18 : Quiet s0 t4 := Quiet.foldl (fun x19 x20 x21 => closeOne_quiet x21) hs
  clear_value t4
  have h22 : Quiet s0 t5 := Quiet.of h18 rfl
  clear_value t5 t6 t7 t8 t9 t11 t12
  have h30 : Quiet s0 t13 := Quiet.ite (odCount_quiet h22) h22
  clear_value t13
  have h31 : Quiet s0 t14 := storeBytes_quiet h30
  clear_value t14
  exact Quiet.ite (postPanel_quiet h31) h31

theorem readOn_quiet {s0 stop M d got s} {effect : State → State}
    (heffect : ∀ z0, Quiet s0 z0 → Quiet s0 (effect z0))
    (hs : Quiet s0 s) :
    QuietStart s0 (readOn stop M d got s effect) := by
  unfold readOn
  exact QuietStart.ite (QuietStart.started (heffect _ hs)) (QuietStart.ite QuietStart.hold QuietStart.partly)

theorem nTake_quiet {s0 c x f K n src s} (hs : Quiet s0 s) : QuietOptPair s0 (nTake c x f K n src s) := by
  unfold nTake
  extract_lets -merge t1 t2 t3 t4 t5 t6
  clear_value t1 t2 t3 t4 t5 t6
  exact QuietOptPair.ite (QuietOptPair.ite QuietOptPair.none (QuietOptPair.some (updCore_quiet (fun _ => rfl) hs))) (QuietOptPair.some hs)

theorem updArr_quiet {s0 c n} {f : Arr → Arr} {s} (hs : Quiet s0 s) : Quiet s0 (updArr c n f s) := by
  unfold updArr
  exact updCore_quiet (fun _ => rfl) hs

theorem needleAdd_quiet {s0 c p arr base rows n} {fin : RowInfo → Bool} {sum : Nat → Nat → Word32 → Word32 × Nat} {s}
    (hs : Quiet s0 s) :
    Quiet s0 (needleAdd c p arr base rows n fin sum s) := by
  unfold needleAdd
  refine Quiet.foldl ?_ hs
  intro x1 x2 x3
  extract_lets -merge t4 t5 t6
  clear_value t4 t5
  have h9 : Quiet s0 t6 := updArr_quiet x3
  clear_value t6
  exact Quiet.ite h9 (odCount_quiet h9)

theorem runRow_quiet {s0 c p n u f src k m r g s} (hs : Quiet s0 s) : Quiet s0 (runRow c p n u f src k m r g s) := by
  unfold runRow
  extract_lets -merge t1 t2 t3 t4 t5 t6 t7 t8
  clear_value t1 t2 t3 t4 t5 t6 t7
  have h16 : Quiet s0 t8 := Quiet.ite hs (odCount_quiet hs)
  clear_value t8
  exact updArr_quiet h16

theorem suppressRow_quiet {s0 c t base s r} (hs : Quiet s0 s) : Quiet s0 (suppressRow c t base s r) := by
  unfold suppressRow
  exact updArr_quiet hs

theorem runRows_quiet {s0 c p us f src k m g a8 a9} (hs : Quiet s0 a9) : Quiet s0 (runRows c p us f src k m g a8 a9) := by
  induction a8 generalizing a9 with
  | nil =>
    unfold runRows
    exact hs
  | cons b l ih =>
    unfold runRows
    extract_lets -merge t1
    clear_value t1
    exact ih (runRow_quiet hs)

theorem startPass_quiet {s0 c p x f mis e s} (hs : Quiet s0 s) : QuietStart s0 (startPass c p x f mis e s) := by
  unfold startPass
  extract_lets -merge t1 t2 t3 t4 t5 t6 t7 t8 t9 t10 t11
  clear_value t1 t2 t3 t4 t6 t7
  have h19 : Quiet s0 t8 := Quiet.ite hs (Quiet.foldl (fun x20 x21 x22 => updArr_quiet x22) hs)
  clear_value t8 t9 t10 t11
  refine QuietStart.ite QuietStart.hold ?_
  split
  · exact QuietStart.stop
  · split
    · extract_lets -merge t37 t38 t39
      have h40 : Quiet s0 t37 := runRows_quiet h19
      clear_value t37
      have h41 : Quiet s0 t38 := Quiet.foldl (fun x42 x43 x44 => suppressRow_quiet x44) h40
      clear_value t38
      have h45 : Quiet s0 t39 := odCount_quiet (updArr_quiet h41)
      clear_value t39
      exact QuietStart.ite QuietStart.hold (QuietStart.ite (QuietStart.ite (QuietStart.started h40) QuietStart.partly) (QuietStart.ite (QuietStart.started h45) QuietStart.partly))

theorem needleRefuse_quiet {s0 c src held streamed s} (hs : Quiet s0 s) :
    QuietStart s0 (needleRefuse c src held streamed s) := by
  unfold needleRefuse
  exact QuietStart.stop

theorem startNHold_quiet {s0 c x f s} (hs : Quiet s0 s) : QuietStart s0 (startNHold c x f s) := by
  unfold startNHold
  extract_lets -merge t1 t2 t3 t4
  clear_value t1 t2 t3 t4
  refine QuietStart.ite (needleRefuse_quiet hs) ?_
  split
  · exact QuietStart.stop
  · exact QuietStart.started (updCore_quiet (fun _ => rfl) hs)

theorem startLoad_quiet {s0 c p x f s} (hs : Quiet s0 s) : QuietStart s0 (startLoad c p x f s) := by
  unfold startLoad
  split
  · exact QuietStart.stop
  · extract_lets -merge t7 t8 t9 t10 t11 t12 t13
    clear_value t7 t8 t9 t10 t11 t12
    have h20 : Quiet s0 t13 := Quiet.foldl (fun x21 x22 x23 => updArr_quiet x23) hs
    clear_value t13
    split
    · exact QuietStart.stop
    · exact QuietStart.started (countReserved_quiet h20)

theorem needleCheck_quiet {s0 c n} {go : State → State} {s} (hgo : ∀ z0, Quiet s0 z0 → Quiet s0 (go z0)) (hs : Quiet s0 s) :
    QuietStart s0 (needleCheck c n go s) := by
  unfold needleCheck
  extract_lets -merge t1
  clear_value t1
  exact QuietStart.ite (QuietStart.started (hgo _ hs)) (QuietStart.ite QuietStart.stop (QuietStart.started (hgo _ (odCount_quiet (odCount_quiet hs)))))

theorem startNGraft2_quiet {s0 c p x f mis e s} (hs : Quiet s0 s) : QuietStart s0 (startNGraft2 c p x f mis e s) := by
  unfold startNGraft2
  extract_lets -merge t1 t2 t3 t4 t5
  clear_value t1 t2 t3 t4 t5
  refine QuietStart.ite (needleRefuse_quiet hs) ?_
  refine QuietStart.ite QuietStart.stop ?_
  split
  · exact QuietStart.stop
  · refine QuietStart.ite QuietStart.hold ?_
    split
    · rename_i y16 y17
      exact QuietStart.hold
    · rename_i y18 y19 y20 y21
      have h22 : Quiet s0 y20 := QuietOptPair.elim y21 (nTake_quiet hs)
      exact needleCheck_quiet (fun x23 x24 => needleAdd_quiet (countReserved_quiet x24)) h22

theorem startNGraft1_quiet {s0 c p x f mis s} (hs : Quiet s0 s) : QuietStart s0 (startNGraft1 c p x f mis s) := by
  unfold startNGraft1
  extract_lets -merge t1 t2 t3
  clear_value t1 t2 t3
  refine QuietStart.ite (needleRefuse_quiet hs) ?_
  split
  · exact QuietStart.stop
  · split
    · rename_i y12 y13
      exact QuietStart.hold
    · rename_i y14 y15 y16 y17
      have h18 : Quiet s0 y16 := QuietOptPair.elim y17 (nTake_quiet hs)
      refine needleCheck_quiet ?_ h18
      intro x19 x20
      extract_lets -merge t21 t22 t23
      have h24 : Quiet s0 t21 := countReserved_quiet x20
      clear_value t21 t22
      have h26 : Quiet s0 t23 := updCore_quiet (fun _ => rfl) h24
      clear_value t23
      exact Quiet.ite h26 (odCount_quiet h26)

theorem convStart_quiet {s0 c p x foot idx da rows len mixed} {ext : ConvDesc → List (Nat × Nat)} {s} {run : ConvDesc → Start}
    (hrun : ∀ z0, QuietStart s0 (run z0))
    (hs : Quiet s0 s) :
    QuietStart s0 (convStart c p x foot idx da rows len mixed ext s run) := by
  unfold convStart
  split
  · exact QuietStart.stop
  · extract_lets -merge t6
    clear_value t6
    split
    · exact QuietStart.stop
    · split
      · exact QuietStart.stop
      · split
        · exact QuietStart.stop
        · split
          · exact QuietStart.stop
          · exact QuietStart.hold
          · exact hrun _

theorem startNStream_quiet {s0 c p x f mis e s} (hs : Quiet s0 s) : QuietStart s0 (startNStream c p x f mis e s) := by
  unfold startNStream
  extract_lets -merge t1 t2 t3 t4 t5
  clear_value t1 t2 t3 t4 t5
  refine QuietStart.ite (needleRefuse_quiet hs) ?_
  refine QuietStart.ite QuietStart.stop ?_
  split
  · exact QuietStart.stop
  · refine QuietStart.ite QuietStart.hold ?_
    split
    · rename_i y16 y17
      exact QuietStart.hold
    · rename_i y18 y19 y20 y21
      have h22 : Quiet s0 y20 := QuietOptPair.elim y21 (nTake_quiet hs)
      exact needleCheck_quiet (fun x23 x24 => needleAdd_quiet (countReserved_quiet x24)) h22

theorem startDrain_quiet {s0 c p x f e s} (hs : Quiet s0 s) : QuietStart s0 (startDrain c p x f e s) := by
  unfold startDrain
  extract_lets -merge t1 t2 t3 t4 t5 t6 t7 t8 t9 t10 t11 t12 t13 t14 t15 t16
  clear_value t1 t2 t3 t4 t5 t6 t7 t8 t9 t10 t11 t12 t13 t14 t15 t16
  refine QuietStart.ite QuietStart.stop ?_
  refine QuietStart.ite QuietStart.hold ?_
  refine QuietStart.ite (convStart_quiet (fun x33 => readOn_quiet (fun x34 x35 => convRun_quiet x35) hs) hs) ?_
  split
  · exact QuietStart.stop
  · split
    · exact QuietStart.stop
    · exact readOn_quiet (fun x44 x45 => Quiet.ite (storeRows_quiet x45) (updCore_quiet (fun _ => rfl) x45)) hs

theorem operandA_quiet {s0 c p x fmt a h s} (hs : Quiet s0 s) : QuietOptPair s0 (operandA c p x fmt a h s) := by
  unfold operandA
  extract_lets -merge t1
  clear_value t1
  refine QuietOptPair.ite ?_ (QuietOptPair.some hs)
  split
  · exact QuietOptPair.none
  · extract_lets -merge t9 t10
    have h11 : Quiet s0 t9 := updCore_quiet (fun _ => rfl) hs
    clear_value t9 t10
    exact QuietOptPair.some (Quiet.ite h11 (taint_quiet h11))

theorem scanSteps_quiet {s0 c fmt n src dst a5 a6 a7} (hs : Quiet s0 a7) :
    QuietPair s0 (scanSteps c fmt n src dst a5 a6 a7) := by
  induction a5 generalizing src dst a6 a7 with
  | zero =>
    unfold scanSteps
    exact QuietPair.mk hs
  | succ n ih =>
    unfold scanSteps
    extract_lets -merge t1 t2
    clear_value t1 t2
    exact ih (vecWrite_quiet hs)

theorem startVScan_quiet {s0 c x f s} (hs : Quiet s0 s) : QuietStart s0 (startVScan c x f s) := by
  unfold startVScan
  extract_lets -merge t1 t2 t3 t4
  clear_value t1 t2 t3
  have h8 : QuietPair s0 t4 := scanSteps_quiet hs
  clear_value t4
  split
  · exact QuietStart.stop
  · exact QuietStart.started (vecWrite_quiet (QuietPair.snd h8))

theorem startFLoad_quiet {s0 c x slot image s} (hs : Quiet s0 s) : QuietStart s0 (startFLoad c x slot image s) := by
  unfold startFLoad
  extract_lets -merge t1 t2
  clear_value t1 t2
  split
  · exact QuietStart.stop
  · exact QuietStart.started (updCore_quiet (fun _ => rfl) hs)

theorem startVMask_quiet {s0 c p x f s} (hs : Quiet s0 s) : QuietStart s0 (startVMask c p x f s) := by
  unfold startVMask
  extract_lets -merge t1 t2 t3 t4 t5 t6 t7
  clear_value t1 t2 t3 t4 t5 t6 t7
  split
  · exact QuietStart.stop
  · refine QuietStart.ite QuietStart.stop ?_
    split
    · rename_i y20 y21
      exact QuietStart.hold
    · rename_i y22 y23 y24 y25
      have h26 : Quiet s0 y24 := QuietOptPair.elim y25 (operandA_quiet hs)
      extract_lets -merge t27
      clear_value t27
      exact QuietStart.started (vecWrite_quiet h26)

theorem withStored_quiet {s0 c x fmt a n ext s} {go : List Word32 → State → State}
    (hgo : ∀ z0 z1, Quiet s0 z1 → Quiet s0 (go z0 z1))
    (hs : Quiet s0 s) :
    QuietStart s0 (withStored c x fmt a n ext s go) := by
  unfold withStored
  split
  · exact QuietStart.stop
  · exact QuietStart.started (hgo _ _ hs)

theorem withA_quiet {s0 c p x fmt a h ext s} {go : List Word32 → State → State}
    (hgo : ∀ z0 z1, Quiet s0 z1 → Quiet s0 (go z0 z1))
    (hs : Quiet s0 s) :
    QuietStart s0 (withA c p x fmt a h ext s go) := by
  unfold withA
  split
  · exact QuietStart.stop
  · split
    · rename_i y6 y7
      exact QuietStart.hold
    · rename_i y8 y9 y10 y11
      have h12 : Quiet s0 y10 := QuietOptPair.elim y11 (operandA_quiet hs)
      exact QuietStart.started (hgo _ _ h12)

theorem startVRow_quiet {s0 c p x f s} (hs : Quiet s0 s) : QuietStart s0 (startVRow c p x f s) := by
  unfold startVRow
  extract_lets -merge t1 t2 t3 t4
  clear_value t1 t2 t4
  refine withA_quiet ?_ hs
  intro x9 x10 x11
  extract_lets -merge t12 t13 t14
  clear_value t12 t13 t14
  exact vecWrite_quiet x11

theorem startFDeriv_quiet {s0 c x f idx s} (hs : Quiet s0 s) : QuietStart s0 (startFDeriv c x f idx s) := by
  unfold startFDeriv
  extract_lets -merge t1
  clear_value t1
  split
  · exact QuietStart.stop
  · refine withStored_quiet ?_ hs
    intro x8 x9 x10
    extract_lets -merge t11
    clear_value t11
    exact odCount_quiet (odCount_quiet (vecWrite_quiet x10))

theorem startVUn_quiet {s0 c p x f s} (hs : Quiet s0 s) : QuietStart s0 (startVUn c p x f s) := by
  unfold startVUn
  extract_lets -merge t1
  clear_value t1
  exact withA_quiet (fun x3 x4 x5 => vecWrite_quiet x5) hs

theorem startVRed_quiet {s0 c p x f s} (hs : Quiet s0 s) : QuietStart s0 (startVRed c p x f s) := by
  unfold startVRed
  extract_lets -merge t1 t2
  clear_value t1 t2
  exact withA_quiet (fun x5 x6 x7 => vecWrite_quiet x7) hs

theorem startVBin_quiet {s0 c p x f s} (hs : Quiet s0 s) : QuietStart s0 (startVBin c p x f s) := by
  unfold startVBin
  extract_lets -merge t1 t2 t3
  clear_value t1 t2
  refine withA_quiet ?_ hs
  intro x7 x8 x9
  extract_lets -merge t10
  clear_value t10
  exact vecWrite_quiet x9

theorem startVSoft_quiet {s0 c p x f s} (hs : Quiet s0 s) : QuietStart s0 (startVSoft c p x f s) := by
  unfold startVSoft
  extract_lets -merge t1 t2
  clear_value t1 t2
  refine withA_quiet ?_ hs
  intro x5 x6 x7
  extract_lets -merge t8 t9 t10 t11
  clear_value t8 t9
  have h14 : Quiet s0 t10 := Quiet.ite x7 (vecWrite_quiet x7)
  clear_value t10
  have h15 : Quiet s0 t11 := vecWrite_quiet h14
  clear_value t11
  exact vecWrite_quiet h15

theorem startFEval_quiet {s0 c x f idx s} (hs : Quiet s0 s) : QuietStart s0 (startFEval c x f idx s) := by
  unfold startFEval
  extract_lets -merge t1
  clear_value t1
  split
  · exact QuietStart.stop
  · exact withStored_quiet (fun x8 x9 x10 => odCount_quiet (vecWrite_quiet x10)) hs

theorem startVFma_quiet {s0 c p x f s} (hs : Quiet s0 s) : QuietStart s0 (startVFma c p x f s) := by
  unfold startVFma
  extract_lets -merge t1 t2
  clear_value t1 t2
  refine withA_quiet ?_ hs
  intro x5 x6 x7
  extract_lets -merge t8 t9
  clear_value t8 t9
  exact vecWrite_quiet x7

theorem startVCvt_quiet {s0 c p x f idx s} (hs : Quiet s0 s) : QuietStart s0 (startVCvt c p x f idx s) := by
  unfold startVCvt
  extract_lets -merge t1 t2 t3
  clear_value t1 t2 t3
  refine convStart_quiet ?_ hs
  intro x7
  split
  · rename_i y8 y9
    exact QuietStart.hold
  · rename_i y10 y11 y12 y13
    have h14 : Quiet s0 y12 := QuietOptPair.elim y13 (operandA_quiet hs)
    exact QuietStart.started (convRun_quiet h14)

theorem writeNorms_quiet {s0 a slot step w2 g2 d2 s} (hs : Quiet s0 s) : Quiet s0 (writeNorms a slot step w2 g2 d2 s) := by
  unfold writeNorms
  extract_lets -merge t1 t2 t3
  have h4 : Quiet s0 t1 := storeBytes_quiet hs
  clear_value t1 t2 t3
  exact Quiet.ite (storeBytes_quiet (storeBytes_quiet h4)) h4

theorem storeChunk_quiet {s0 c x d es s} (hs : Quiet s0 s) : Quiet s0 (storeChunk c x d es s) := by
  unfold storeChunk
  extract_lets -merge t1 t2 t3 t4
  clear_value t1
  have h6 : Quiet s0 t2 := storeWrite_quiet hs
  clear_value t2
  have h7 : Quiet s0 t3 := Quiet.ite (storeWrite_quiet h6) h6
  clear_value t3
  have h8 : Quiet s0 t4 := storeWrite_quiet h7
  clear_value t4
  exact Quiet.ite (storeWrite_quiet h8) h8

theorem postOnce_quiet {s0 p code src tag step b s} (hs : Quiet s0 s) : Quiet s0 (postOnce p code src tag step b s) := by
  unfold postOnce
  exact Quiet.ite hs (postPanel_quiet (updPanel_quiet hs))

theorem runVOpt_quiet {s0 c p x idx d s} (hs : Quiet s0 s) : Quiet s0 (runVOpt c p x idx d s) := by
  unfold runVOpt
  extract_lets -merge t1 t2 t3 t4 t5 t6 t7 t8 t9 t10 t11 t12 t13 t14 t15 t16 t17 t18 t19 t20 t21 t22 t23
  clear_value t1 t2 t3 t4 t5
  have h29 : Quiet s0 t6 := Quiet.ite (taint_quiet hs) hs
  clear_value t6
  have h30 : Quiet s0 t7 := noteSeen_quiet h29
  clear_value t7 t8
  have h32 : Quiet s0 t9 := storeBytes_quiet h30
  clear_value t9 t10
  have h34 : Quiet s0 t11 := Quiet.ite (postOnce_quiet h32) h32
  clear_value t11 t12 t13
  have h37 : Quiet s0 t14 := Quiet.ite (postOnce_quiet (Quiet.ite (odCount_quiet h34) h34)) h34
  clear_value t14 t15 t16
  have h40 : Quiet s0 t17 := storeChunk_quiet h37
  clear_value t17 t18
  have h42 : Quiet s0 t19 := odCount_quiet (odCount_quiet h40)
  clear_value t19
  have h43 : Quiet s0 t20 := Quiet.ite h42 (odCount_quiet (odCount_quiet h42))
  clear_value t20
  have h44 : Quiet s0 t21 := by
    unfold t21
    refine Quiet.ite h37 ?_
    refine onceEffect_quiet ?_ h43
    intro x45 x46
    extract_lets -merge t47
    clear_value t47
    exact storeBytes_quiet x46
  clear_value t21 t22
  have h50 : Quiet s0 t23 := Quiet.ite (convRun_quiet h44) h44
  clear_value t23
  exact Quiet.ite (writeNorms_quiet h50) h50

theorem startVOpt_quiet {s0 c p x alg desc idx s} (hs : Quiet s0 s) : QuietStart s0 (startVOpt c p x alg desc idx s) := by
  unfold startVOpt
  dsimp only
  split
  · exact QuietStart.stop
  · split
    · exact QuietStart.stop
    · exact QuietStart.ite QuietStart.hold (QuietStart.started (runVOpt_quiet hs))

theorem waitHere_quiet {s0 c i op mode v s} (hs : Quiet s0 s) : QuietStart s0 (waitHere c i op mode v s) := by
  unfold waitHere
  exact QuietStart.ite (QuietStart.started hs) (QuietStart.started (Quiet.of hs rfl))

theorem startSpoolWait_quiet {s0 c p x spool k space s} (hs : Quiet s0 s) :
    QuietStart s0 (startSpoolWait c p x spool k space s) := by
  unfold startSpoolWait
  extract_lets -merge t1 t2 t3
  clear_value t1 t2 t3
  exact QuietStart.ite QuietStart.stop (QuietStart.ite QuietStart.stop (QuietStart.ite QuietStart.stop (waitHere_quiet hs)))

theorem startSrelease_quiet {s0 c p spool k s} (hs : Quiet s0 s) : QuietStart s0 (startSrelease c p spool k s) := by
  unfold startSrelease
  extract_lets -merge t1
  have h2 : Quiet s0 t1 := updCore_quiet (fun _ => rfl) hs
  clear_value t1
  exact QuietStart.ite QuietStart.stop (QuietStart.ite QuietStart.stop (QuietStart.started (onceEffect_quiet (fun x3 x4 => x4) h2)))

theorem startMove_quiet {s0 c p x ca channel s} (hs : Quiet s0 s) : QuietStart s0 (startMove c p x ca channel s) := by
  unfold startMove
  extract_lets -merge t1 t2
  clear_value t1 t2
  split
  · exact QuietStart.stop
  · split
    · split
      · exact QuietStart.stop
      · extract_lets -merge t19 t20 t21
        clear_value t19 t20 t21
        refine QuietStart.ite ?_ (QuietStart.started (updCore_quiet (fun _ => rfl) hs))
        refine QuietStart.ite QuietStart.stop ?_
        split
        · exact QuietStart.stop
        · exact QuietStart.started (updCore_quiet (fun _ => rfl) hs)

theorem startStepClose_quiet {s0 c p x y s} (hs : Quiet s0 s) : QuietStart s0 (startStepClose c p x y s) := by
  unfold startStepClose
  extract_lets -merge t1
  clear_value t1
  refine QuietStart.ite QuietStart.stop ?_
  split
  · exact QuietStart.stop
  · split
    · exact QuietStart.stop
    · exact QuietStart.started (onceEffect_quiet (fun x13 x14 => closeStep_quiet x14) hs)

end Sys2Proof.Machine
end

