-- ==== Sys2Proof/Laws/Dispatch.lean ====
section
/-! SUPPORT. The sequencer and its queues: an operation that is dispatched into empty queues and whose start succeeds is
started at once, and the sequencer goes on. -/
namespace Sys2Proof.Machine

theorem queuesEmpty_entries (x : Core) (h : queuesEmpty x = true) (q : Nat) : (queueAt x q).entries = [] := by
  unfold queuesEmpty at h
  unfold queueAt
  generalize x.queues = m at h
  induction m with
  | nil => rfl
  | cons p t ih =>
    obtain ⟨k, v⟩ := p
    simp only [List.all_cons, Bool.and_eq_true, List.isEmpty_iff] at h
    simp only [sget]
    split
    · exact h.1
    · exact ih h.2

theorem tryStart_idle (c q : Nat) (s : State) (h : nextToStart q (queueAt (coreOf s c) q).entries = none) :
    tryStart c q s = s := by
  simp [tryStart, h]

theorem foldl_tryStart_idle (c : Nat) (l : List Nat) (s : State)
    (h : ∀ q ∈ l, nextToStart q (queueAt (coreOf s c) q).entries = none) :
    l.foldl (fun s q => tryStart c q s) s = s := by
  induction l with
  | nil => rfl
  | cons q l ih =>
    rw [List.foldl_cons, tryStart_idle c q s (h q List.mem_cons_self)]
    exact ih fun q' hq' => h q' (List.mem_cons_of_mem _ hq')

/-- A round over queues of which only q can start anything. -/
theorem foldl_tryStart_one (c q : Nat) (l : List Nat) (s t : State) (hl : l.Nodup) (hq : q ∈ l)
    (hs : ∀ q' ∈ l, q' ≠ q → nextToStart q' (queueAt (coreOf s c) q').entries = none) (ht : tryStart c q s = t)
    (h : ∀ q' ∈ l, nextToStart q' (queueAt (coreOf t c) q').entries = none) :
    l.foldl (fun s q => tryStart c q s) s = t := by
  induction l with
  | nil => exact absurd hq List.not_mem_nil
  | cons a l ih =>
    obtain ⟨ha, hl⟩ := List.nodup_cons.1 hl
    rw [List.foldl_cons]
    by_cases e : a = q
    · subst e
      rw [ht]
      exact foldl_tryStart_idle c l t fun q' hq' => h q' (List.mem_cons_of_mem _ hq')
    · rw [tryStart_idle c a s (hs a List.mem_cons_self e)]
      refine ih hl ?_ (fun q' hq' => hs q' (List.mem_cons_of_mem _ hq')) (fun q' hq' => h q' (List.mem_cons_of_mem _ hq'))
      rcases List.mem_cons.1 hq with e' | e'
      · exact absurd e'.symm e
      · exact e'

theorem pumpCore_idle (c n : Nat) (s : State)
    (h : ∀ q ∈ List.range 13, nextToStart q (queueAt (coreOf s c) q).entries = none) : pumpCore c n s = s := by
  induction n with
  | zero => rfl
  | succ n ih =>
    have e : pumpOnce c s = s := foldl_tryStart_idle c _ s h
    simp only [pumpCore, e, ih, ite_self]

/-- A core of which only queue q can start anything, and then nothing any more. -/
theorem pumpCore_one (c q n : Nat) (s t : State) (hq : q < 13)
    (hs : ∀ q' < 13, q' ≠ q → nextToStart q' (queueAt (coreOf s c) q').entries = none) (ht : tryStart c q s = t)
    (h : ∀ q' < 13, nextToStart q' (queueAt (coreOf t c) q').entries = none) : pumpCore c (n + 1) s = t := by
  have e : pumpOnce c s = t :=
    foldl_tryStart_one c q _ s t List.nodup_range (List.mem_range.2 hq) (fun q' hq' => hs q' (List.mem_range.1 hq')) ht
      fun q' hq' => h q' (List.mem_range.1 hq')
  have e' : pumpCore c n t = t := pumpCore_idle c n t fun q' hq' => h q' (List.mem_range.1 hq')
  simp only [pumpCore, e, e', ite_self]

theorem pumpRounds_succ : pumpRounds = 262143 + 1 := by simp [pumpRounds]

/-! ### The sequencer goes on -/

/-- Coming to a listed operation changes nothing. -/
theorem reach_listed (c n : Nat) (s : State) (h : ReadsOp s c n) : reach c n s = s := by
  obtain ⟨h1, h2, h3⟩ := h
  unfold reach
  split
  · rfl
  · rw [if_neg (by omega), if_neg (by simp [h3]), if_neg (by simpa using h2)]

theorem advance_listed (c : Nat) (s : State) (h : ReadsOp s c ((coreOf s c).pc.toNat + 1)) :
    advance c s = updCore c (fun x => { x with pc := x.pc + 1 }) s := by
  have e : BitVec.ofNat 16 ((coreOf s c).pc.toNat + 1) = (coreOf s c).pc + 1 := by
    apply BitVec.eq_of_toNat_eq
    simp [BitVec.toNat_add]
  have e2 : updCore c (fun x => { x with pc := BitVec.ofNat 16 ((coreOf s c).pc.toNat + 1) }) s =
      updCore c (fun x => { x with pc := x.pc + 1 }) s := by
    simp only [updCore, e]
  unfold advance
  simp only [e2]
  apply reach_listed
  obtain ⟨h1, h2, h3⟩ := h
  refine ⟨?_, ?_, ?_⟩
  · simpa using h1
  · exact h2
  · exact h3

/-! ### Dispatch -/

theorem queueOf_lt (i : Instr) : queueOf i < 13 := by
  have ht : ∀ t, targetFirst t < 4 := by intro t; unfold targetFirst; split <;> (try split) <;> omega
  unfold queueOf
  split
  · exact Nat.lt_trans (ht _) (by omega)
  · exact Nat.lt_trans (ht _) (by omega)
  · have := ht (‹DrainF›.target.toNat); omega
  · dsimp only; repeat' split
    all_goals omega

/-- An operation dispatched into empty queues: when its start succeeds with effect u, the result is u with the entry marked
as started and the sequencer at the next operation. -/
theorem dispatchOp_begun (c : Nat) (h : OpHdr) (i : Instr) (s u : State) (k : Kernel) (ready : Bool)
    (hr : OpReady s c h i) (hk : kernelOnCore s c = some k)
    (hst : startOp c k.panel (coreOf (enqueued c h i s) c) (entryOf s c h i) (enqueued c h i s) = .started ready u)
    (hqs : (coreOf u c).queues = (coreOf (enqueued c h i s) c).queues)
    (hn : ReadsOp u c ((coreOf u c).pc.toNat + 1)) :
    dispatchOp c h i s = begun c (queueOf i) (if queueOf i = 11 then (coreOf s c).nextMove else 0) ready u := by
  obtain ⟨⟨-, hd, hc, hm⟩, hq, hb⟩ := hr
  have hent := queuesEmpty_entries (coreOf s c) hq
  have hlt := queueOf_lt i
  -- the queues after the entry is put in
  have hx : coreOf (enqueued c h i s) c = { coreOf s c with
      queues := smod {} (coreOf s c).queues (queueOf i)
        (fun q => { q with disp := q.disp + 1, entries := q.entries ++ [entryOf s c h i] }) } := by
    unfold enqueued updQueue; rw [coreOf_updCore_self]
  have hself : (queueAt (coreOf (enqueued c h i s) c) (queueOf i)).entries = [entryOf s c h i] := by
    unfold enqueued; rw [queueAt_updQueue_self]; simp [hent]
  have hother : ∀ q', q' ≠ queueOf i → (queueAt (coreOf (enqueued c h i s) c) q').entries = [] := by
    intro q' e; unfold enqueued; rw [queueAt_updQueue_ne _ _ _ _ _ e]; exact hent q'
  have hret : ∀ q', (queueAt (coreOf (enqueued c h i s) c) q').ret = (queueAt (coreOf s c) q').ret := by
    intro q'
    by_cases e : q' = queueOf i
    · subst e; unfold enqueued; rw [queueAt_updQueue_self]
    · unfold enqueued; rw [queueAt_updQueue_ne _ _ _ _ _ e]
  have hnt : nextToStart (queueOf i) (queueAt (coreOf (enqueued c h i s) c) (queueOf i)).entries = some 0 := by
    rw [hself]; simp [nextToStart, entryOf]
  have hdisp : (coreOf s c).failed = false ∧ (coreOf s c).awaitHost = false ∧ (coreOf s c).lost = false := by
    simp only [atOp, dispatching, hk, Bool.and_eq_true, Bool.not_eq_true'] at hd
    replace hd := hd.1
    exact ⟨hd.1.1.2, hd.1.2, hd.2⟩
  -- what tryStart does
  have htry : tryStart c (queueOf i) (enqueued c h i s) =
      updQueue c (queueOf i) (markStarted 0 (if queueOf i = 11 then (coreOf s c).nextMove else 0) ready) u := by
    unfold tryStart
    simp only [hnt]
    have hk' : kernelOnCore (enqueued c h i s) c = some k := by
      unfold enqueued; rw [kernelOnCore_updQueue]; exact hk
    have hdm : depMet (coreOf (enqueued c h i s) c) (entryOf s c h i).depQ (entryOf s c h i).need = true := by
      simp only [depMet, entryOf, hret, Bool.or_eq_true, Bool.and_eq_true, decide_eq_true_eq] at hm ⊢
      rcases hm with hm | ⟨hm, -⟩
      · exact .inl (by simp [hm])
      · refine .inr ⟨hm, ?_⟩
        by_cases e : h.dep.toNat = 11
        · right
          by_cases e2 : queueOf i = 11
          · rw [e2] at hself
            rw [hself]
            simp [needOf, e, e2, entryOf]
          · rw [hother 11 (Ne.symm e2)]; rfl
        · exact .inl (by simp [e])
    have hbad : meetsPoison (enqueued c h i s) c (coreOf (enqueued c h i s) c) i = false := by
      have : (enqueued c h i s).badWords = [] := hb
      simp [meetsPoison, this]
    have hareg : { coreOf (enqueued c h i s) c with areg := (entryOf s c h i).areg } = coreOf (enqueued c h i s) c := by
      rw [hx]; rfl
    have hfl : ((coreOf (enqueued c h i s) c).failed || (coreOf (enqueued c h i s) c).awaitHost ||
        (coreOf (enqueued c h i s) c).lost) = false := by
      rw [hx]; simp [hdisp]
    have hnm : (coreOf (enqueued c h i s) c).nextMove = (coreOf s c).nextMove := by rw [hx]
    have hcmd : (entryOf s c h i).cmd = i := rfl
    have hst' : startOp c k.panel { coreOf (enqueued c h i s) c with areg := (entryOf s c h i).areg } (entryOf s c h i)
        (enqueued c h i s) = .started ready u := by rw [hareg]; exact hst
    have hbad' : meetsPoison (enqueued c h i s) c { coreOf (enqueued c h i s) c with areg := (entryOf s c h i).areg } i =
        false := by rw [hareg]; exact hbad
    dsimp only at hst' hbad'
    simp only [hk', hself, List.getElem?_cons_zero, hst', hcmd, hbad']
    rw [if_neg (by simp [hfl, hdm]), if_neg (by simp), hnm]
    unfold healPriv
    rw [if_pos (by rw [show (enqueued c h i s).badWords = [] from hb]; rfl)]
  -- afterwards nothing else can start
  have hqu : ∀ q', queueAt (coreOf u c) q' = queueAt (coreOf (enqueued c h i s) c) q' := by
    intro q'; unfold queueAt; rw [hqs]
  have hdone : ∀ q' < 13, nextToStart q' (queueAt (coreOf
      (updQueue c (queueOf i) (markStarted 0 (if queueOf i = 11 then (coreOf s c).nextMove else 0) ready) u) c) q').entries =
      none := by
    intro q' _
    by_cases e : q' = queueOf i
    · subst e
      rw [queueAt_updQueue_self, hqu]
      simp [markStarted, hself, nextToStart]
    · rw [queueAt_updQueue_ne _ _ _ _ _ e, hqu, hother q' e]
      simp [nextToStart]
  have hpump : pumpCore c pumpRounds (enqueued c h i s) =
      updQueue c (queueOf i) (markStarted 0 (if queueOf i = 11 then (coreOf s c).nextMove else 0) ready) u := by
    rw [pumpRounds_succ]
    exact pumpCore_one c (queueOf i) _ _ _ hlt (fun q' _ e => by rw [hother q' e]; simp [nextToStart]) htry hdone
  unfold dispatchOp
  rw [if_neg (by simp [hd])]
  simp only [hc]
  rw [if_neg (by simp [hent])]
  have : updQueue c (queueOf i) (fun y => { y with disp := y.disp + 1, entries := y.entries ++ [entryOf s c h i] }) s =
    enqueued c h i s := rfl
  unfold entryOf at this
  rw [this, hpump]
  have hpc : (coreOf (updQueue c (queueOf i)
      (markStarted 0 (if queueOf i = 11 then (coreOf s c).nextMove else 0) ready) u) c).pc = (coreOf u c).pc := by
    unfold updQueue; rw [coreOf_updCore_self]
  apply advance_listed
  rw [hpc]
  obtain ⟨h1, h2, h3⟩ := hn
  refine ⟨?_, h2, h3⟩
  unfold updQueue; rw [coreOf_updCore_self]; exact h1

theorem alive_next (f : State → State) (s : State) (h : Alive s) : alive f s = .next (f s) := by
  unfold alive; rw [if_pos (by simp [h.1, h.2])]

/-- A command that has its effect lets collectives that wait go on. -/
theorem settle_next (f : State → State) (s : State) (h : Alive s) : settle f s = .next (pumpColls (f s)) :=
  alive_next _ s h

/-! ### Operations begin -/

theorem begins_of_start {c : Nat} {h : OpHdr} {i : Instr} {s u : State} {k : Kernel} {ready : Bool}
    (he : exec i s = alive (dispatchOp c h i) s) (hr : OpReady s c h i) (hk : kernelOnCore s c = some k)
    (hst : startOp c k.panel (coreOf (enqueued c h i s) c) (entryOf s c h i) (enqueued c h i s) = .started ready u)
    (hqs : (coreOf u c).queues = (coreOf (enqueued c h i s) c).queues) : Begins s c i ready u := by
  intro hn
  rw [he, alive_next _ _ hr.1.1, dispatchOp_begun c h i s u k ready hr hk hst hqs hn]

theorem beginsKnot_of_start {c : Nat} {h : OpHdr} {i : Instr} {s u : State} {k : Kernel} {ready : Bool}
    (he : exec i s = settle (dispatchOp c h i) s) (hr : OpReady s c h i) (hk : kernelOnCore s c = some k)
    (hq : queueOf i = 12)
    (hst : startOp c k.panel (coreOf (enqueued c h i s) c) (entryOf s c h i) (enqueued c h i s) = .started ready u)
    (hqs : (coreOf u c).queues = (coreOf (enqueued c h i s) c).queues) : BeginsKnot s c i ready u := by
  intro hn
  rw [he, settle_next _ _ hr.1.1, dispatchOp_begun c h i s u k ready hr hk hst hqs hn, hq]
  rfl

/-- The operations of the engines and of the mover. -/
def onEngine (i : Instr) : Prop :=
  match i with
  | .stepclose .. | .load .. | .pass .. | .drain .. | .nhold .. | .nstream .. | .ngraft1 .. | .ngraft2 .. | .vbin ..
  | .vfma .. | .vun .. | .vred .. | .vrow .. | .vcvt .. | .vsoft .. | .vmask .. | .vscan .. | .vopt .. | .fload ..
  | .feval .. | .fderiv .. | .moveCopy .. | .moveSwatchRead .. | .moveSwatchWrite .. | .moveTable .. | .moveZero ..
  | .moveSend .. | .stream .. => True
  | _ => False

theorem startOp_quiet {s0 s : State} {c p : Nat} {x : Core} {e : QEntry} (hi : onEngine e.cmd) (hs : Quiet s0 s) :
    QuietStart s0 (startOp c p x e s) := by
  unfold startOp
  rcases e with ⟨idx, cmd, areg, dq, need, st, rd, mv, ex⟩
  cases cmd <;> dsimp only [onEngine] at hi <;> first
    | exact hi.elim
    | (dsimp only; first
        | with_reducible exact startStepClose_quiet hs
        | with_reducible exact startLoad_quiet hs
        | with_reducible exact startPass_quiet hs
        | with_reducible exact startDrain_quiet hs
        | with_reducible exact startNHold_quiet hs
        | with_reducible exact startNStream_quiet hs
        | with_reducible exact startNGraft1_quiet hs
        | with_reducible exact startNGraft2_quiet hs
        | with_reducible exact startVBin_quiet hs
        | with_reducible exact startVFma_quiet hs
        | with_reducible exact startVUn_quiet hs
        | with_reducible exact startVRed_quiet hs
        | with_reducible exact startVRow_quiet hs
        | with_reducible exact startVCvt_quiet hs
        | with_reducible exact startVSoft_quiet hs
        | with_reducible exact startVMask_quiet hs
        | with_reducible exact startVScan_quiet hs
        | with_reducible exact startVOpt_quiet hs
        | with_reducible exact startFLoad_quiet hs
        | with_reducible exact startFEval_quiet hs
        | with_reducible exact startFDeriv_quiet hs
        | with_reducible exact startMove_quiet hs)

/-- An operation of an engine or of the mover whose start succeeds. -/
theorem engine_begins {c : Nat} {h : OpHdr} {i : Instr} {s u : State} {k : Kernel} {ready : Bool} (hi : onEngine i)
    (he : exec i s = alive (dispatchOp c h i) s) (hr : OpReady s c h i) (hk : kernelOnCore s c = some k)
    (hst : startOp c k.panel (coreOf (enqueued c h i s) c) (entryOf s c h i) (enqueued c h i s) = .started ready u) :
    Begins s c i ready u :=
  begins_of_start he hr hk hst (startOp_quiet hi (Quiet.refl _) ready u hst c)

end Sys2Proof.Machine
end

