-- ==== Sys2Proof/Laws/Keeps.lean ====
section
/-! SUPPORT. What every operation of the machine keeps: device memory stays in its canonical form, the queue of waiting commands
is untouched, and draws from the free values only go forward. The relation, and how it passes through the forms that
operations are built from. -/
namespace Sys2Proof.Machine

/-- Memory stays canonical, the queue stays as it is, and the count of free values does not fall. -/
structure Keeps (s t : State) : Prop where
  mem : Memory.wf s.mem = true → Memory.wf t.mem = true
  pending : t.pending = s.pending
  fresh : s.fresh ≤ t.fresh

/-- The same of the state in a pair. -/
def KeepsPair {α : Type} (s : State) (r : α × State) : Prop := Keeps s r.2

/-- The same of a state that may be absent. -/
def KeepsOpt (s : State) (r : Option State) : Prop := ∀ t, r = some t → Keeps s t

/-- The same of a pair that may be absent. -/
def KeepsOptPair {α : Type} (s : State) (r : Option (α × State)) : Prop := ∀ a t, r = some (a, t) → Keeps s t

/-- The same of an operation that starts or stops. -/
def KeepsStart (s : State) (r : Start) : Prop :=
  match r with
  | .started _ t => Keeps s t
  | .partly _ _ t => Keeps s t
  | .hold => True
  | .stop t => Keeps s t

/-- The same of a command's outcome. -/
def KeepsOut (s : State) (r : Host.Outcome State Fault Refusal) : Prop := ∀ t, r = .next t → Keeps s t

variable {α β : Type} {s0 s t : State}

theorem Keeps.refl (s : State) : Keeps s s := ⟨id, rfl, Nat.le_refl _⟩

theorem Keeps.trans {u : State} (h : Keeps s t) (k : Keeps t u) : Keeps s u :=
  ⟨k.mem ∘ h.mem, k.pending.trans h.pending, Nat.le_trans h.fresh k.fresh⟩

/-- A change of other fields. -/
theorem Keeps.of (h : Keeps s0 s) (hm : t.mem = s.mem) (hp : t.pending = s.pending) (hf : t.fresh = s.fresh) : Keeps s0 t :=
  h.trans ⟨fun k => hm ▸ k, hp, by omega⟩

/-- A change of other fields that draws free values. -/
theorem Keeps.later (h : Keeps s0 s) (hm : t.mem = s.mem) (hp : t.pending = s.pending) (hf : s.fresh ≤ t.fresh) : Keeps s0 t :=
  h.trans ⟨fun k => hm ▸ k, hp, hf⟩

theorem Keeps.ite {c : Prop} [Decidable c] (h : Keeps s0 s) (k : Keeps s0 t) : Keeps s0 (if c then s else t) := by
  split <;> assumption

theorem KeepsPair.ite {c : Prop} [Decidable c] {x y : α × State} (h : KeepsPair s0 x) (k : KeepsPair s0 y) :
    KeepsPair s0 (if c then x else y) := by
  split <;> assumption

theorem KeepsOpt.ite {c : Prop} [Decidable c] {x y : Option State} (h : KeepsOpt s0 x) (k : KeepsOpt s0 y) :
    KeepsOpt s0 (if c then x else y) := by
  split <;> assumption

theorem KeepsOptPair.ite {c : Prop} [Decidable c] {x y : Option (α × State)} (h : KeepsOptPair s0 x)
    (k : KeepsOptPair s0 y) : KeepsOptPair s0 (if c then x else y) := by
  split <;> assumption

theorem KeepsStart.ite {c : Prop} [Decidable c] {x y : Start} (h : KeepsStart s0 x) (k : KeepsStart s0 y) :
    KeepsStart s0 (if c then x else y) := by
  split <;> assumption

theorem KeepsPair.mk {a : α} (h : Keeps s0 s) : KeepsPair s0 (a, s) := h

theorem KeepsPair.snd {x : α × State} (h : KeepsPair s0 x) : Keeps s0 x.2 := h

theorem KeepsPair.elim {x : α × State} {a : α} (e : x = (a, t)) (h : KeepsPair s0 x) : Keeps s0 t := by
  subst e; exact h

theorem KeepsOpt.none : KeepsOpt s0 none := fun _ h => nomatch h

theorem KeepsOpt.some (h : Keeps s0 s) : KeepsOpt s0 (some s) := fun _ e => Option.some.inj e ▸ h

theorem KeepsOpt.elim {x : Option State} (e : x = Option.some t) (h : KeepsOpt s0 x) : Keeps s0 t := h t e

theorem KeepsOptPair.none : KeepsOptPair (α := α) s0 none := fun _ _ h => nomatch h

theorem KeepsOptPair.some {a : α} (h : Keeps s0 s) : KeepsOptPair s0 (some (a, s)) :=
  fun _ _ e => (Prod.mk.inj (Option.some.inj e)).2 ▸ h

theorem KeepsOptPair.elim {x : Option (α × State)} {a : α} (e : x = Option.some (a, t)) (h : KeepsOptPair s0 x) :
    Keeps s0 t := h a t e

theorem KeepsStart.started {b : Bool} (h : Keeps s0 s) : KeepsStart s0 (.started b s) := h

theorem KeepsStart.partly {n : Nat} {l : List (List Word32)} (h : Keeps s0 s) : KeepsStart s0 (.partly n l s) := h

theorem KeepsStart.hold : KeepsStart s0 .hold := trivial

theorem KeepsStart.stop (h : Keeps s0 s) : KeepsStart s0 (.stop s) := h

theorem KeepsStart.elim {b : Bool} {r : Start} (e : r = .started b t) (h : KeepsStart s0 r) : Keeps s0 t := by
  subst e; exact h

theorem KeepsStart.elimPartly {n : Nat} {l : List (List Word32)} {r : Start} (e : r = .partly n l t) (h : KeepsStart s0 r) :
    Keeps s0 t := by
  subst e; exact h

theorem KeepsStart.elimStop {r : Start} (e : r = .stop t) (h : KeepsStart s0 r) : Keeps s0 t := by
  subst e; exact h

theorem KeepsOut.next (h : Keeps s0 s) : KeepsOut s0 (.next s) := fun _ e => by cases e; exact h

theorem Keeps.foldl {f : State → β → State} {l : List β} (hf : ∀ t x, Keeps s0 t → Keeps s0 (f t x)) (h : Keeps s0 s) :
    Keeps s0 (l.foldl f s) := by
  induction l generalizing s with
  | nil => exact h
  | cons x l ih => exact ih (hf s x h)

theorem KeepsPair.foldl {f : α × State → β → α × State} {l : List β} {x : α × State}
    (hf : ∀ t x, KeepsPair s0 t → KeepsPair s0 (f t x)) (h : KeepsPair s0 x) : KeepsPair s0 (l.foldl f x) := by
  induction l generalizing x with
  | nil => exact h
  | cons y l ih => exact ih (hf x y h)

theorem KeepsOpt.map {f : β → State} {o : Option β} (hf : ∀ x, Keeps s0 (f x)) : KeepsOpt s0 (o.map f) := by
  intro t e
  cases o with
  | none => simp at e
  | some x => exact Option.some.inj e ▸ hf x

/-- Cells copied one by one. -/
theorem copyCells_wf (l : List Host.Cell) (src dst : Nat) (m : Mem) (h : Memory.wf m = true) :
    Memory.wf (l.foldl (fun m e => sset 0 m (e.1 - src + dst) e.2) m) = true := by
  induction l generalizing m with
  | nil => exact h
  | cons e l ih => exact ih _ (swf_sset 0 m _ e.2 h)

/-- A fold of memory updates that each keep the canonical form. -/
theorem foldMem_wf {l : List β} {f : Mem → β → Mem} {m : Mem} (hf : ∀ m x, Memory.wf m = true → Memory.wf (f m x) = true)
    (h : Memory.wf m = true) : Memory.wf (l.foldl f m) = true := by
  induction l generalizing m with
  | nil => exact h
  | cons x l ih => exact ih (hf m x h)

/-! ### Operations that change memory or draw a free value -/

theorem memWrite_keeps {a : Nat} {b : Bytes} (h : Keeps s0 s) : Keeps s0 { s with mem := memWrite s.mem a b } :=
  h.trans ⟨memWrite_wf s.mem a b, rfl, Nat.le_refl _⟩

theorem keepLine_keeps {u : Nat} (h : Keeps s0 s) : Keeps s0 (keepLine u s) := by
  unfold keepLine
  exact Keeps.ite (memWrite_keeps h) h

theorem rekeyLines_keeps {a n : Nat} (h : Keeps s0 s) : Keeps s0 (rekeyLines a n s) := by
  unfold rekeyLines
  exact Keeps.ite h (Keeps.of (keepLine_keeps (keepLine_keeps h)) rfl rfl rfl)

theorem raiseCounters_keeps {a n : Nat} (h : Keeps s0 s) : Keeps s0 (raiseCounters a n s) := by
  unfold raiseCounters
  split
  · exact h
  · split
    · exact h
    · exact Keeps.foldl (fun _ _ k => memWrite_keeps k) h

theorem storeBytes_keeps {a : Nat} {b : Bytes} (h : Keeps s0 s) : Keeps s0 (storeBytes a b s) := by
  unfold storeBytes
  split
  · exact h
  · exact Keeps.of (raiseCounters_keeps (memWrite_keeps (rekeyLines_keeps h))) rfl rfl rfl

theorem scrub_keeps {a n : Nat} (h : Keeps s0 s) : Keeps s0 (scrub a n s) :=
  h.trans ⟨memZero_wf s.mem a n, rfl, Nat.le_refl _⟩

theorem freshVal_keeps (h : Keeps s0 s) : KeepsPair s0 (freshVal s) :=
  h.trans ⟨id, rfl, Nat.le_succ _⟩

theorem freshBytes_keeps {n : Nat} (h : Keeps s0 s) : KeepsPair s0 (freshBytes n s) :=
  h.trans ⟨id, rfl, Nat.le_add_right _ _⟩

/-- A command of a module that has power and has met no fatal condition. -/
theorem alive_keeps {f : State → State} (hf : ∀ t, Keeps s0 t → Keeps s0 (f t)) (h : Keeps s0 s) : KeepsOut s0 (alive f s) :=
  KeepsOut.next (Keeps.ite (hf s h) h)

end Sys2Proof.Machine
end

