-- ==== Sys2Proof/Laws/KeepsOps.lean ====
section
/-! SUPPORT. What is kept (Laws/Keeps.lean) by the operations of shared operations, conversions and the engines of a core. -/
namespace Sys2Proof.Machine

theorem heal_keeps {s0 a n s} (hs : Keeps s0 s) : Keeps s0 (heal a n s) := by
  unfold heal
  exact Keeps.of hs rfl rfl rfl

theorem updRootPort_keeps {s0 x} {f : RootPort → RootPort} {s} (hs : Keeps s0 s) : Keeps s0 (updRootPort x f s) := by
  unfold updRootPort
  extract_lets -merge t1
  clear_value t1
  exact Keeps.of hs rfl rfl rfl

theorem setPanel_keeps {s0 p x s} (hs : Keeps s0 s) : Keeps s0 (setPanel p x s) := by
  unfold setPanel
  exact Keeps.of hs rfl rfl rfl

theorem odPut_keeps {s0 index sub v s} (hs : Keeps s0 s) : Keeps s0 (odPut index sub v s) := by
  unfold odPut
  exact Keeps.of hs rfl rfl rfl

theorem updPanel_keeps {s0 p} {f : Panel → Panel} {s} (hs : Keeps s0 s) : Keeps s0 (updPanel p f s) := by
  unfold updPanel
  exact setPanel_keeps hs

theorem odCount_keeps {s0 index sub n s} (hs : Keeps s0 s) : Keeps s0 (odCount index sub n s) := by
  unfold odCount
  exact Keeps.ite hs (odPut_keeps hs)

theorem rootTouch_keeps {s0 wr a n s} (hs : Keeps s0 s) : Keeps s0 (rootTouch wr a n s) := by
  unfold rootTouch
  exact Keeps.ite (odCount_keeps hs) hs

theorem tbFlush_keeps {s0} {pick : TbLine → Bool} {s} (hs : Keeps s0 s) : Keeps s0 (tbFlush pick s) := by
  unfold tbFlush
  exact odCount_keeps (Keeps.of hs rfl rfl rfl)

theorem tbAccess_keeps {s0 wr line s} (hs : Keeps s0 s) : Keeps s0 (tbAccess wr line s) := by
  unfold tbAccess
  extract_lets -merge t1 t2
  clear_value t1 t2
  split
  · exact hs
  · extract_lets -merge t10 t11
    clear_value t10 t11
    refine Keeps.ite hs ?_
    split
    · exact odCount_keeps (Keeps.of hs rfl rfl rfl)
    · split
      · exact odCount_keeps (Keeps.of hs rfl rfl rfl)
      · split
        · exact hs
        · exact odCount_keeps (odCount_keeps (Keeps.of hs rfl rfl rfl))

theorem tbTouch_keeps {s0 wr a n s} (hs : Keeps s0 s) : Keeps s0 (tbTouch wr a n s) := by
  unfold tbTouch
  exact Keeps.ite hs (Keeps.foldl (fun x1 x2 x3 => tbAccess_keeps x3) hs)

theorem tbDrop_keeps {s0} {pick : TbLine → Bool} {s} (hs : Keeps s0 s) : Keeps s0 (tbDrop pick s) := by
  unfold tbDrop
  extract_lets -merge t1
  have h2 : Keeps s0 t1 := tbFlush_keeps hs
  clear_value t1
  exact Keeps.of h2 rfl rfl rfl

theorem writeBytes_keeps {s0 a b s} (hs : Keeps s0 s) : Keeps s0 (writeBytes a b s) := by
  unfold writeBytes
  exact rootTouch_keeps (tbTouch_keeps (storeBytes_keeps hs))

theorem noteRead_keeps {s0 a n s} (hs : Keeps s0 s) : Keeps s0 (noteRead a n s) := by
  unfold noteRead
  exact rootTouch_keeps (tbTouch_keeps hs)

theorem idleTick_keeps {s0 s} (hs : Keeps s0 s) : Keeps s0 (idleTick s) := by
  unfold idleTick
  exact Keeps.ite (Keeps.of hs rfl rfl rfl) hs

theorem alertLevel_keeps {s0 s} (hs : Keeps s0 s) : Keeps s0 (alertLevel s) := by
  unfold alertLevel
  extract_lets -merge t1
  clear_value t1
  exact Keeps.of hs rfl rfl rfl

theorem taint_keeps {s0 p s} (hs : Keeps s0 s) : Keeps s0 (taint p s) := by
  unfold taint
  exact Keeps.later hs rfl rfl (Nat.le_add_right _ _)

theorem updKernel_keeps {s0 kid} {f : Kernel → Kernel} {s} (hs : Keeps s0 s) : Keeps s0 (updKernel kid f s) := by
  unfold updKernel
  exact Keeps.of hs rfl rfl rfl

theorem updSlot_keeps {s0 h w} {f : SlotBlk → SlotBlk} {s} (hs : Keeps s0 s) : Keeps s0 (updSlot h w f s) := by
  unfold updSlot
  exact Keeps.of hs rfl rfl rfl

theorem setCore_keeps {s0 c x s} (hs : Keeps s0 s) : Keeps s0 (setCore c x s) := by
  unfold setCore
  exact Keeps.of hs rfl rfl rfl

theorem updRing_keeps {s0 h r} {f : Ring → Ring} {s} (hs : Keeps s0 s) : Keeps s0 (updRing h r f s) := by
  unfold updRing
  exact Keeps.of hs rfl rfl rfl

theorem updPort_keeps {s0 h} {f : Port → Port} {s} (hs : Keeps s0 s) : Keeps s0 (updPort h f s) := by
  unfold updPort
  exact Keeps.of hs rfl rfl rfl

theorem updGroup_keeps {s0 g} {f : Group → Group} {s} (hs : Keeps s0 s) : Keeps s0 (updGroup g f s) := by
  unfold updGroup
  exact Keeps.of hs rfl rfl rfl

theorem taintStale_keeps {s0 h w i e s} (hs : Keeps s0 s) : Keeps s0 (taintStale h w i e s) := by
  unfold taintStale
  split
  · exact Keeps.ite hs (taint_keeps hs)
  · exact hs

theorem portCount_keeps {s0 h o n s} (hs : Keeps s0 s) : Keeps s0 (portCount h o n s) := by
  unfold portCount
  exact Keeps.ite hs (updPort_keeps hs)

theorem updCore_keeps {s0 c} {f : Core → Core} {s} (hs : Keeps s0 s) : Keeps s0 (updCore c f s) := by
  unfold updCore
  exact setCore_keeps hs

theorem abortKernel_keeps {s0 kid event s} (hs : Keeps s0 s) : Keeps s0 (abortKernel kid event s) := by
  unfold abortKernel
  split
  · exact hs
  · extract_lets -merge t6 t7 t8 t9 t10
    clear_value t6
    have h12 : Keeps s0 t7 := Keeps.foldl (fun x13 x14 x15 => updCore_keeps x15) hs
    clear_value t7
    have h16 : Keeps s0 t8 := Keeps.of h12 rfl rfl rfl
    clear_value t8
    have h17 : Keeps s0 t9 := updPanel_keeps h16
    clear_value t9
    have h18 : Keeps s0 t10 := Keeps.of h17 rfl rfl rfl
    clear_value t10
    exact Keeps.ite hs (odCount_keeps (updKernel_keeps h18))

theorem onceEffect_keeps {s0 c} {f : State → State} {s} (hf : ∀ z0, Keeps s0 z0 → Keeps s0 (f z0)) (hs : Keeps s0 s) :
    Keeps s0 (onceEffect c f s) := by
  unfold onceEffect
  exact Keeps.ite (hf _ (updCore_keeps hs)) (odCount_keeps (updCore_keeps hs))

theorem translate_keeps {s0 h w x s} (hs : Keeps s0 s) : KeepsPair s0 (translate h w x s) := by
  unfold translate
  extract_lets -merge t1 t2 t3 t4 t5
  clear_value t1 t2
  have h8 : Keeps s0 t3 := portCount_keeps hs
  clear_value t3 t4 t5
  split
  · exact KeepsPair.mk (taintStale_keeps hs)
  · refine KeepsPair.ite (KeepsPair.mk h8) ?_
    split
    · exact KeepsPair.mk h8
    · exact KeepsPair.ite (KeepsPair.mk h8) (KeepsPair.ite (KeepsPair.mk h8) (KeepsPair.mk (updPort_keeps h8)))

theorem mgmtOut_keeps {s0 f s} (hs : Keeps s0 s) : Keeps s0 (mgmtOut f s) := by
  unfold mgmtOut
  extract_lets -merge t1
  clear_value t1
  exact odCount_keeps (Keeps.of hs rfl rfl rfl)

theorem portSend_keeps {s0 h x s} (hs : Keeps s0 s) : Keeps s0 (portSend h x s) := by
  unfold portSend
  extract_lets -merge t1
  clear_value t1
  split
  · exact portCount_keeps hs
  · exact portCount_keeps (portCount_keeps (updPort_keeps hs))
  · exact updPort_keeps hs

theorem outWrite_keeps {s0 h w a d s} (hs : Keeps s0 s) : KeepsPair s0 (outWrite h w a d s) := by
  unfold outWrite
  refine KeepsPair.ite (KeepsPair.mk hs) ?_
  refine KeepsPair.ite (KeepsPair.mk hs) ?_
  split
  · rename_i y1 y2 y3 y4
    have h5 : Keeps s0 y3 := KeepsPair.elim y4 (translate_keeps hs)
    exact KeepsPair.mk (portSend_keeps h5)
  · rename_i y6 y7 y8 y9
    have h10 : Keeps s0 y8 := KeepsPair.elim y9 (translate_keeps hs)
    exact KeepsPair.mk h10

theorem sendHeld_keeps {s0 s} (hs : Keeps s0 s) : Keeps s0 (sendHeld s) := by
  unfold sendHeld
  extract_lets -merge t1 t2
  clear_value t1 t2
  exact Keeps.foldl (fun x5 x6 x7 => mgmtOut_keeps x7) (Keeps.of hs rfl rfl rfl)

theorem abortPanel_keeps {s0 p event s} (hs : Keeps s0 s) : Keeps s0 (abortPanel p event s) := by
  unfold abortPanel
  exact Keeps.foldl (fun x1 x2 x3 => abortKernel_keeps x3) hs

theorem raiseVector_keeps {s0 h v s} (hs : Keeps s0 s) : Keeps s0 (raiseVector h v s) := by
  unfold raiseVector
  extract_lets -merge t1
  have h2 : Keeps s0 t1 := portSend_keeps hs
  clear_value t1
  exact Keeps.ite (Keeps.ite hs (updPort_keeps hs)) (Keeps.ite h2 (updPort_keeps h2))

theorem mgmtSend_keeps {s0 op body s} (hs : Keeps s0 s) : Keeps s0 (mgmtSend op body s) := by
  unfold mgmtSend
  extract_lets -merge t1
  clear_value t1
  exact Keeps.ite hs (Keeps.ite (mgmtOut_keeps hs) (Keeps.of hs rfl rfl rfl))

theorem sendEventFrame_keeps {s0 q e s} (hs : Keeps s0 s) : Keeps s0 (sendEventFrame q e s) := by
  unfold sendEventFrame
  exact Keeps.ite (odCount_keeps (mgmtSend_keeps hs)) hs

theorem flushRing_keeps {s0 h r a2 a3} (hs : Keeps s0 a3) : Keeps s0 (flushRing h r a2 a3) := by
  induction a2 generalizing a3 with
  | zero =>
    unfold flushRing
    exact hs
  | succ n ih =>
    unfold flushRing
    extract_lets -merge t1 t2
    clear_value t1 t2
    split
    · exact hs
    · refine Keeps.ite (updRing_keeps hs) ?_
      refine Keeps.ite hs ?_
      refine Keeps.ite ?_ hs
      split
      · rename_i y11 y12 y13
        have h14 : Keeps s0 y12 := KeepsPair.elim y13 (outWrite_keeps hs)
        exact updRing_keeps h14
      · rename_i y15 y16 y17
        have h18 : Keeps s0 y16 := KeepsPair.elim y17 (outWrite_keeps hs)
        exact ih (raiseVector_keeps (updRing_keeps h18))

theorem writeProducer_keeps {s0 p h w s} (hs : Keeps s0 s) : Keeps s0 (writeProducer p h w s) := by
  unfold writeProducer
  extract_lets -merge t1 t2
  clear_value t1 t2
  split
  · rename_i y5 y6 y7
    have h8 : Keeps s0 y6 := KeepsPair.elim y7 (outWrite_keeps hs)
    exact updPanel_keeps h8
  · rename_i y9 y10 y11
    have h12 : Keeps s0 y10 := KeepsPair.elim y11 (outWrite_keeps hs)
    exact raiseVector_keeps (updSlot_keeps h12)

theorem flushMgmt_keeps {s0 a0 a1} (hs : Keeps s0 a1) : Keeps s0 (flushMgmt a0 a1) := by
  induction a0 generalizing a1 with
  | zero =>
    unfold flushMgmt
    exact hs
  | succ n ih =>
    unfold flushMgmt
    split
    · exact hs
    · extract_lets -merge t7 t8
      clear_value t7 t8
      exact Keeps.ite (ih (sendEventFrame_keeps (Keeps.of hs rfl rfl rfl))) hs

theorem flushEvents_keeps {s0 p a1 a2} (hs : Keeps s0 a2) : Keeps s0 (flushEvents p a1 a2) := by
  induction a1 generalizing a2 with
  | zero =>
    unfold flushEvents
    exact hs
  | succ n ih =>
    unfold flushEvents
    refine Keeps.ite hs ?_
    split
    · extract_lets -merge t9 t10
      clear_value t9 t10
      refine Keeps.ite ?_ hs
      split
      · rename_i y13 y14 y15
        have h16 : Keeps s0 y14 := KeepsPair.elim y15 (outWrite_keeps hs)
        exact updPanel_keeps h16
      · rename_i y17 y18 y19
        have h20 : Keeps s0 y18 := KeepsPair.elim y19 (outWrite_keeps hs)
        exact ih (writeProducer_keeps (updPanel_keeps h20))
    · exact Keeps.ite hs (writeProducer_keeps hs)
    · exact hs

theorem completeRec_keeps {s0 h r recIdx hostTag type cqe status tag event s} (hs : Keeps s0 s) :
    Keeps s0 (completeRec h r recIdx hostTag type cqe status tag event s) := by
  unfold completeRec
  extract_lets -merge t1 t2
  have h3 : Keeps s0 t1 := updRing_keeps hs
  clear_value t1 t2
  exact Keeps.ite h3 (Keeps.ite (Keeps.ite (updPort_keeps h3) h3) (Keeps.ite h3 (flushRing_keeps (updRing_keeps h3))))

theorem postMgmtEvent_keeps {s0 e s} (hs : Keeps s0 s) : Keeps s0 (postMgmtEvent e s) := by
  unfold postMgmtEvent
  extract_lets -merge t1
  clear_value t1
  exact Keeps.ite (alertLevel_keeps (flushMgmt_keeps (Keeps.of hs rfl rfl rfl))) (odCount_keeps hs)

theorem postPanelEvent_keeps {s0 p e s} (hs : Keeps s0 s) : Keeps s0 (postPanelEvent p e s) := by
  unfold postPanelEvent
  exact Keeps.ite (flushEvents_keeps (updPanel_keeps hs)) (updPanel_keeps hs)

theorem postPanel_keeps {s0 p code src a b s} (hs : Keeps s0 s) : Keeps s0 (postPanel p code src a b s) := by
  unfold postPanel
  exact postPanelEvent_keeps hs

theorem postMgmt_keeps {s0 panel code src a b s} (hs : Keeps s0 s) : Keeps s0 (postMgmt panel code src a b s) := by
  unfold postMgmt
  exact postMgmtEvent_keeps hs

theorem postBoth_keeps {s0 p code src a b s} (hs : Keeps s0 s) : Keeps s0 (postBoth p code src a b s) := by
  unfold postBoth
  exact postMgmt_keeps (postPanel_keeps hs)

theorem coreFault_keeps {s0 c code src a b s} (hs : Keeps s0 s) : Keeps s0 (coreFault c code src a b s) := by
  unfold coreFault
  split
  · exact hs
  · exact abortKernel_keeps (postPanel_keeps hs)

theorem poisonLoss_keeps {s0 c s} (hs : Keeps s0 s) : Keeps s0 (poisonLoss c s) := by
  unfold poisonLoss
  extract_lets -merge t1 t2
  clear_value t1 t2
  split
  · exact hs
  · exact abortKernel_keeps (postBoth_keeps hs)

theorem coreAbort_keeps {s0 c code a s} (hs : Keeps s0 s) : Keeps s0 (coreAbort c code a s) := by
  unfold coreAbort
  exact coreFault_keeps hs

theorem regionAbort_keeps {s0 c a s} (hs : Keeps s0 s) : Keeps s0 (regionAbort c a s) := by
  unfold regionAbort
  exact coreAbort_keeps hs

theorem storeWrite_keeps {s0 c a b s} (hs : Keeps s0 s) : Keeps s0 (storeWrite c a b s) := by
  unfold storeWrite
  exact storeBytes_keeps hs

theorem vecWrite_keeps {s0 c fmt a l s} (hs : Keeps s0 s) : Keeps s0 (vecWrite c fmt a l s) := by
  unfold vecWrite
  exact storeWrite_keeps hs

theorem countConv_keeps {s0 p o s} (hs : Keeps s0 s) : Keeps s0 (countConv p o s) := by
  unfold countConv
  exact Keeps.ite hs (odCount_keeps (odCount_keeps (odCount_keeps (odCount_keeps hs))))

theorem noteRecord_keeps {s0 p a s} (hs : Keeps s0 s) : Keeps s0 (noteRecord p a s) := by
  unfold noteRecord
  exact Keeps.ite hs (updPanel_keeps hs)

theorem countCodes_keeps {s0 c p n s} (hs : Keeps s0 s) : Keeps s0 (countCodes c p n s) := by
  unfold countCodes
  exact Keeps.ite hs (Keeps.ite (odCount_keeps (updCore_keeps hs)) (updCore_keeps hs))

theorem noteSeen_keeps {s0 c idx a b s} (hs : Keeps s0 s) : Keeps s0 (noteSeen c idx a b s) := by
  unfold noteSeen
  exact updCore_keeps hs

theorem putScaleRec_keeps {s0 a t s} (hs : Keeps s0 s) : Keeps s0 (putScaleRec a t s) := by
  unfold putScaleRec
  exact storeBytes_keeps (storeBytes_keeps (storeBytes_keeps (storeBytes_keeps hs)))

theorem countReserved_keeps {s0 c p n s} (hs : Keeps s0 s) : Keeps s0 (countReserved c p n s) := by
  unfold countReserved
  extract_lets -merge t1
  have h2 : Keeps s0 t1 := countCodes_keeps hs
  clear_value t1
  refine Keeps.ite hs ?_
  split
  · exact h2
  · extract_lets -merge t8
    clear_value t8
    exact Keeps.ite h2 (onceEffect_keeps (fun x10 x11 => storeBytes_keeps x11) h2)

theorem storeRows_keeps {s0 c a pitch a3 a4} (hs : Keeps s0 a4) : Keeps s0 (storeRows c a pitch a3 a4) := by
  induction a3 generalizing a a4 with
  | nil =>
    unfold storeRows
    exact hs
  | cons b l ih =>
    unfold storeRows
    exact ih (storeWrite_keeps hs)

theorem contribute_keeps {s0 a o s} (hs : Keeps s0 s) : Keeps s0 (contribute a o s) := by
  unfold contribute
  extract_lets -merge t1
  clear_value t1
  exact putScaleRec_keeps hs

theorem closeOne_keeps {s0 p step s a} (hs : Keeps s0 s) : Keeps s0 (closeOne p step s a) := by
  unfold closeOne
  extract_lets -merge t1 t2 t3 t4
  clear_value t1 t2 t3
  have h8 : Keeps s0 t4 := updPanel_keeps hs
  clear_value t4
  exact putScaleRec_keeps h8

theorem convStore_keeps {s0 c x d o v dst len pitch sp s} (hs : Keeps s0 s) :
    Keeps s0 (convStore c x d o v dst len pitch sp s) := by
  unfold convStore
  extract_lets -merge t1 t2 t3
  have h4 : Keeps s0 t1 := storeRows_keeps hs
  clear_value t1
  have h5 : Keeps s0 t2 := Keeps.ite (storeRows_keeps h4) h4
  clear_value t2
  have h6 : Keeps s0 t3 := Keeps.ite (storeRows_keeps h5) h5
  clear_value t3
  exact Keeps.ite h6 (storeWrite_keeps h6)

theorem convRun_keeps {s0 c p x idx d v dst len pitch sp s} (hs : Keeps s0 s) :
    Keeps s0 (convRun c p x idx d v dst len pitch sp s) := by
  unfold convRun
  extract_lets -merge t1 t2 t3 t4 t5 t6
  clear_value t1 t2 t3
  have h10 : Keeps s0 t4 := Keeps.ite (taint_keeps hs) hs
  clear_value t4
  have h11 : Keeps s0 t5 := countConv_keeps (convStore_keeps h10)
  clear_value t5
  have h12 : Keeps s0 t6 := noteSeen_keeps h11
  clear_value t6
  exact Keeps.ite h11 (Keeps.ite (onceEffect_keeps (fun x13 x14 => contribute_keeps x14) (noteRecord_keeps h12)) h12)

theorem closeStep_keeps {s0 p y step src s} (hs : Keeps s0 s) : Keeps s0 (closeStep p y step src s) := by
  unfold closeStep
  extract_lets -merge t1 t2 t3 t4 t5 t6 t7 t8 t9 t10 t11 t12 t13 t14
  clear_value t1 t2 t3
  have h18 : Keeps s0 t4 := Keeps.foldl (fun x19 x20 x21 => closeOne_keeps x21) hs
  clear_value t4
  have h22 : Keeps s0 t5 := Keeps.of h18 rfl rfl rfl
  clear_value t5 t6 t7 t8 t9 t11 t12
  have h30 : Keeps s0 t13 := Keeps.ite (odCount_keeps h22) h22
  clear_value t13
  have h31 : Keeps s0 t14 := storeBytes_keeps h30
  clear_value t14
  exact Keeps.ite (postPanel_keeps h31) h31

theorem readOn_keeps {s0 stop M d got s} {effect : State → State}
    (heffect : ∀ z0, Keeps s0 z0 → Keeps s0 (effect z0))
    (hs : Keeps s0 s) :
    KeepsStart s0 (readOn stop M d got s effect) := by
  unfold readOn
  exact KeepsStart.ite (KeepsStart.started (heffect _ hs)) (KeepsStart.ite KeepsStart.hold (KeepsStart.partly hs))

theorem nTake_keeps {s0 c x f K n src s} (hs : Keeps s0 s) : KeepsOptPair s0 (nTake c x f K n src s) := by
  unfold nTake
  extract_lets -merge t1 t2 t3 t4 t5 t6
  clear_value t1 t2 t3 t4 t5 t6
  exact KeepsOptPair.ite (KeepsOptPair.ite KeepsOptPair.none (KeepsOptPair.some (updCore_keeps hs))) (KeepsOptPair.some hs)

theorem updArr_keeps {s0 c n} {f : Arr → Arr} {s} (hs : Keeps s0 s) : Keeps s0 (updArr c n f s) := by
  unfold updArr
  exact updCore_keeps hs

theorem countPass_keeps {s0 f s} (hs : Keeps s0 s) : Keeps s0 (countPass f s) := by
  unfold countPass
  extract_lets -merge t1
  have h2 : Keeps s0 t1 := odCount_keeps hs
  clear_value t1
  exact Keeps.ite (odCount_keeps (odCount_keeps h2)) h2

theorem needleAdd_keeps {s0 c p arr base rows n} {fin : RowInfo → Bool} {sum : Nat → Nat → Word32 → Word32 × Nat} {s}
    (hs : Keeps s0 s) :
    Keeps s0 (needleAdd c p arr base rows n fin sum s) := by
  unfold needleAdd
  refine Keeps.foldl ?_ hs
  intro x1 x2 x3
  extract_lets -merge t4 t5 t6
  clear_value t4 t5
  have h9 : Keeps s0 t6 := updArr_keeps x3
  clear_value t6
  exact Keeps.ite h9 (odCount_keeps h9)

theorem runRow_keeps {s0 c p n u f src k m r g s} (hs : Keeps s0 s) : Keeps s0 (runRow c p n u f src k m r g s) := by
  unfold runRow
  extract_lets -merge t1 t2 t3 t4 t5 t6 t7 t8
  clear_value t1 t2 t3 t4 t5 t6 t7
  have h16 : Keeps s0 t8 := Keeps.ite hs (odCount_keeps hs)
  clear_value t8
  exact updArr_keeps h16

theorem suppressRow_keeps {s0 c t base s r} (hs : Keeps s0 s) : Keeps s0 (suppressRow c t base s r) := by
  unfold suppressRow
  exact updArr_keeps hs

theorem runRows_keeps {s0 c p us f src k m g a8 a9} (hs : Keeps s0 a9) : Keeps s0 (runRows c p us f src k m g a8 a9) := by
  induction a8 generalizing a9 with
  | nil =>
    unfold runRows
    exact hs
  | cons b l ih =>
    unfold runRows
    extract_lets -merge t1
    clear_value t1
    exact ih (runRow_keeps hs)

theorem coreFail_keeps {s0 c s} (hs : Keeps s0 s) : Keeps s0 (coreFail c s) := by
  unfold coreFail
  extract_lets -merge t1 t2 t3 t4 t5 t6 t7
  clear_value t1 t2 t3 t4
  have h12 : ∀ z0 z1 z2, Keeps s0 z2 → Keeps s0 (t5 z0 z1 z2) := by
    unfold t5
    intro x13 x14 x15 x16
    split
    · rename_i y17 y18
      exact postBoth_keeps x16
    · rename_i y19
      exact postMgmt_keeps x16
  clear_value t5
  have h20 : Keeps s0 t6 := h12 _ _ _ hs
  clear_value t6
  have h21 : Keeps s0 t7 := by
    unfold t7
    split
    · exact abortKernel_keeps h20
    · exact h20
  clear_value t7
  exact Keeps.ite hs (Keeps.ite (updGroup_keeps (updCore_keeps h21)) (Keeps.ite (updCore_keeps (h12 _ _ _ hs)) (updCore_keeps hs)))

theorem startPass_keeps {s0 c p x f mis e s} (hs : Keeps s0 s) : KeepsStart s0 (startPass c p x f mis e s) := by
  unfold startPass
  extract_lets -merge t1 t2 t3 t4 t5 t6 t7 t8 t9 t10 t11
  clear_value t1 t2 t3 t4 t6 t7
  have h19 : Keeps s0 t8 := Keeps.ite hs (Keeps.foldl (fun x20 x21 x22 => updArr_keeps x22) hs)
  clear_value t8 t9 t10 t11
  refine KeepsStart.ite KeepsStart.hold ?_
  split
  · exact KeepsStart.stop (coreFault_keeps hs)
  · split
    · extract_lets -merge t37 t38 t39
      have h40 : Keeps s0 t37 := runRows_keeps h19
      clear_value t37
      have h41 : Keeps s0 t38 := Keeps.foldl (fun x42 x43 x44 => suppressRow_keeps x44) h40
      clear_value t38
      have h45 : Keeps s0 t39 := odCount_keeps (updArr_keeps h41)
      clear_value t39
      exact KeepsStart.ite KeepsStart.hold (KeepsStart.ite (KeepsStart.ite (KeepsStart.started h40) (KeepsStart.partly h40)) (KeepsStart.ite (KeepsStart.started h45) (KeepsStart.partly h45)))

theorem needleRefuse_keeps {s0 c src held streamed s} (hs : Keeps s0 s) :
    KeepsStart s0 (needleRefuse c src held streamed s) := by
  unfold needleRefuse
  exact KeepsStart.stop (coreFault_keeps hs)

theorem startNHold_keeps {s0 c x f s} (hs : Keeps s0 s) : KeepsStart s0 (startNHold c x f s) := by
  unfold startNHold
  extract_lets -merge t1 t2 t3 t4
  clear_value t1 t2 t3 t4
  refine KeepsStart.ite (needleRefuse_keeps hs) ?_
  split
  · exact KeepsStart.stop (coreAbort_keeps hs)
  · exact KeepsStart.started (updCore_keeps hs)

theorem startLoad_keeps {s0 c p x f s} (hs : Keeps s0 s) : KeepsStart s0 (startLoad c p x f s) := by
  unfold startLoad
  split
  · exact KeepsStart.stop (coreFault_keeps hs)
  · extract_lets -merge t7 t8 t9 t10 t11 t12 t13
    clear_value t7 t8 t9 t10 t11 t12
    have h20 : Keeps s0 t13 := Keeps.foldl (fun x21 x22 x23 => updArr_keeps x23) hs
    clear_value t13
    split
    · exact KeepsStart.stop (coreAbort_keeps hs)
    · exact KeepsStart.started (countReserved_keeps h20)

theorem doCheckRerun_keeps {s0 c n mis s} (hs : Keeps s0 s) : Keeps s0 (doCheckRerun c n mis s) := by
  unfold doCheckRerun
  extract_lets -merge t1
  clear_value t1
  split
  · split
    · exact hs
    · extract_lets -merge t16 t17 t18 t19 t20 t21 t22 t23 t24 t25
      clear_value t16 t17 t18 t19 t20
      have h31 : Keeps s0 t21 := odCount_keeps (odCount_keeps hs)
      clear_value t21 t22
      have h33 : Keeps s0 t23 := Keeps.foldl (fun x34 x35 x36 => updArr_keeps x36) h31
      clear_value t23
      have h37 : Keeps s0 t24 := runRows_keeps h33
      clear_value t24
      have h38 : Keeps s0 t25 := updArr_keeps h37
      clear_value t25
      exact Keeps.ite (updCore_keeps (updArr_keeps h37)) (Keeps.ite (coreFail_keeps (odCount_keeps (Keeps.foldl (fun x39 x40 x41 => updArr_keeps x41) h38))) h38)
  · exact hs

theorem needleCheck_keeps {s0 c n} {go : State → State} {s} (hgo : ∀ z0, Keeps s0 z0 → Keeps s0 (go z0)) (hs : Keeps s0 s) :
    KeepsStart s0 (needleCheck c n go s) := by
  unfold needleCheck
  extract_lets -merge t1
  clear_value t1
  exact KeepsStart.ite (KeepsStart.started (hgo _ hs)) (KeepsStart.ite (KeepsStart.stop (coreFail_keeps (odCount_keeps (odCount_keeps (odCount_keeps hs))))) (KeepsStart.started (hgo _ (odCount_keeps (odCount_keeps hs)))))

theorem startNGraft2_keeps {s0 c p x f mis e s} (hs : Keeps s0 s) : KeepsStart s0 (startNGraft2 c p x f mis e s) := by
  unfold startNGraft2
  extract_lets -merge t1 t2 t3 t4 t5
  clear_value t1 t2 t3 t4 t5
  refine KeepsStart.ite (needleRefuse_keeps hs) ?_
  refine KeepsStart.ite (KeepsStart.stop (coreFault_keeps hs)) ?_
  split
  · exact KeepsStart.stop (coreAbort_keeps hs)
  · refine KeepsStart.ite KeepsStart.hold ?_
    split
    · rename_i y16 y17
      exact KeepsStart.hold
    · rename_i y18 y19 y20 y21
      have h22 : Keeps s0 y20 := KeepsOptPair.elim y21 (nTake_keeps hs)
      exact needleCheck_keeps (fun x23 x24 => needleAdd_keeps (countReserved_keeps x24)) h22

theorem startNGraft1_keeps {s0 c p x f mis s} (hs : Keeps s0 s) : KeepsStart s0 (startNGraft1 c p x f mis s) := by
  unfold startNGraft1
  extract_lets -merge t1 t2 t3
  clear_value t1 t2 t3
  refine KeepsStart.ite (needleRefuse_keeps hs) ?_
  split
  · exact KeepsStart.stop (coreAbort_keeps hs)
  · split
    · rename_i y12 y13
      exact KeepsStart.hold
    · rename_i y14 y15 y16 y17
      have h18 : Keeps s0 y16 := KeepsOptPair.elim y17 (nTake_keeps hs)
      refine needleCheck_keeps ?_ h18
      intro x19 x20
      extract_lets -merge t21 t22 t23
      have h24 : Keeps s0 t21 := countReserved_keeps x20
      clear_value t21 t22
      have h26 : Keeps s0 t23 := updCore_keeps h24
      clear_value t23
      exact Keeps.ite h26 (odCount_keeps h26)

theorem convStart_keeps {s0 c p x foot idx da rows len mixed} {ext : ConvDesc → List (Nat × Nat)} {s} {run : ConvDesc → Start}
    (hrun : ∀ z0, KeepsStart s0 (run z0))
    (hs : Keeps s0 s) :
    KeepsStart s0 (convStart c p x foot idx da rows len mixed ext s run) := by
  unfold convStart
  split
  · refine KeepsStart.stop ?_
    split
    · exact coreAbort_keeps hs
    · exact coreAbort_keeps hs
  · extract_lets -merge t9
    clear_value t9
    split
    · exact KeepsStart.stop (coreAbort_keeps hs)
    · split
      · exact KeepsStart.stop (coreAbort_keeps hs)
      · split
        · exact KeepsStart.stop (coreAbort_keeps hs)
        · split
          · exact KeepsStart.stop (regionAbort_keeps hs)
          · exact KeepsStart.hold
          · exact hrun _

theorem startNStream_keeps {s0 c p x f mis e s} (hs : Keeps s0 s) : KeepsStart s0 (startNStream c p x f mis e s) := by
  unfold startNStream
  extract_lets -merge t1 t2 t3 t4 t5
  clear_value t1 t2 t3 t4 t5
  refine KeepsStart.ite (needleRefuse_keeps hs) ?_
  refine KeepsStart.ite (KeepsStart.stop (coreFault_keeps hs)) ?_
  split
  · exact KeepsStart.stop (coreAbort_keeps hs)
  · refine KeepsStart.ite KeepsStart.hold ?_
    split
    · rename_i y16 y17
      exact KeepsStart.hold
    · rename_i y18 y19 y20 y21
      have h22 : Keeps s0 y20 := KeepsOptPair.elim y21 (nTake_keeps hs)
      exact needleCheck_keeps (fun x23 x24 => needleAdd_keeps (countReserved_keeps x24)) h22

theorem startDrain_keeps {s0 c p x f e s} (hs : Keeps s0 s) : KeepsStart s0 (startDrain c p x f e s) := by
  unfold startDrain
  extract_lets -merge t1 t2 t3 t4 t5 t6 t7 t8 t9 t10 t11 t12 t13 t14 t15 t16
  clear_value t1 t2 t3 t4 t5 t6 t7 t8 t9 t10 t11 t12 t13 t14 t15 t16
  refine KeepsStart.ite (KeepsStart.stop (coreFault_keeps hs)) ?_
  refine KeepsStart.ite KeepsStart.hold ?_
  refine KeepsStart.ite (convStart_keeps (fun x33 => readOn_keeps (fun x34 x35 => convRun_keeps x35) hs) hs) ?_
  split
  · exact KeepsStart.stop (coreAbort_keeps hs)
  · split
    · exact KeepsStart.stop (coreAbort_keeps hs)
    · exact readOn_keeps (fun x44 x45 => Keeps.ite (storeRows_keeps x45) (updCore_keeps x45)) hs

theorem operandA_keeps {s0 c p x fmt a h s} (hs : Keeps s0 s) : KeepsOptPair s0 (operandA c p x fmt a h s) := by
  unfold operandA
  extract_lets -merge t1
  clear_value t1
  refine KeepsOptPair.ite ?_ (KeepsOptPair.some hs)
  split
  · exact KeepsOptPair.none
  · extract_lets -merge t9 t10
    have h11 : Keeps s0 t9 := updCore_keeps hs
    clear_value t9 t10
    exact KeepsOptPair.some (Keeps.ite h11 (taint_keeps h11))

theorem scanSteps_keeps {s0 c fmt n src dst a5 a6 a7} (hs : Keeps s0 a7) :
    KeepsPair s0 (scanSteps c fmt n src dst a5 a6 a7) := by
  induction a5 generalizing src dst a6 a7 with
  | zero =>
    unfold scanSteps
    exact KeepsPair.mk hs
  | succ n ih =>
    unfold scanSteps
    extract_lets -merge t1 t2
    clear_value t1 t2
    exact ih (vecWrite_keeps hs)

theorem startVScan_keeps {s0 c x f s} (hs : Keeps s0 s) : KeepsStart s0 (startVScan c x f s) := by
  unfold startVScan
  extract_lets -merge t1 t2 t3 t4
  clear_value t1 t2 t3
  have h8 : KeepsPair s0 t4 := scanSteps_keeps hs
  clear_value t4
  split
  · exact KeepsStart.stop (coreAbort_keeps hs)
  · exact KeepsStart.started (vecWrite_keeps (KeepsPair.snd h8))

theorem startFLoad_keeps {s0 c x slot image s} (hs : Keeps s0 s) : KeepsStart s0 (startFLoad c x slot image s) := by
  unfold startFLoad
  extract_lets -merge t1 t2
  clear_value t1 t2
  split
  · exact KeepsStart.stop (coreAbort_keeps hs)
  · exact KeepsStart.started (updCore_keeps hs)

theorem startVMask_keeps {s0 c p x f s} (hs : Keeps s0 s) : KeepsStart s0 (startVMask c p x f s) := by
  unfold startVMask
  extract_lets -merge t1 t2 t3 t4 t5 t6 t7
  clear_value t1 t2 t3 t4 t5 t6 t7
  split
  · exact KeepsStart.stop (coreAbort_keeps hs)
  · refine KeepsStart.ite (KeepsStart.stop (coreAbort_keeps hs)) ?_
    split
    · rename_i y20 y21
      exact KeepsStart.hold
    · rename_i y22 y23 y24 y25
      have h26 : Keeps s0 y24 := KeepsOptPair.elim y25 (operandA_keeps hs)
      extract_lets -merge t27
      clear_value t27
      exact KeepsStart.started (vecWrite_keeps h26)

theorem withStored_keeps {s0 c x fmt a n ext s} {go : List Word32 → State → State}
    (hgo : ∀ z0 z1, Keeps s0 z1 → Keeps s0 (go z0 z1))
    (hs : Keeps s0 s) :
    KeepsStart s0 (withStored c x fmt a n ext s go) := by
  unfold withStored
  split
  · exact KeepsStart.stop (coreAbort_keeps hs)
  · exact KeepsStart.started (hgo _ _ hs)

theorem withA_keeps {s0 c p x fmt a h ext s} {go : List Word32 → State → State}
    (hgo : ∀ z0 z1, Keeps s0 z1 → Keeps s0 (go z0 z1))
    (hs : Keeps s0 s) :
    KeepsStart s0 (withA c p x fmt a h ext s go) := by
  unfold withA
  split
  · exact KeepsStart.stop (coreAbort_keeps hs)
  · split
    · rename_i y6 y7
      exact KeepsStart.hold
    · rename_i y8 y9 y10 y11
      have h12 : Keeps s0 y10 := KeepsOptPair.elim y11 (operandA_keeps hs)
      exact KeepsStart.started (hgo _ _ h12)

theorem startVRow_keeps {s0 c p x f s} (hs : Keeps s0 s) : KeepsStart s0 (startVRow c p x f s) := by
  unfold startVRow
  extract_lets -merge t1 t2 t3 t4
  clear_value t1 t2 t4
  refine withA_keeps ?_ hs
  intro x9 x10 x11
  extract_lets -merge t12 t13 t14
  clear_value t12 t13 t14
  exact vecWrite_keeps x11

theorem startFDeriv_keeps {s0 c x f idx s} (hs : Keeps s0 s) : KeepsStart s0 (startFDeriv c x f idx s) := by
  unfold startFDeriv
  extract_lets -merge t1
  clear_value t1
  split
  · exact KeepsStart.stop (coreAbort_keeps hs)
  · refine withStored_keeps ?_ hs
    intro x8 x9 x10
    extract_lets -merge t11
    clear_value t11
    exact odCount_keeps (odCount_keeps (vecWrite_keeps x10))

theorem startVUn_keeps {s0 c p x f s} (hs : Keeps s0 s) : KeepsStart s0 (startVUn c p x f s) := by
  unfold startVUn
  extract_lets -merge t1
  clear_value t1
  exact withA_keeps (fun x3 x4 x5 => vecWrite_keeps x5) hs

theorem startVRed_keeps {s0 c p x f s} (hs : Keeps s0 s) : KeepsStart s0 (startVRed c p x f s) := by
  unfold startVRed
  extract_lets -merge t1 t2
  clear_value t1 t2
  exact withA_keeps (fun x5 x6 x7 => vecWrite_keeps x7) hs

theorem startVBin_keeps {s0 c p x f s} (hs : Keeps s0 s) : KeepsStart s0 (startVBin c p x f s) := by
  unfold startVBin
  extract_lets -merge t1 t2 t3
  clear_value t1 t2
  refine withA_keeps ?_ hs
  intro x7 x8 x9
  extract_lets -merge t10
  clear_value t10
  exact vecWrite_keeps x9

theorem startVSoft_keeps {s0 c p x f s} (hs : Keeps s0 s) : KeepsStart s0 (startVSoft c p x f s) := by
  unfold startVSoft
  extract_lets -merge t1 t2
  clear_value t1 t2
  refine withA_keeps ?_ hs
  intro x5 x6 x7
  extract_lets -merge t8 t9 t10 t11
  clear_value t8 t9
  have h14 : Keeps s0 t10 := Keeps.ite x7 (vecWrite_keeps x7)
  clear_value t10
  have h15 : Keeps s0 t11 := vecWrite_keeps h14
  clear_value t11
  exact vecWrite_keeps h15

theorem startFEval_keeps {s0 c x f idx s} (hs : Keeps s0 s) : KeepsStart s0 (startFEval c x f idx s) := by
  unfold startFEval
  extract_lets -merge t1
  clear_value t1
  split
  · exact KeepsStart.stop (coreAbort_keeps hs)
  · exact withStored_keeps (fun x8 x9 x10 => odCount_keeps (vecWrite_keeps x10)) hs

theorem startVFma_keeps {s0 c p x f s} (hs : Keeps s0 s) : KeepsStart s0 (startVFma c p x f s) := by
  unfold startVFma
  extract_lets -merge t1 t2
  clear_value t1 t2
  refine withA_keeps ?_ hs
  intro x5 x6 x7
  extract_lets -merge t8 t9
  clear_value t8 t9
  exact vecWrite_keeps x7

theorem startVCvt_keeps {s0 c p x f idx s} (hs : Keeps s0 s) : KeepsStart s0 (startVCvt c p x f idx s) := by
  unfold startVCvt
  extract_lets -merge t1 t2 t3
  clear_value t1 t2 t3
  refine convStart_keeps ?_ hs
  intro x7
  split
  · rename_i y8 y9
    exact KeepsStart.hold
  · rename_i y10 y11 y12 y13
    have h14 : Keeps s0 y12 := KeepsOptPair.elim y13 (operandA_keeps hs)
    exact KeepsStart.started (convRun_keeps h14)

theorem writeNorms_keeps {s0 a slot step w2 g2 d2 s} (hs : Keeps s0 s) : Keeps s0 (writeNorms a slot step w2 g2 d2 s) := by
  unfold writeNorms
  extract_lets -merge t1 t2 t3
  have h4 : Keeps s0 t1 := storeBytes_keeps hs
  clear_value t1 t2 t3
  exact Keeps.ite (storeBytes_keeps (storeBytes_keeps h4)) h4

theorem carryGroup_keeps {s0 t b mask mult restart s g} (hs : Keeps s0 s) :
    Keeps s0 (carryGroup t b mask mult restart s g) := by
  unfold carryGroup
  extract_lets -merge t1 t2
  clear_value t1
  have h4 : KeepsPair s0 t2 := freshVal_keeps hs
  clear_value t2
  exact Keeps.ite (storeBytes_keeps (KeepsPair.snd h4)) (storeBytes_keeps hs)

theorem applySchedule_keeps {s0 t body s} (hs : Keeps s0 s) : Keeps s0 (applySchedule t body s) := by
  unfold applySchedule
  extract_lets -merge t1 t2 t3 t4 t5 t6
  clear_value t1 t2 t3 t4 t5
  have h12 : Keeps s0 t6 := Keeps.foldl (fun x13 x14 x15 => carryGroup_keeps x15) hs
  clear_value t6
  exact storeBytes_keeps h12

theorem storeChunk_keeps {s0 c x d es s} (hs : Keeps s0 s) : Keeps s0 (storeChunk c x d es s) := by
  unfold storeChunk
  extract_lets -merge t1 t2 t3 t4
  clear_value t1
  have h6 : Keeps s0 t2 := storeWrite_keeps hs
  clear_value t2
  have h7 : Keeps s0 t3 := Keeps.ite (storeWrite_keeps h6) h6
  clear_value t3
  have h8 : Keeps s0 t4 := storeWrite_keeps h7
  clear_value t4
  exact Keeps.ite (storeWrite_keeps h8) h8

theorem postOnce_keeps {s0 p code src tag step b s} (hs : Keeps s0 s) : Keeps s0 (postOnce p code src tag step b s) := by
  unfold postOnce
  exact Keeps.ite hs (postPanel_keeps (updPanel_keeps hs))

theorem runVOpt_keeps {s0 c p x idx d s} (hs : Keeps s0 s) : Keeps s0 (runVOpt c p x idx d s) := by
  unfold runVOpt
  extract_lets -merge t1 t2 t3 t4 t5 t6 t7 t8 t9 t10 t11 t12 t13 t14 t15 t16 t17 t18 t19 t20 t21 t22 t23
  clear_value t1 t2 t3 t4 t5
  have h29 : Keeps s0 t6 := Keeps.ite (taint_keeps hs) hs
  clear_value t6
  have h30 : Keeps s0 t7 := noteSeen_keeps h29
  clear_value t7 t8
  have h32 : Keeps s0 t9 := storeBytes_keeps h30
  clear_value t9 t10
  have h34 : Keeps s0 t11 := Keeps.ite (postOnce_keeps h32) h32
  clear_value t11 t12 t13
  have h37 : Keeps s0 t14 := Keeps.ite (postOnce_keeps (Keeps.ite (odCount_keeps h34) h34)) h34
  clear_value t14 t15 t16
  have h40 : Keeps s0 t17 := storeChunk_keeps h37
  clear_value t17 t18
  have h42 : Keeps s0 t19 := odCount_keeps (odCount_keeps h40)
  clear_value t19
  have h43 : Keeps s0 t20 := Keeps.ite h42 (odCount_keeps (odCount_keeps h42))
  clear_value t20
  have h44 : Keeps s0 t21 := by
    unfold t21
    refine Keeps.ite h37 ?_
    refine onceEffect_keeps ?_ h43
    intro x45 x46
    extract_lets -merge t47
    clear_value t47
    exact storeBytes_keeps x46
  clear_value t21 t22
  have h50 : Keeps s0 t23 := Keeps.ite (convRun_keeps h44) h44
  clear_value t23
  exact Keeps.ite (writeNorms_keeps h50) h50

theorem voptRefusal_keeps {s0 s c p x alg desc idx d} (hs : Keeps s0 s) :
    KeepsOpt s0 (voptRefusal s c p x alg desc idx d) := by
  unfold voptRefusal
  split
  · exact KeepsOpt.some (coreAbort_keeps hs)
  · split
    · exact KeepsOpt.some (coreAbort_keeps hs)
    · split
      · exact KeepsOpt.some (coreFault_keeps (odCount_keeps hs))
      · split
        · exact KeepsOpt.some (coreAbort_keeps hs)
        · split
          · exact KeepsOpt.some (regionAbort_keeps hs)
          · split
            · exact KeepsOpt.some (regionAbort_keeps hs)
            · exact KeepsOpt.some (regionAbort_keeps hs)
            · exact KeepsOpt.none

theorem startVOpt_keeps {s0 c p x alg desc idx s} (hs : Keeps s0 s) : KeepsStart s0 (startVOpt c p x alg desc idx s) := by
  unfold startVOpt
  extract_lets -merge t1 t2
  clear_value t1 t2
  split
  · exact KeepsStart.stop (coreAbort_keeps hs)
  · split
    · rename_i y10 y11 y12
      have h13 : Keeps s0 y11 := KeepsOpt.elim y12 (voptRefusal_keeps hs)
      exact KeepsStart.stop h13
    · rename_i y14 y15
      exact KeepsStart.ite KeepsStart.hold (KeepsStart.started (runVOpt_keeps hs))

end Sys2Proof.Machine
end

