-- ==== Sys2Proof/Laws/KeepsNet.lean ====
section
/-! SUPPORT. What is kept (Laws/Keeps.lean) by the operations of packets, knots, restores, the mover and the queues. -/
namespace Sys2Proof.Machine

theorem updLink_keeps {s0 l} {f : Link → Link} {s} (hs : Keeps s0 s) : Keeps s0 (updLink l f s) := by
  unfold updLink
  exact Keeps.of hs rfl rfl rfl

theorem updQp_keeps {s0 q} {f : Qp → Qp} {s} (hs : Keeps s0 s) : Keeps s0 (updQp q f s) := by
  unfold updQp
  exact Keeps.of hs rfl rfl rfl

theorem waitOn_keeps {s0 l p vc sub src s} (hs : Keeps s0 s) : Keeps s0 (waitOn l p vc sub src s) := by
  unfold waitOn
  exact updLink_keeps hs

theorem linkCount_keeps {s0 l o n s} (hs : Keeps s0 s) : Keeps s0 (linkCount l o n s) := by
  unfold linkCount
  exact Keeps.ite hs (updLink_keeps hs)

theorem linkEmit_keeps {s0 l x s} (hs : Keeps s0 s) : Keeps s0 (linkEmit l x s) := by
  unfold linkEmit
  exact updLink_keeps hs

theorem emitFlit_keeps {s0 l f s} (hs : Keeps s0 s) : Keeps s0 (emitFlit l f s) := by
  unfold emitFlit
  exact linkCount_keeps (linkEmit_keeps hs)

theorem msgCount_keeps {s0 p sub n s} (hs : Keeps s0 s) : Keeps s0 (msgCount p sub n s) := by
  unfold msgCount
  exact Keeps.ite hs (odCount_keeps hs)

theorem noteWait_keeps {s0 l held s} (hs : Keeps s0 s) : Keeps s0 (noteWait l held s) := by
  unfold noteWait
  split
  · exact updLink_keeps hs
  · exact linkCount_keeps (updLink_keeps hs)
  · exact hs

theorem sealPkt_keeps {s0 q pkt s} (hs : Keeps s0 s) : KeepsOptPair s0 (sealPkt q pkt s) := by
  unfold sealPkt
  extract_lets -merge t1 t2 t3 t4 t5 t6
  clear_value t1 t2 t3 t4 t5 t6
  exact KeepsOptPair.ite (KeepsOptPair.some hs) (KeepsOptPair.ite KeepsOptPair.none (KeepsOptPair.some (updPanel_keeps hs)))

theorem sentWhole_keeps {s0 l ends s} (hs : Keeps s0 s) : Keeps s0 (sentWhole l ends s) := by
  unfold sentWhole
  exact linkCount_keeps (updLink_keeps hs)

theorem dropSend_keeps {s0 c m s} (hs : Keeps s0 s) : Keeps s0 (dropSend c m s) := by
  unfold dropSend
  exact updCore_keeps hs

theorem sendPlainFlit_keeps {s0 l type s} (hs : Keeps s0 s) : Keeps s0 (sendPlainFlit l type s) := by
  unfold sendPlainFlit
  extract_lets -merge t1
  clear_value t1
  exact emitFlit_keeps (updLink_keeps hs)

theorem sendFrame_keeps {s0 l w s} (hs : Keeps s0 s) : Keeps s0 (sendFrame l w s) := by
  unfold sendFrame
  exact sentWhole_keeps (linkCount_keeps (linkEmit_keeps hs))

theorem endSends_keeps {s0 q event s} (hs : Keeps s0 s) : Keeps s0 (endSends q event s) := by
  unfold endSends
  extract_lets -merge t1 t2 t3 t4 t5
  clear_value t1 t2
  have h8 : Keeps s0 t3 := Keeps.foldl (fun x9 x10 x11 => updCore_keeps x11) hs
  clear_value t3
  have h12 : Keeps s0 t4 := Keeps.foldl (fun x13 x14 x15 => abortKernel_keeps x15) h8
  clear_value t4
  have h16 : Keeps s0 t5 := Keeps.foldl (fun x17 x18 x19 => dropSend_keeps x19) h12
  clear_value t5
  exact updQp_keeps h16

theorem sendNumbered_keeps {s0 l f s} (hs : Keeps s0 s) : Keeps s0 (sendNumbered l f s) := by
  unfold sendNumbered
  extract_lets -merge t1 t2
  clear_value t1 t2
  exact emitFlit_keeps (updLink_keeps hs)

theorem sendStream_keeps {s0 l key s} (hs : Keeps s0 s) : Keeps s0 (sendStream l key s) := by
  unfold sendStream
  extract_lets -merge t1 t2 t3
  clear_value t1 t2
  have h6 : Keeps s0 t3 := updLink_keeps hs
  clear_value t3
  exact sentWhole_keeps (sendNumbered_keeps h6)

theorem drainCtl_keeps {s0 l a1 a2} (hs : Keeps s0 a2) : Keeps s0 (drainCtl l a1 a2) := by
  induction a1 generalizing a2 with
  | zero =>
    unfold drainCtl
    exact hs
  | succ n ih =>
    unfold drainCtl
    split
    · exact hs
    · exact Keeps.ite (ih (sendNumbered_keeps (updLink_keeps hs))) hs

theorem evictQp_keeps {s0 q s} (hs : Keeps s0 s) : Keeps s0 (evictQp q s) := by
  unfold evictQp
  extract_lets -merge t1 t2
  clear_value t1 t2
  split
  · rename_i y5 y6 y7 y8
    have h9 : Keeps s0 y7 := KeepsPair.elim y8 (freshBytes_keeps hs)
    extract_lets -merge t10 t11 t12 t13
    clear_value t10
    have h15 : Keeps s0 t11 := updQp_keeps (Keeps.of h9 rfl rfl rfl)
    clear_value t11
    have h16 : Keeps s0 t12 := msgCount_keeps h15
    clear_value t12 t13
    exact Keeps.ite (storeBytes_keeps h16) (KeepsPair.snd (outWrite_keeps h16))

theorem drainLink_keeps {s0 l a1 a2} (hs : Keeps s0 a2) : Keeps s0 (drainLink l a1 a2) := by
  induction a1 generalizing a2 with
  | zero =>
    unfold drainLink
    exact hs
  | succ n ih =>
    unfold drainLink
    extract_lets -merge t1
    clear_value t1
    split
    · exact noteWait_keeps hs
    · exact Keeps.ite (ih (sendFrame_keeps (updLink_keeps hs))) (Keeps.ite (ih (sendStream_keeps hs)) hs)

theorem cacheRoom_keeps {s0 s} (hs : Keeps s0 s) : KeepsOpt s0 (cacheRoom s) := by
  unfold cacheRoom
  split
  · exact KeepsOpt.some hs
  · exact KeepsOpt.map fun q => evictQp_keeps hs

theorem sendLinkctl_keeps {s0 l m s} (hs : Keeps s0 s) : Keeps s0 (sendLinkctl l m s) := by
  unfold sendLinkctl
  exact drainCtl_keeps (updLink_keeps hs)

theorem setRecvStatus_keeps {s0 x n st s} (hs : Keeps s0 s) : Keeps s0 (setRecvStatus x n st s) := by
  unfold setRecvStatus
  exact writeBytes_keeps hs

theorem pumpLink_keeps {s0 l s} (hs : Keeps s0 s) : Keeps s0 (pumpLink l s) := by
  unfold pumpLink
  extract_lets -merge t1
  have h2 : Keeps s0 t1 := drainCtl_keeps hs
  clear_value t1
  exact Keeps.ite hs (drainLink_keeps h2)

theorem touchQp_keeps {s0 q s} (hs : Keeps s0 s) : Keeps s0 (touchQp q s) := by
  unfold touchQp
  refine Keeps.ite (Keeps.of hs rfl rfl rfl) ?_
  split
  · rename_i y1 y2
    exact hs
  · rename_i y3 y4 y5
    have h6 : Keeps s0 y4 := KeepsOpt.elim y5 (cacheRoom_keeps hs)
    exact updQp_keeps (Keeps.of h6 rfl rfl rfl)

theorem queueOn_keeps {s0 l p vc sub src s} (hs : Keeps s0 s) : Keeps s0 (queueOn l p vc sub src s) := by
  unfold queueOn
  exact pumpLink_keeps (waitOn_keeps hs)

theorem sendSprayed_keeps {s0 t p s} (hs : Keeps s0 s) : Keeps s0 (sendSprayed t p s) := by
  unfold sendSprayed
  split
  · exact queueOn_keeps hs
  · exact Keeps.of hs rfl rfl rfl

theorem postNoPath_keeps {s0 src dst s} (hs : Keeps s0 s) : Keeps s0 (postNoPath src dst s) := by
  unfold postNoPath
  extract_lets -merge t1
  have h2 : Keeps s0 t1 := postMgmt_keeps (Keeps.of hs rfl rfl rfl)
  clear_value t1
  exact Keeps.ite hs (Keeps.foldl (fun x3 x4 x5 => postPanel_keeps x5) h2)

theorem qpError_keeps {s0 q cause status msg psn s} (hs : Keeps s0 s) : Keeps s0 (qpError q cause status msg psn s) := by
  unfold qpError
  extract_lets -merge t1 t2 t3 t4 t5
  clear_value t1
  have h7 : Keeps s0 t2 := updQp_keeps hs
  clear_value t2
  have h8 : Keeps s0 t3 := endSends_keeps h7
  clear_value t3
  have h9 : Keeps s0 t4 := Keeps.foldl (fun x10 x11 x12 => setRecvStatus_keeps x12) h8
  clear_value t4
  have h13 : Keeps s0 t5 := updQp_keeps h9
  clear_value t5
  exact Keeps.ite hs (postPanel_keeps h13)

theorem sendOrdered_keeps {s0 vc t arrived p s} (hs : Keeps s0 s) : Keeps s0 (sendOrdered vc t arrived p s) := by
  unfold sendOrdered
  extract_lets -merge t1 t2 t3 t4 t5
  clear_value t1 t2 t4
  have h10 : Keeps s0 t5 := Keeps.of hs rfl rfl rfl
  clear_value t5
  split
  · exact Keeps.ite (postNoPath_keeps hs) hs
  · split
    · exact h10
    · extract_lets -merge t22
      have h23 : Keeps s0 t22 := odCount_keeps h10
      clear_value t22
      exact queueOn_keeps h23

theorem retrySprayed_keeps {s0 s} (hs : Keeps s0 s) : Keeps s0 (retrySprayed s) := by
  unfold retrySprayed
  exact Keeps.foldl (fun x1 x2 x3 => sendSprayed_keeps x3) (Keeps.of hs rfl rfl rfl)

theorem spentKey_keeps {s0 q msg psn s} (hs : Keeps s0 s) : Keeps s0 (spentKey q msg psn s) := by
  unfold spentKey
  extract_lets -merge t1
  clear_value t1
  exact Keeps.foldl (fun x3 x4 x5 => qpError_keeps x5) hs

theorem netSend_keeps {s0 core p s} (hs : Keeps s0 s) : Keeps s0 (netSend core p s) := by
  unfold netSend
  extract_lets -merge t1 t2 t3 t4
  clear_value t1 t2 t3 t4
  exact Keeps.ite (Keeps.ite (sendSprayed_keeps hs) (sendOrdered_keeps hs)) (Keeps.ite (Keeps.ite hs (postNoPath_keeps hs)) (queueOn_keeps (Keeps.of hs rfl rfl rfl)))

theorem sendPlain_keeps {s0 q op ece payload s} (hs : Keeps s0 s) : Keeps s0 (sendPlain q op ece payload s) := by
  unfold sendPlain
  extract_lets -merge t1 t2
  clear_value t1 t2
  split
  · rename_i y5 y6
    exact spentKey_keeps hs
  · rename_i y7 y8 y9 y10
    have h11 : Keeps s0 y9 := KeepsOptPair.elim y10 (sealPkt_keeps hs)
    exact netSend_keeps h11

theorem pumpQp_keeps {s0 q a1 a2} (hs : Keeps s0 a2) : Keeps s0 (pumpQp q a1 a2) := by
  induction a1 generalizing a2 with
  | zero =>
    unfold pumpQp
    exact hs
  | succ n ih =>
    unfold pumpQp
    extract_lets -merge t1
    clear_value t1
    split
    · exact hs
    · extract_lets -merge t9 t10 t11
      clear_value t9 t10 t11
      refine Keeps.ite hs ?_
      split
      · rename_i y15 y16
        exact spentKey_keeps hs
      · rename_i y17 y18 y19 y20
        have h21 : Keeps s0 y19 := KeepsOptPair.elim y20 (sealPkt_keeps hs)
        exact ih (msgCount_keeps (netSend_keeps (updQp_keeps h21)))

theorem sendNak_keeps {s0 q code psn s} (hs : Keeps s0 s) : Keeps s0 (sendNak q code psn s) := by
  unfold sendNak
  exact msgCount_keeps (sendPlain_keeps hs)

theorem pumpPanel_keeps {s0 p s} (hs : Keeps s0 s) : Keeps s0 (pumpPanel p s) := by
  unfold pumpPanel
  exact Keeps.foldl (fun x1 x2 x3 => pumpQp_keeps x3) hs

theorem qpSend_keeps {s0 q o s} (hs : Keeps s0 s) : Keeps s0 (qpSend q o s) := by
  unfold qpSend
  exact pumpQp_keeps (touchQp_keeps (updQp_keeps hs))

theorem sendAck_keeps {s0 q s} (hs : Keeps s0 s) : Keeps s0 (sendAck q s) := by
  unfold sendAck
  extract_lets -merge t1
  clear_value t1
  exact sendPlain_keeps (updQp_keeps hs)

theorem sendKnot_keeps {s0 q c addr op value count tag kid s} (hs : Keeps s0 s) :
    Keeps s0 (sendKnot q c addr op value count tag kid s) := by
  unfold sendKnot
  extract_lets -merge t1
  clear_value t1
  exact qpSend_keeps hs

theorem sendWake_keeps {s0 q addr result core count s} (hs : Keeps s0 s) :
    Keeps s0 (sendWake q addr result core count s) := by
  unfold sendWake
  extract_lets -merge t1
  clear_value t1
  exact qpSend_keeps hs

theorem waitHere_keeps {s0 c i op mode v s} (hs : Keeps s0 s) : KeepsStart s0 (waitHere c i op mode v s) := by
  unfold waitHere
  exact KeepsStart.ite (KeepsStart.started hs) (KeepsStart.started (Keeps.of hs rfl rfl rfl))

theorem setKnot_keeps {s0 i k s} (hs : Keeps s0 s) : Keeps s0 (setKnot i k s) := by
  unfold setKnot
  exact Keeps.of hs rfl rfl rfl

theorem taintRestore_keeps {s0 p i s} (hs : Keeps s0 s) : Keeps s0 (taintRestore p i s) := by
  unfold taintRestore
  exact Keeps.ite (taint_keeps hs) hs

theorem clearRestoreKnots_keeps {s0 p s} (hs : Keeps s0 s) : Keeps s0 (clearRestoreKnots p s) := by
  unfold clearRestoreKnots
  exact Keeps.foldl (fun x1 x2 x3 => setKnot_keeps x3) hs

theorem loadSpools_keeps {s0 c p s} (hs : Keeps s0 s) : Keeps s0 (loadSpools c p s) := by
  unfold loadSpools
  refine Keeps.foldl ?_ (updCore_keeps hs)
  intro x1 x2 x3
  extract_lets -merge t4
  clear_value t4
  exact updCore_keeps x3

theorem markHigh_keeps {s0 s p n} (hs : Keeps s0 s) : Keeps s0 (markHigh s p n) := by
  unfold markHigh
  extract_lets -merge t1 t2 t3
  clear_value t1 t2 t3
  exact Keeps.ite (storeBytes_keeps hs) hs

theorem orphanOp_keeps {s0 c addr s} (hs : Keeps s0 s) : Keeps s0 (orphanOp c addr s) := by
  unfold orphanOp
  exact coreFault_keeps (odCount_keeps hs)

theorem knotRefuse_keeps {s0 c addr spool cause s} (hs : Keeps s0 s) : Keeps s0 (knotRefuse c addr spool cause s) := by
  unfold knotRefuse
  exact coreFault_keeps hs

theorem spoolRefuse_keeps {s0 c spool cause s} (hs : Keeps s0 s) : Keeps s0 (spoolRefuse c spool cause s) := by
  unfold spoolRefuse
  exact knotRefuse_keeps hs

theorem startSpoolWait_keeps {s0 c p x spool k space s} (hs : Keeps s0 s) :
    KeepsStart s0 (startSpoolWait c p x spool k space s) := by
  unfold startSpoolWait
  extract_lets -merge t1 t2 t3
  clear_value t1 t2 t3
  exact KeepsStart.ite (KeepsStart.stop (spoolRefuse_keeps hs)) (KeepsStart.ite (KeepsStart.stop (spoolRefuse_keeps hs)) (KeepsStart.ite (KeepsStart.stop (orphanOp_keeps hs)) (waitHere_keeps hs)))

theorem startSrelease_keeps {s0 c p spool k s} (hs : Keeps s0 s) : KeepsStart s0 (startSrelease c p spool k s) := by
  unfold startSrelease
  extract_lets -merge t1
  have h2 : Keeps s0 t1 := updCore_keeps hs
  clear_value t1
  exact KeepsStart.ite (KeepsStart.stop (spoolRefuse_keeps hs)) (KeepsStart.ite (KeepsStart.stop (spoolRefuse_keeps hs)) (KeepsStart.started (onceEffect_keeps (fun x3 x4 => x4) h2)))

theorem orphanWaiter_keeps {s0 w s} (hs : Keeps s0 s) : Keeps s0 (orphanWaiter w s) := by
  unfold orphanWaiter
  extract_lets -merge t1
  have h2 : Keeps s0 t1 := odCount_keeps hs
  clear_value t1
  split
  · exact coreFault_keeps h2
  · exact sendWake_keeps h2

theorem remoteOp_keeps {s0 q c addr op v s} (hs : Keeps s0 s) : Keeps s0 (remoteOp q c addr op v s) := by
  unfold remoteOp
  extract_lets -merge t1 t2
  clear_value t1
  have h4 : Keeps s0 t2 := updCore_keeps hs
  clear_value t2
  exact sendKnot_keeps h4

theorem releaseWaiter_keeps {s0 w s} (hs : Keeps s0 s) : Keeps s0 (releaseWaiter w s) := by
  unfold releaseWaiter
  split
  · exact updCore_keeps hs
  · exact sendWake_keeps hs

theorem startKnotWait_keeps {s0 c p x f eq s} (hs : Keeps s0 s) : KeepsStart s0 (startKnotWait c p x f eq s) := by
  unfold startKnotWait
  extract_lets -merge t1 t2
  clear_value t1 t2
  split
  · exact KeepsStart.stop (knotRefuse_keeps hs)
  · split
    · exact KeepsStart.stop (knotRefuse_keeps hs)
    · exact KeepsStart.started (updCore_keeps (remoteOp_keeps hs))
    · extract_lets -merge t19
      have h20 : Keeps s0 t19 := taintRestore_keeps hs
      clear_value t19
      exact KeepsStart.ite (KeepsStart.stop (orphanOp_keeps h20)) (waitHere_keeps h20)

theorem evalWaiters_keeps {s0 i s} (hs : Keeps s0 s) : Keeps s0 (evalWaiters i s) := by
  unfold evalWaiters
  extract_lets -merge t1 t2
  clear_value t1 t2
  exact Keeps.foldl (fun x5 x6 x7 => releaseWaiter_keeps x7) (Keeps.of hs rfl rfl rfl)

theorem poisonCores_keeps {s0 cs s} (hs : Keeps s0 s) : Keeps s0 (poisonCores cs s) := by
  unfold poisonCores
  extract_lets -merge t1
  clear_value t1
  exact Keeps.foldl (fun x3 x4 x5 => orphanWaiter_keeps x5) (Keeps.of hs rfl rfl rfl)

theorem startWaitGe_keeps {s0 c p x f s} (hs : Keeps s0 s) : KeepsStart s0 (startWaitGe c p x f s) := by
  unfold startWaitGe
  exact KeepsStart.ite (startSpoolWait_keeps hs) (startKnotWait_keeps hs)

theorem applyKadd_keeps {s0 i v g s} (hs : Keeps s0 s) : Keeps s0 (applyKadd i v g s) := by
  unfold applyKadd
  extract_lets -merge t1
  clear_value t1
  exact evalWaiters_keeps (odCount_keeps (setKnot_keeps hs))

theorem applyArrive_keeps {s0 i g p sg s} (hs : Keeps s0 s) : Keeps s0 (applyArrive i g p sg s) := by
  unfold applyArrive
  extract_lets -merge t1 t2 t3 t4 t5 t6 t7 t8 t9 t10 t11 t12 t13
  clear_value t1 t2 t3 t4 t5 t6 t8 t9 t10 t11
  have h25 : Keeps s0 t12 := Keeps.ite (odCount_keeps hs) hs
  clear_value t12
  have h26 : Keeps s0 t13 := Keeps.ite (taint_keeps h25) h25
  clear_value t13
  exact evalWaiters_keeps (odCount_keeps (setKnot_keeps h26))

theorem applyKset_keeps {s0 i v g s} (hs : Keeps s0 s) : Keeps s0 (applyKset i v g s) := by
  unfold applyKset
  extract_lets -merge t1 t2 t3
  clear_value t1 t2 t3
  exact evalWaiters_keeps (odCount_keeps (setKnot_keeps hs))

theorem startKnotOp_keeps {s0 c p x f set s} (hs : Keeps s0 s) : KeepsStart s0 (startKnotOp c p x f set s) := by
  unfold startKnotOp
  extract_lets -merge t1
  clear_value t1
  split
  · exact KeepsStart.stop (knotRefuse_keeps hs)
  · split
    · exact KeepsStart.stop (knotRefuse_keeps hs)
    · exact KeepsStart.started (remoteOp_keeps hs)
    · extract_lets -merge t17
      have h18 : Keeps s0 t17 := taintRestore_keeps hs
      clear_value t17
      refine KeepsStart.ite (KeepsStart.stop (orphanOp_keeps h18)) ?_
      refine KeepsStart.started ?_
      refine onceEffect_keeps ?_ h18
      intro x19 x20
      split
      · exact applyKset_keeps x20
      · exact applyKadd_keeps x20

theorem deviceKnot_keeps {s0 src set addr v s} (hs : Keeps s0 s) : Keeps s0 (deviceKnot src set addr v s) := by
  unfold deviceKnot
  extract_lets -merge t1 t2
  clear_value t1 t2
  refine Keeps.ite hs ?_
  refine Keeps.ite ?_ (Keeps.ite (applyKset_keeps hs) (applyKadd_keeps hs))
  split
  · exact postPanel_keeps hs
  · exact hs

theorem startArrive_keeps {s0 c p x f s} (hs : Keeps s0 s) : KeepsStart s0 (startArrive c p x f s) := by
  unfold startArrive
  extract_lets -merge t1
  clear_value t1
  split
  · exact KeepsStart.stop (knotRefuse_keeps hs)
  · split
    · exact KeepsStart.stop (knotRefuse_keeps hs)
    · exact KeepsStart.started (updCore_keeps (remoteOp_keeps hs))
    · extract_lets -merge t17
      have h18 : Keeps s0 t17 := taintRestore_keeps hs
      clear_value t17
      exact KeepsStart.ite (KeepsStart.stop (orphanOp_keeps h18)) (waitHere_keeps (onceEffect_keeps (fun x19 x20 => applyArrive_keeps x20) h18))

theorem raiseKnot_keeps {s0 i v g s} (hs : Keeps s0 s) : Keeps s0 (raiseKnot i v g s) := by
  unfold raiseKnot
  exact applyKset_keeps hs

theorem panelKnot_keeps {s0 p src set addr v s} (hs : Keeps s0 s) : Keeps s0 (panelKnot p src set addr v s) := by
  unfold panelKnot
  split
  · exact postPanel_keeps hs
  · exact postPanel_keeps hs
  · exact deviceKnot_keeps hs

theorem startScommit_keeps {s0 c p spool k s} (hs : Keeps s0 s) : KeepsStart s0 (startScommit c p spool k s) := by
  unfold startScommit
  extract_lets -merge t1 t2 t3
  clear_value t1 t2
  have h6 : Keeps s0 t3 := updCore_keeps hs
  clear_value t3
  exact KeepsStart.ite (KeepsStart.stop (spoolRefuse_keeps hs)) (KeepsStart.ite (KeepsStart.stop (spoolRefuse_keeps hs)) (KeepsStart.ite (KeepsStart.stop (orphanOp_keeps hs)) (KeepsStart.started (onceEffect_keeps (fun x7 x8 => markHigh_keeps (raiseKnot_keeps x8)) h6))))

theorem saveSpool_keeps {s0 c p s n} (hs : Keeps s0 s) : Keeps s0 (saveSpool c p s n) := by
  unfold saveSpool
  extract_lets -merge t1 t2 t3 t4 t5
  clear_value t1 t2 t3 t4
  have h10 : Keeps s0 t5 := storeBytes_keeps hs
  clear_value t5
  exact Keeps.ite (postPanel_keeps h10) (Keeps.ite (raiseKnot_keeps h10) h10)

theorem saveSpools_keeps {s0 c p s} (hs : Keeps s0 s) : Keeps s0 (saveSpools c p s) := by
  unfold saveSpools
  exact Keeps.foldl (fun x1 x2 x3 => saveSpool_keeps x3) hs

theorem addLost_keeps {s0 u s} (hs : Keeps s0 s) : Keeps s0 (addLost u s) := by
  unfold addLost
  exact Keeps.ite hs (Keeps.of hs rfl rfl rfl)

theorem serveOthers_keeps {s0 u p s} (hs : Keeps s0 s) : Keeps s0 (serveOthers u p s) := by
  unfold serveOthers
  extract_lets -merge t1
  have h2 : Keeps s0 t1 := updPanel_keeps hs
  clear_value t1
  exact Keeps.of h2 rfl rfl rfl

theorem poisonSwatch_keeps {s0 c m s} (hs : Keeps s0 s) : Keeps s0 (poisonSwatch c m s) := by
  unfold poisonSwatch
  extract_lets -merge t1 t2
  clear_value t1 t2
  refine Keeps.ite hs ?_
  split
  · exact hs
  · refine Keeps.ite hs ?_
    refine Keeps.ite ?_ (writeBytes_keeps hs)
    split
    · rename_i y10 y11 y12 y13
      have h14 : Keeps s0 y12 := KeepsPair.elim y13 (translate_keeps hs)
      exact portSend_keeps h14
    · rename_i y15 y16 y17 y18
      have h19 : Keeps s0 y17 := KeepsPair.elim y18 (translate_keeps hs)
      exact h19

theorem abortParked_keeps {s0 u code s} (hs : Keeps s0 s) : Keeps s0 (abortParked u code s) := by
  unfold abortParked
  exact Keeps.foldl (fun x1 x2 x3 => abortKernel_keeps (poisonSwatch_keeps x3)) hs

theorem setRestoreKnot_keeps {s0 p i v s} (hs : Keeps s0 s) : Keeps s0 (setRestoreKnot p i v s) := by
  unfold setRestoreKnot
  extract_lets -merge t1 t2
  clear_value t1 t2
  exact evalWaiters_keeps (setKnot_keeps hs)

theorem grantRestoreKnot_keeps {s0 p s} (hs : Keeps s0 s) : Keeps s0 (grantRestoreKnot p s) := by
  unfold grantRestoreKnot
  split
  · extract_lets -merge t7
    have h8 : Keeps s0 t7 := setRestoreKnot_keeps (Keeps.of hs rfl rfl rfl)
    clear_value t7
    exact Keeps.ite (postPanel_keeps h8) h8
  · exact hs

theorem endRestore_keeps {s0 u v s} (hs : Keeps s0 s) : Keeps s0 (endRestore u v s) := by
  unfold endRestore
  split
  · exact hs
  · extract_lets -merge t6 t7 t8 t9
    clear_value t6
    have h11 : Keeps s0 t7 := Keeps.foldl (fun x12 x13 x14 => updCore_keeps x14) (Keeps.of hs rfl rfl rfl)
    clear_value t7
    have h15 : Keeps s0 t8 := Keeps.ite (serveOthers_keeps h11) h11
    clear_value t8
    have h16 : Keeps s0 t9 := by
      unfold t9
      split
      · exact setRestoreKnot_keeps h15
      · exact h15
    clear_value t9
    exact grantRestoreKnot_keeps h16

theorem loseUnit_keeps {s0 u p cause s} (hs : Keeps s0 s) : Keeps s0 (loseUnit u p cause s) := by
  unfold loseUnit
  extract_lets -merge t1
  have h2 : Keeps s0 t1 := abortParked_keeps (odCount_keeps (addLost_keeps hs))
  clear_value t1
  exact endRestore_keeps (postPanel_keeps h2)

theorem settleRestores_keeps {s0 p a1 a2} (hs : Keeps s0 a2) : Keeps s0 (settleRestores p a1 a2) := by
  induction a1 generalizing a2 with
  | zero =>
    unfold settleRestores
    exact hs
  | succ n ih =>
    unfold settleRestores
    split
    · exact ih (loseUnit_keeps hs)
    · exact hs

theorem finishRestore_keeps {s0 u p v s} (hs : Keeps s0 s) : Keeps s0 (finishRestore u p v s) := by
  unfold finishRestore
  extract_lets -merge t1
  have h2 : Keeps s0 t1 := endRestore_keeps hs
  clear_value t1
  exact settleRestores_keeps h2

theorem readFail_keeps {s0 u swatch s} (hs : Keeps s0 s) : Keeps s0 (readFail u swatch s) := by
  unfold readFail
  refine Keeps.ite hs ?_
  split
  · exact hs
  · extract_lets -merge t6
    have h7 : Keeps s0 t6 := grantRestoreKnot_keeps (Keeps.of hs rfl rfl rfl)
    clear_value t6
    exact settleRestores_keeps h7

theorem hubMeets_keeps {s0 areas s} (hs : Keeps s0 s) : KeepsPair s0 (hubMeets areas s) := by
  unfold hubMeets
  split
  · exact KeepsPair.mk hs
  · extract_lets -merge t6
    clear_value t6
    split
    · extract_lets -merge t11
      have h12 : Keeps s0 t11 := readFail_keeps hs
      clear_value t11
      exact KeepsPair.mk h12
    · exact KeepsPair.mk (odCount_keeps hs)

theorem readMeets_keeps {s0 served areas s} (hs : Keeps s0 s) : KeepsPair s0 (readMeets served areas s) := by
  unfold readMeets
  split
  · exact KeepsPair.mk hs
  · split
    · extract_lets -merge t9
      have h10 : Keeps s0 t9 := readFail_keeps hs
      clear_value t9
      exact KeepsPair.mk h10
    · exact KeepsPair.mk hs

theorem failRegen_keeps {s0 u p code a b s} (hs : Keeps s0 s) : Keeps s0 (failRegen u p code a b s) := by
  unfold failRegen
  exact finishRestore_keeps (postPanel_keeps (abortParked_keeps (addLost_keeps hs)))

theorem doReconstruct_keeps {s0 u s} (hs : Keeps s0 s) : Keeps s0 (doReconstruct u s) := by
  unfold doReconstruct
  split
  · exact hs
  · split
    · exact finishRestore_keeps (odCount_keeps (Keeps.of hs rfl rfl rfl))
    · exact hs
    · extract_lets -merge t13
      have h14 : Keeps s0 t13 := loseUnit_keeps hs
      clear_value t13
      exact settleRestores_keeps h14

theorem doRegenerate_keeps {s0 u s} (hs : Keeps s0 s) : Keeps s0 (doRegenerate u s) := by
  unfold doRegenerate
  split
  · exact hs
  · split
    · split
      · exact failRegen_keeps hs
      · split
        · exact failRegen_keeps hs
        · extract_lets -merge t23 t24 t25
          clear_value t23 t24
          have h28 : Keeps s0 t25 := Keeps.foldl (fun x29 x30 x31 => noteRead_keeps x31) (odCount_keeps hs)
          clear_value t25
          exact finishRestore_keeps (odCount_keeps (writeBytes_keeps h28))
    · extract_lets -merge t36
      have h37 : Keeps s0 t36 := loseUnit_keeps hs
      clear_value t36
      exact settleRestores_keeps h37
    · exact hs

theorem sealedBytes_keeps {s0 s src n0 o n} (hs : Keeps s0 s) : KeepsPair s0 (sealedBytes s src n0 o n) := by
  unfold sealedBytes
  extract_lets -merge t1 t2 t3
  clear_value t1 t2
  have h6 : KeepsPair s0 t3 := freshVal_keeps hs
  clear_value t3
  split
  · rename_i y7 y8 y9 y10
    have h11 : Keeps s0 y9 := by
      refine KeepsPair.elim y10 ?_
      split
      · exact KeepsPair.ite (KeepsPair.mk hs) (KeepsPair.mk (KeepsPair.snd h6))
      · exact KeepsPair.mk (KeepsPair.snd h6)
    exact KeepsPair.mk h11

theorem updMove_keeps {s0 c id} {f : Move → Move} {s} (hs : Keeps s0 s) : Keeps s0 (updMove c id f s) := by
  unfold updMove
  exact updCore_keeps hs

theorem dropFault_keeps {s0 p number s} (hs : Keeps s0 s) : Keeps s0 (dropFault p number s) := by
  unfold dropFault
  exact updPanel_keeps hs

theorem moverCount_keeps {s0 p sub n s} (hs : Keeps s0 s) : Keeps s0 (moverCount p sub n s) := by
  unfold moverCount
  exact Keeps.ite hs (odCount_keeps hs)

theorem takePool_keeps {s0 p a s} (hs : Keeps s0 s) : KeepsOpt s0 (takePool p a s) := by
  unfold takePool
  extract_lets -merge t1 t2
  clear_value t1 t2
  refine KeepsOpt.ite KeepsOpt.none ?_
  split
  · extract_lets -merge t10
    clear_value t10
    exact KeepsOpt.ite KeepsOpt.none (KeepsOpt.some (odPut_keeps (storeBytes_keeps hs)))

theorem rollBack_keeps {s0 c ids} {f : Move → Move} {s} (hs : Keeps s0 s) : Keeps s0 (rollBack c ids f s) := by
  unfold rollBack
  exact Keeps.foldl (fun x1 x2 x3 => updMove_keeps x3) hs

theorem endMoves_keeps {s0 c ids s} (hs : Keeps s0 s) : Keeps s0 (endMoves c ids s) := by
  unfold endMoves
  exact Keeps.foldl (fun x1 x2 x3 => updMove_keeps x3) hs

theorem abortFault_keeps {s0 p number event s} (hs : Keeps s0 s) : Keeps s0 (abortFault p number event s) := by
  unfold abortFault
  split
  · exact hs
  · exact abortKernel_keeps (dropFault_keeps hs)

theorem writeStatus_keeps {s0 c d L stopped hostlost s} (hs : Keeps s0 s) :
    Keeps s0 (writeStatus c d L stopped hostlost s) := by
  unfold writeStatus
  extract_lets -merge t1
  have h2 : Keeps s0 t1 := storeWrite_keeps hs
  clear_value t1
  exact storeWrite_keeps h2

theorem clearStatus_keeps {s0 c d s} (hs : Keeps s0 s) : Keeps s0 (clearStatus c d s) := by
  unfold clearStatus
  extract_lets -merge t1
  clear_value t1
  exact storeWrite_keeps (writeStatus_keeps hs)

theorem loseHost_keeps {s0 h c m s} (hs : Keeps s0 s) : Keeps s0 (loseHost h c m s) := by
  unfold loseHost
  extract_lets -merge t1 t2
  clear_value t1
  have h4 : Keeps s0 t2 := by
    unfold t2
    split
    · exact updPanel_keeps hs
    · exact hs
  clear_value t2
  exact Keeps.ite hs (writeStatus_keeps (updMove_keeps h4))

theorem deliver_keeps {s0 a bus b s} (hs : Keeps s0 s) : Keeps s0 (deliver a bus b s) := by
  unfold deliver
  split
  · exact portSend_keeps hs
  · extract_lets -merge t4
    clear_value t4
    exact Keeps.ite (Keeps.of hs rfl rfl rfl) (writeBytes_keeps hs)

theorem meetBad_keeps {s0 c m r u lost s} (hs : Keeps s0 s) : Keeps s0 (meetBad c m r u lost s) := by
  unfold meetBad
  exact Keeps.ite (endMoves_keeps (abortKernel_keeps (poisonSwatch_keeps hs))) (rollBack_keeps hs)

theorem deliverReq_keeps {s0 c m r bus s} (hs : Keeps s0 s) : Keeps s0 (deliverReq c m r bus s) := by
  unfold deliverReq
  extract_lets -merge t1
  have h2 : Keeps s0 t1 := Keeps.ite (noteRead_keeps hs) hs
  clear_value t1
  split
  · rename_i y3 y4 y5 y6
    have h7 : Keeps s0 y5 := KeepsPair.elim y6 (KeepsPair.ite (KeepsPair.mk h2) (KeepsPair.ite (sealedBytes_keeps h2) (KeepsPair.mk h2)))
    split
    · exact updCore_keeps h7
    · exact Keeps.ite (updMove_keeps h7) (deliver_keeps h7)

theorem meetLost_keeps {s0 c h r s} (hs : Keeps s0 s) : Keeps s0 (meetLost c h r s) := by
  unfold meetLost
  refine Keeps.foldl ?_ (portCount_keeps hs)
  intro x1 x2 x3
  split
  · exact loseHost_keeps x3
  · exact x3

theorem referFault_keeps {s0 c p m number a cause s} (hs : Keeps s0 s) : Keeps s0 (referFault c p m number a cause s) := by
  unfold referFault
  exact postPanel_keeps (updPanel_keeps hs)

theorem descRefuse_keeps {s0 c ca cause s} (hs : Keeps s0 s) : Keeps s0 (descRefuse c ca cause s) := by
  unfold descRefuse
  exact coreAbort_keeps hs

theorem writeRecord_keeps {s0 c p m n status} {onFault : Nat → Move → Move} {s} (hs : Keeps s0 s) :
    Keeps s0 (writeRecord c p m n status onFault s) := by
  unfold writeRecord
  extract_lets -merge t1 t2 t3
  clear_value t1 t2
  have h6 : Keeps s0 t3 := moverCount_keeps hs
  clear_value t3
  refine Keeps.ite (endMoves_keeps (regionAbort_keeps hs)) ?_
  refine Keeps.ite (loseHost_keeps (portCount_keeps h6)) ?_
  split
  · rename_i y7 y8 y9 y10
    have h11 : Keeps s0 y9 := KeepsPair.elim y10 (translate_keeps h6)
    exact updMove_keeps h11
  · rename_i y12 y13 y14 y15
    have h16 : Keeps s0 y14 := KeepsPair.elim y15 (translate_keeps h6)
    exact updCore_keeps (updMove_keeps (portSend_keeps h16))

theorem startMove_keeps {s0 c p x ca channel s} (hs : Keeps s0 s) : KeepsStart s0 (startMove c p x ca channel s) := by
  unfold startMove
  extract_lets -merge t1 t2
  clear_value t1 t2
  split
  · exact KeepsStart.stop (coreAbort_keeps hs)
  · split
    · split
      · exact KeepsStart.stop (descRefuse_keeps hs)
      · extract_lets -merge t19 t20 t21
        clear_value t19 t20 t21
        refine KeepsStart.ite ?_ (KeepsStart.started (updCore_keeps hs))
        refine KeepsStart.ite (KeepsStart.stop (regionAbort_keeps hs)) ?_
        split
        · exact KeepsStart.stop (coreAbort_keeps hs)
        · exact KeepsStart.started (updCore_keeps hs)

theorem writeOwed_keeps {s0 c p id s} (hs : Keeps s0 s) : Keeps s0 (writeOwed c p id s) := by
  unfold writeOwed
  split
  · exact hs
  · split
    · exact hs
    · exact writeRecord_keeps hs

theorem chunkDone_keeps {s0 c p m s} (hs : Keeps s0 s) : Keeps s0 (chunkDone c p m s) := by
  unfold chunkDone
  extract_lets -merge t1
  clear_value t1
  exact Keeps.ite hs (writeRecord_keeps hs)

theorem resumeMove_keeps {s0 c p m L s} (hs : Keeps s0 s) : Keeps s0 (resumeMove c p m L s) := by
  unfold resumeMove
  exact writeStatus_keeps (updMove_keeps (writeOwed_keeps hs))

theorem sendMessage_keeps {s0 c m kid r data s} (hs : Keeps s0 s) : Keeps s0 (sendMessage c m kid r data s) := by
  unfold sendMessage
  extract_lets -merge t1
  clear_value t1
  refine Keeps.foldl ?_ hs
  intro x3 x4 x5
  extract_lets -merge t6
  clear_value t6
  exact qpSend_keeps x5

theorem handOver_keeps {s0 c p m s} (hs : Keeps s0 s) : Keeps s0 (handOver c p m s) := by
  unfold handOver
  split
  · exact hs
  · refine Keeps.ite hs ?_
    refine Keeps.ite (updMove_keeps (Keeps.of hs rfl rfl rfl)) ?_
    split
    · exact sendMessage_keeps (updMove_keeps hs)
    · exact hs

theorem resumeFault_keeps {s0 p number s} (hs : Keeps s0 s) : Keeps s0 (resumeFault p number s) := by
  unfold resumeFault
  split
  · exact hs
  · split
    · exact dropFault_keeps hs
    · exact resumeMove_keeps (dropFault_keeps hs)

theorem handleFault_keeps {s0 c p m s} (hs : Keeps s0 s) : Keeps s0 (handleFault c p m s) := by
  unfold handleFault
  split
  · extract_lets -merge t7 t8 t9 t10 t11
    clear_value t7 t8
    have h14 : Keeps s0 t9 := moverCount_keeps (writeStatus_keeps (updPanel_keeps hs))
    clear_value t9
    have h15 : Keeps s0 t10 := updMove_keeps h14
    clear_value t10
    have h16 : Keeps s0 t11 := writeOwed_keeps h15
    clear_value t11
    refine Keeps.ite (referFault_keeps h16) ?_
    refine Keeps.ite ?_ (referFault_keeps h16)
    split
    · rename_i y17 y18 y19
      have h20 : Keeps s0 y18 := KeepsOpt.elim y19 (takePool_keeps h16)
      exact resumeMove_keeps (moverCount_keeps h20)
    · rename_i y21 y22
      exact referFault_keeps h16
  · exact hs

theorem landed_keeps {s0 c p m r s} (hs : Keeps s0 s) : Keeps s0 (landed c p m r s) := by
  unfold landed
  extract_lets -merge t1 t2 t3
  have h4 : Keeps s0 t1 := Keeps.foldl (fun x5 x6 x7 => updMove_keeps x7) hs
  clear_value t1
  have h8 : Keeps s0 t2 := moverCount_keeps h4
  clear_value t2
  have h9 : Keeps s0 t3 := Keeps.ite (moverCount_keeps h8) h8
  clear_value t3
  exact handOver_keeps h9

theorem readCheck_keeps {s0 m r s} (hs : Keeps s0 s) : KeepsPair s0 (readCheck m r s) := by
  unfold readCheck
  refine KeepsPair.ite (KeepsPair.mk hs) ?_
  split
  · rename_i y1 y2 y3 y4
    have h5 : Keeps s0 y3 := KeepsPair.elim y4 (readMeets_keeps hs)
    exact KeepsPair.mk h5
  · rename_i y6 y7 y8
    have h9 : Keeps s0 y7 := KeepsPair.elim y8 (readMeets_keeps hs)
    extract_lets -merge t10 t11
    clear_value t10
    have h13 : Keeps s0 t11 := readFail_keeps (odCount_keeps h9)
    clear_value t11
    exact KeepsPair.ite (KeepsPair.mk h13) (KeepsPair.mk h9)

theorem issueReq_keeps {s0 c p m r s} (hs : Keeps s0 s) : Keeps s0 (issueReq c p m r s) := by
  unfold issueReq
  refine Keeps.ite (endMoves_keeps (regionAbort_keeps hs)) ?_
  refine Keeps.ite (endMoves_keeps (regionAbort_keeps hs)) ?_
  refine Keeps.ite (endMoves_keeps (regionAbort_keeps hs)) ?_
  refine Keeps.ite (endMoves_keeps (poisonLoss_keeps hs)) ?_
  split
  · rename_i y1 y2 y3 y4 y5
    have h6 : Keeps s0 y4 := KeepsPair.elim y5 (readCheck_keeps hs)
    exact meetBad_keeps h6
  · rename_i y7 y8 y9
    have h10 : Keeps s0 y8 := KeepsPair.elim y9 (readCheck_keeps hs)
    extract_lets -merge t11
    have h12 : Keeps s0 t11 := moverCount_keeps h10
    clear_value t11
    refine Keeps.ite (landed_keeps (deliverReq_keeps h12)) ?_
    refine Keeps.ite (endMoves_keeps (abortKernel_keeps h12)) ?_
    refine Keeps.ite ?_ (landed_keeps (deliverReq_keeps h12))
    refine Keeps.ite (meetLost_keeps h12) ?_
    split
    · rename_i y13 y14 y15 y16
      have h17 : Keeps s0 y15 := KeepsPair.elim y16 (translate_keeps h12)
      exact rollBack_keeps h17
    · rename_i y18 y19 y20 y21
      have h22 : Keeps s0 y20 := KeepsPair.elim y21 (translate_keeps h12)
      exact landed_keeps (deliverReq_keeps h22)

theorem flushMerge_keeps {s0 c p s} (hs : Keeps s0 s) : Keeps s0 (flushMerge c p s) := by
  unfold flushMerge
  split
  · exact hs
  · extract_lets -merge t6
    have h7 : Keeps s0 t6 := updCore_keeps hs
    clear_value t6
    split
    · exact h7
    · split
      · exact h7
      · exact Keeps.ite (rollBack_keeps h7) (issueReq_keeps h7)

theorem stopAt_keeps {s0 c p m} {abort : State → State} {s}
    (habort : ∀ z0, Keeps s0 z0 → Keeps s0 (abort z0))
    (hs : Keeps s0 s) :
    Keeps s0 (stopAt c p m abort s) := by
  unfold stopAt
  extract_lets -merge t1
  have h2 : Keeps s0 t1 := flushMerge_keeps hs
  clear_value t1
  split
  · exact h2
  · exact Keeps.ite h2 (endMoves_keeps (habort _ h2))

theorem issueNext_keeps {s0 c p s} (hs : Keeps s0 s) : Keeps s0 (issueNext c p s) := by
  unfold issueNext
  split
  · exact hs
  · split
    · extract_lets -merge t11 t12 t13 t14 t15 t16
      clear_value t11 t12 t13 t14
      have h21 : Keeps s0 t15 := updMove_keeps hs
      clear_value t15
      have h22 : Keeps s0 t16 := flushMerge_keeps h21
      clear_value t16
      refine Keeps.ite (stopAt_keeps (fun x23 x24 => coreAbort_keeps x24) hs) ?_
      refine Keeps.ite (stopAt_keeps (fun x25 x26 => regionAbort_keeps x26) hs) ?_
      split
      · extract_lets -merge t30 t31
        clear_value t30
        have h33 : Keeps s0 t31 := moverCount_keeps (updCore_keeps h21)
        clear_value t31
        refine Keeps.ite (Keeps.ite h33 (flushMerge_keeps h33)) ?_
        split
        · exact h22
        · exact Keeps.ite h22 (Keeps.ite (updCore_keeps h22) (issueReq_keeps h22))
      · exact Keeps.ite (updCore_keeps h21) (issueReq_keeps h21)

theorem healPriv_keeps {s0 c i s t} (hs : Keeps s0 t) : Keeps s0 (healPriv c i s t) := by
  unfold healPriv
  exact Keeps.ite hs (Keeps.foldl (fun x1 x2 x3 => heal_keeps x3) hs)

theorem restoreContext_keeps {s0 c b s} (hs : Keeps s0 s) : Keeps s0 (restoreContext c b s) := by
  unfold restoreContext
  extract_lets -merge t1
  clear_value t1
  exact updCore_keeps hs

theorem updQueue_keeps {s0 c q} {f : Queue → Queue} {s} (hs : Keeps s0 s) : Keeps s0 (updQueue c q f s) := by
  unfold updQueue
  exact updCore_keeps hs

theorem enterPhase_keeps {s0 c ph s} (hs : Keeps s0 s) : Keeps s0 (enterPhase c ph s) := by
  unfold enterPhase
  extract_lets -merge t1 t2 t3
  clear_value t1 t2
  have h6 : Keeps s0 t3 := by
    unfold t3
    split
    · exact updPanel_keeps hs
    · exact hs
  clear_value t3
  exact updCore_keeps h6

theorem countRetired_keeps {s0 i s} (hs : Keeps s0 s) : Keeps s0 (countRetired i s) := by
  unfold countRetired
  split
  · exact countPass_keeps hs
  · extract_lets -merge t8
    clear_value t8
    exact Keeps.ite (odCount_keeps hs) (Keeps.ite (odCount_keeps hs) hs)

theorem opRefuse_keeps {s0 c idx opcode cause s} (hs : Keeps s0 s) : Keeps s0 (opRefuse c idx opcode cause s) := by
  unfold opRefuse
  exact coreAbort_keeps hs

theorem startStepClose_keeps {s0 c p x y s} (hs : Keeps s0 s) : KeepsStart s0 (startStepClose c p x y s) := by
  unfold startStepClose
  extract_lets -merge t1
  clear_value t1
  refine KeepsStart.ite (KeepsStart.stop (regionAbort_keeps hs)) ?_
  split
  · exact KeepsStart.stop (regionAbort_keeps hs)
  · split
    · exact KeepsStart.stop (coreAbort_keeps hs)
    · exact KeepsStart.started (onceEffect_keeps (fun x13 x14 => closeStep_keeps x14) hs)

theorem reach_keeps {s0 c n s} (hs : Keeps s0 s) : Keeps s0 (reach c n s) := by
  unfold reach
  exact Keeps.ite hs (Keeps.ite (opRefuse_keeps hs) (Keeps.ite (poisonLoss_keeps hs) (Keeps.ite (opRefuse_keeps hs) hs)))

theorem controlOp_keeps {s0 c h i} {effect : Core → Nat → State → State} {s}
    (heffect : ∀ z0 z1 z2, Keeps s0 z2 → Keeps s0 (effect z0 z1 z2))
    (hs : Keeps s0 s) :
    Keeps s0 (controlOp c h i effect s) := by
  unfold controlOp
  extract_lets -merge t1
  clear_value t1
  refine Keeps.ite hs ?_
  split
  · exact opRefuse_keeps hs
  · exact Keeps.ite (odCount_keeps hs) (heffect _ _ _ hs)

theorem advance_keeps {s0 c s} (hs : Keeps s0 s) : Keeps s0 (advance c s) := by
  unfold advance
  extract_lets -merge t1
  clear_value t1
  exact reach_keeps (updCore_keeps hs)

theorem startOp_keeps {s0 c p x e s} (hs : Keeps s0 s) : KeepsStart s0 (startOp c p x e s) := by
  unfold startOp
  rcases e with ⟨idx, cmd, areg, dq, need, st, rd, mv, ex, sq, od, rw, gt⟩
  cases cmd <;> dsimp only <;> first
    | with_reducible exact KeepsStart.started hs
    | with_reducible exact startStepClose_keeps hs
    | with_reducible exact startLoad_keeps hs
    | with_reducible exact startPass_keeps hs
    | with_reducible exact startDrain_keeps hs
    | with_reducible exact startNHold_keeps hs
    | with_reducible exact startNStream_keeps hs
    | with_reducible exact startNGraft1_keeps hs
    | with_reducible exact startNGraft2_keeps hs
    | with_reducible exact startVBin_keeps hs
    | with_reducible exact startVFma_keeps hs
    | with_reducible exact startVUn_keeps hs
    | with_reducible exact startVRed_keeps hs
    | with_reducible exact startVRow_keeps hs
    | with_reducible exact startVCvt_keeps hs
    | with_reducible exact startVSoft_keeps hs
    | with_reducible exact startVMask_keeps hs
    | with_reducible exact startVScan_keeps hs
    | with_reducible exact startVOpt_keeps hs
    | with_reducible exact startFLoad_keeps hs
    | with_reducible exact startFEval_keeps hs
    | with_reducible exact startFDeriv_keeps hs
    | with_reducible exact startMove_keeps hs
    | with_reducible exact startKnotOp_keeps hs
    | with_reducible exact startKnotWait_keeps hs
    | with_reducible exact startArrive_keeps hs
    | with_reducible exact startSpoolWait_keeps hs
    | with_reducible exact startScommit_keeps hs
    | with_reducible exact startSrelease_keeps hs
    | with_reducible exact startWaitGe_keeps hs

theorem tryStart_keeps {s0 c q s} (hs : Keeps s0 s) : Keeps s0 (tryStart c q s) := by
  unfold tryStart
  extract_lets -merge t1
  clear_value t1
  split
  · split
    · exact hs
    · extract_lets -merge t14
      clear_value t14
      refine Keeps.ite hs ?_
      split
      · rename_i y16 y17
        exact hs
      · rename_i y18 y19 y20
        have h21 : Keeps s0 y19 := KeepsStart.elimStop y20 (startOp_keeps hs)
        exact h21
      · rename_i y22 y23 y24 y25 y26
        have h27 : Keeps s0 y25 := KeepsStart.elimPartly y26 (startOp_keeps hs)
        exact Keeps.ite (poisonLoss_keeps hs) (updQueue_keeps h27)
      · rename_i y28 y29 y30 y31
        have h32 : Keeps s0 y30 := KeepsStart.elim y31 (startOp_keeps hs)
        exact Keeps.ite (poisonLoss_keeps hs) (healPriv_keeps (updQueue_keeps h32))
  · exact hs

theorem pumpOnce_keeps {s0 c s} (hs : Keeps s0 s) : Keeps s0 (pumpOnce c s) := by
  unfold pumpOnce
  exact Keeps.foldl (fun x1 x2 x3 => tryStart_keeps x3) hs

theorem pumpCore_keeps {s0 c a1 a2} (hs : Keeps s0 a2) : Keeps s0 (pumpCore c a1 a2) := by
  induction a1 generalizing a2 with
  | zero =>
    unfold pumpCore
    exact hs
  | succ n ih =>
    unfold pumpCore
    extract_lets -merge t1
    have h2 : Keeps s0 t1 := pumpOnce_keeps hs
    clear_value t1
    exact Keeps.ite (ih h2) h2

theorem dispatchOp_keeps {s0 c h i s} (hs : Keeps s0 s) : Keeps s0 (dispatchOp c h i s) := by
  unfold dispatchOp
  extract_lets -merge t1 t2 t3 t4 t5
  clear_value t1 t2 t3 t4
  have h10 : Keeps s0 t5 := updQueue_keeps hs
  clear_value t5
  refine Keeps.ite hs ?_
  split
  · exact opRefuse_keeps hs
  · exact Keeps.ite (odCount_keeps hs) (advance_keeps (pumpCore_keeps h10))

theorem pumpCores_keeps {s0 p s} (hs : Keeps s0 s) : Keeps s0 (pumpCores p s) := by
  unfold pumpCores
  exact Keeps.foldl (fun x1 x2 x3 => pumpCore_keeps x3) hs

theorem retireMove_keeps {s0 c id s} (hs : Keeps s0 s) : Keeps s0 (retireMove c id s) := by
  unfold retireMove
  extract_lets -merge t1 t2
  have h3 : Keeps s0 t1 := updQueue_keeps hs
  clear_value t1
  have h4 : Keeps s0 t2 := updCore_keeps h3
  clear_value t2
  split
  · exact pumpCores_keeps (pumpCore_keeps h4)
  · exact h4

theorem retireHead_keeps {s0 c q s} (hs : Keeps s0 s) : Keeps s0 (retireHead c q s) := by
  unfold retireHead
  split
  · extract_lets -merge t5
    have h6 : Keeps s0 t5 := countRetired_keeps (updQueue_keeps hs)
    clear_value t5
    refine Keeps.ite ?_ hs
    split
    · exact pumpCores_keeps (pumpCore_keeps h6)
    · exact h6
  · exact hs

end Sys2Proof.Machine
end

