-- ==== Sys2Proof/Laws/KeepsHub.lean ====
section
/-! SUPPORT. What is kept (Laws/Keeps.lean) by the operations of kernels, rings, records, Root, tables and the seam. -/
namespace Sys2Proof.Machine

theorem measureEnd_keeps {s0 k s} (hs : Keeps s0 s) : Keeps s0 (measureEnd k s) := by
  unfold measureEnd
  extract_lets -merge t1 t2 t3
  clear_value t1 t2 t3
  exact Keeps.ite hs (Keeps.ite hs (Keeps.of hs rfl rfl rfl))

theorem measureStart_keeps {s0 k s} (hs : Keeps s0 s) : Keeps s0 (measureStart k s) := by
  unfold measureStart
  extract_lets -merge t1 t2 t3 t4 t5 t6 t7
  clear_value t1 t2 t3 t4 t5 t6 t7
  exact Keeps.ite hs (Keeps.ite hs (Keeps.of hs rfl rfl rfl))

theorem requestStop_keeps {s0 k b s} (hs : Keeps s0 s) : Keeps s0 (requestStop k b s) := by
  unfold requestStop
  exact Keeps.foldl (fun x1 x2 x3 => updKernel_keeps x3) hs

theorem doPreempt_keeps {s0 p s} (hs : Keeps s0 s) : Keeps s0 (doPreempt p s) := by
  unfold doPreempt
  split
  · exact hs
  · refine Keeps.ite hs ?_
    split
    · exact hs
    · exact requestStop_keeps hs

theorem copyMem_keeps {s0 src dst n s} (hs : Keeps s0 s) : Keeps s0 (copyMem src dst n s) := by
  have h := scrub_keeps (a := dst) (n := n) hs
  refine h.trans ⟨fun k => ?_, rfl, Nat.le_refl _⟩
  exact copyCells_wf _ _ _ _ k

theorem startOn_keeps {s0 k s e} (hs : Keeps s0 s) : Keeps s0 (startOn k s e) := by
  unfold startOn
  extract_lets -merge t1 t2
  clear_value t1
  have h4 : Keeps s0 t2 := copyMem_keeps hs
  clear_value t2
  exact loadSpools_keeps (updCore_keeps h4)

theorem setExit_keeps {s0 p list s i} (hs : Keeps s0 s) : Keeps s0 (setExit p list s i) := by
  unfold setExit
  extract_lets -merge t1 t2 t3
  clear_value t1 t2 t3
  exact storeBytes_keeps (storeBytes_keeps hs)

theorem putWords_keeps {s0 a l s} (hs : Keeps s0 s) : Keeps s0 (putWords a l s) := by
  unfold putWords
  exact Keeps.foldl (fun x1 x2 x3 => storeBytes_keeps x3) hs

theorem freeCore_keeps {s0 s c} (hs : Keeps s0 s) : Keeps s0 (freeCore s c) := by
  unfold freeCore
  exact updCore_keeps (enterPhase_keeps hs)

theorem restoreFrame_keeps {s0 k s e} (hs : Keeps s0 s) : Keeps s0 (restoreFrame k s e) := by
  unfold restoreFrame
  extract_lets -merge t1 t2 t3 t4 t5 t6 t7 t8
  clear_value t1 t2
  have h11 : Keeps s0 t3 := copyMem_keeps hs
  clear_value t3 t4 t5 t6 t7
  have h16 : Keeps s0 t8 := enterPhase_keeps h11
  clear_value t8
  exact restoreContext_keeps (setCore_keeps h16)

theorem startBuiltIn_keeps {s0 k b s} (hs : Keeps s0 s) : Keeps s0 (startBuiltIn k b s) := by
  unfold startBuiltIn
  extract_lets -merge t1 t2 t3
  clear_value t1
  have h5 : Keeps s0 t2 := updKernel_keeps hs
  clear_value t2
  have h6 : Keeps s0 t3 := Keeps.foldl (fun x7 x8 x9 => enterPhase_keeps (updCore_keeps x9)) h5
  clear_value t3
  exact odCount_keeps (odCount_keeps h6)

theorem saveFrame_keeps {s0 f c s} (hs : Keeps s0 s) : Keeps s0 (saveFrame f c s) := by
  unfold saveFrame
  extract_lets -merge t1 t2 t3 t4 t5 t6
  clear_value t1
  have h8 : Keeps s0 t2 := copyMem_keeps (scrub_keeps hs)
  clear_value t2
  have h9 : Keeps s0 t3 := Keeps.foldl (fun x10 x11 x12 => putWords_keeps x12) h8
  clear_value t3
  have h13 : Keeps s0 t4 := storeBytes_keeps h9
  clear_value t4
  have h14 : Keeps s0 t5 := putWords_keeps h13
  clear_value t5
  have h15 : Keeps s0 t6 := storeBytes_keeps h14
  clear_value t6
  exact storeBytes_keeps h15

theorem saveKernel_keeps {s0 k s} (hs : Keeps s0 s) : Keeps s0 (saveKernel k s) := by
  unfold saveKernel
  extract_lets -merge t1 t2 t3 t4
  clear_value t1 t2
  have h7 : Keeps s0 t3 := Keeps.foldl (fun x8 x9 x10 => saveFrame_keeps x10) hs
  clear_value t3
  have h11 : Keeps s0 t4 := Keeps.foldl (fun x12 x13 x14 => freeCore_keeps x14) h7
  clear_value t4
  exact odCount_keeps (odCount_keeps (updKernel_keeps h11))

theorem saveIfStopped_keeps {s0 kid s} (hs : Keeps s0 s) : Keeps s0 (saveIfStopped kid s) := by
  unfold saveIfStopped
  split
  · exact hs
  · extract_lets -merge t6
    clear_value t6
    exact Keeps.ite (saveKernel_keeps hs) hs

theorem noteNoFallback_keeps {s0 k c layer s} (hs : Keeps s0 s) : Keeps s0 (noteNoFallback k c layer s) := by
  unfold noteNoFallback
  extract_lets -merge t1 t2
  clear_value t1
  have h4 : Keeps s0 t2 := updPanel_keeps hs
  clear_value t2
  exact Keeps.ite hs (postPanel_keeps h4)

theorem resumeKernel_keeps {s0 k s} (hs : Keeps s0 s) : Keeps s0 (resumeKernel k s) := by
  unfold resumeKernel
  extract_lets -merge t1 t2
  have h3 : Keeps s0 t1 := Keeps.foldl (fun x4 x5 x6 => restoreFrame_keeps x6) hs
  clear_value t1
  have h7 : Keeps s0 t2 := odCount_keeps (updKernel_keeps h3)
  clear_value t2
  exact Keeps.foldl (fun x8 x9 x10 => reach_keeps x10) h7

theorem startKernel_keeps {s0 k b s} (hs : Keeps s0 s) : Keeps s0 (startKernel k b s) := by
  unfold startKernel
  extract_lets -merge t1 t2 t3 t4 t5 t6 t7 t8 t9 t10
  clear_value t1 t2 t3 t4
  have h15 : Keeps s0 t5 := updKernel_keeps hs
  clear_value t5
  have h16 : Keeps s0 t6 := Keeps.foldl (fun x17 x18 x19 => startOn_keeps x19) h15
  clear_value t6 t7
  have h21 : Keeps s0 t8 := odCount_keeps (odCount_keeps h16)
  clear_value t8
  have h22 : Keeps s0 t9 := measureStart_keeps h21
  clear_value t9
  have h23 : Keeps s0 t10 := Keeps.ite (noteNoFallback_keeps h22) h22
  clear_value t10
  exact Keeps.ite (coreFault_keeps h23) (Keeps.foldl (fun x24 x25 x26 => reach_keeps x26) h23)

theorem doKernelResume_keeps {s0 p s} (hs : Keeps s0 s) : Keeps s0 (doKernelResume p s) := by
  unfold doKernelResume
  split
  · exact hs
  · exact resumeKernel_keeps hs

theorem startAt_keeps {s0 k b s} (hs : Keeps s0 s) : Keeps s0 (startAt k b s) := by
  unfold startAt
  exact Keeps.ite (startBuiltIn_keeps hs) (startKernel_keeps hs)

theorem setDecide_keeps {s0 p step s} (hs : Keeps s0 s) : Keeps s0 (setDecide p step s) := by
  unfold setDecide
  exact Keeps.ite hs (panelKnot_keeps hs)

theorem decide__keeps {s0 p st s} (hs : Keeps s0 s) : Keeps s0 (decide_ p st s) := by
  unfold decide_
  extract_lets -merge t1 t2 t3 t4 t5 t6 t7 t8 t9
  clear_value t1 t2 t3 t4
  have h14 : Keeps s0 t5 := storeBytes_keeps (Keeps.of hs rfl rfl rfl)
  clear_value t5 t6
  have h16 : Keeps s0 t7 := Keeps.foldl (fun x17 x18 x19 => setExit_keeps x19) h14
  clear_value t7 t8
  have h21 : Keeps s0 t9 := Keeps.of h14 rfl rfl rfl
  clear_value t9
  exact Keeps.ite (setDecide_keeps (Keeps.ite h16 (odCount_keeps h16))) (Keeps.ite h21 (postPanel_keeps h21))

theorem doSchedDecide_keeps {s0 p step s} (hs : Keeps s0 s) : Keeps s0 (doSchedDecide p step s) := by
  unfold doSchedDecide
  extract_lets -merge t1
  clear_value t1
  exact Keeps.ite (setDecide_keeps (Keeps.of hs rfl rfl rfl)) hs

theorem decideAfter_keeps {s0 k s} (hs : Keeps s0 s) : Keeps s0 (decideAfter k s) := by
  unfold decideAfter
  exact Keeps.ite (decide__keeps hs) hs

theorem openDest_keeps {s0 s x} (hs : Keeps s0 s) : Keeps s0 (openDest s x) := by
  unfold openDest
  exact memWrite_keeps (freshBytes_keeps hs)

theorem endKernel_keeps {s0 k s} (hs : Keeps s0 s) : Keeps s0 (endKernel k s) := by
  unfold endKernel
  extract_lets -merge t1 t2 t3 t4 t6 t5
  clear_value t1 t2
  have h8 : Keeps s0 t3 := Keeps.foldl (fun x9 x10 x11 => freeCore_keeps x11) hs
  clear_value t3
  have h12 : Keeps s0 t4 := Keeps.foldl (fun x13 x14 x15 => updGroup_keeps x15) h8
  clear_value t4
  have h13 : Keeps s0 t6 := Keeps.foldl (fun _ _ k => openDest_keeps k) h12
  clear_value t6
  have h16 : Keeps s0 t5 := measureEnd_keeps (Keeps.of h13 rfl rfl rfl)
  clear_value t5
  exact decideAfter_keeps (completeRec_keeps h16)

theorem killKernel_keeps {s0 event s kid} (hs : Keeps s0 s) : Keeps s0 (killKernel event s kid) := by
  unfold killKernel
  extract_lets -merge t1
  have h2 : Keeps s0 t1 := abortKernel_keeps hs
  clear_value t1
  split
  · exact Keeps.ite (endKernel_keeps h2) h2
  · exact h2

theorem doKernelEnd_keeps {s0 kid s} (hs : Keeps s0 s) : Keeps s0 (doKernelEnd kid s) := by
  unfold doKernelEnd
  split
  · exact hs
  · exact Keeps.ite (endKernel_keeps hs) hs

theorem dropKernels_keeps {s0 p s} (hs : Keeps s0 s) : Keeps s0 (dropKernels p s) := by
  unfold dropKernels
  extract_lets -merge t1
  clear_value t1
  refine Keeps.foldl ?_ hs
  intro x3 x4 x5
  extract_lets -merge t6
  have h7 : Keeps s0 t6 := abortKernel_keeps x5
  clear_value t6
  split
  · exact endKernel_keeps h7
  · exact h7

theorem doSchedAbort_keeps {s0 p tag s} (hs : Keeps s0 s) : Keeps s0 (doSchedAbort p tag s) := by
  unfold doSchedAbort
  exact Keeps.foldl (fun x1 x2 x3 => killKernel_keeps x3) hs

theorem refuseLost_keeps {s0 k c s} (hs : Keeps s0 s) : Keeps s0 (refuseLost k c s) := by
  unfold refuseLost
  extract_lets -merge t1
  have h2 : Keeps s0 t1 := postBoth_keeps hs
  clear_value t1
  exact killKernel_keeps h2

theorem doKernelStart_keeps {s0 p s} (hs : Keeps s0 s) : Keeps s0 (doKernelStart p s) := by
  unfold doKernelStart
  split
  · exact refuseLost_keeps hs
  · split
    · exact hs
    · exact startAt_keeps hs

theorem doRingEnable_keeps {s0 h r s} (hs : Keeps s0 s) : Keeps s0 (doRingEnable h r s) := by
  unfold doRingEnable
  split
  · exact hs
  · extract_lets -merge t6
    clear_value t6
    exact Keeps.ite hs (updRing_keeps hs)

theorem takeRec_keeps {s0 c s} (hs : Keeps s0 s) : Keeps s0 (takeRec c s) := by
  unfold takeRec
  exact updRing_keeps hs

theorem dropCache_keeps {s0 h w} {pick : Nat → Bool} {s} (hs : Keeps s0 s) : Keeps s0 (dropCache h w pick s) := by
  unfold dropCache
  exact updPort_keeps hs

theorem doRingDisable_keeps {s0 h r s} (hs : Keeps s0 s) : Keeps s0 (doRingDisable h r s) := by
  unfold doRingDisable
  exact Keeps.ite hs (updRing_keeps hs)

theorem holdRing_keeps {s0 h r cause s} (hs : Keeps s0 s) : Keeps s0 (holdRing h r cause s) := by
  unfold holdRing
  exact updRing_keeps hs

theorem fenceRec_keeps {s0 c s} (hs : Keeps s0 s) : Keeps s0 (fenceRec c s) := by
  unfold fenceRec
  exact updRing_keeps hs

theorem holdRefused_keeps {s0 h r s} (hs : Keeps s0 s) : Keeps s0 (holdRefused h r s) := by
  unfold holdRefused
  exact holdRing_keeps hs

theorem countInbound_keeps {s0 h n s} (hs : Keeps s0 s) : Keeps s0 (countInbound h n s) := by
  unfold countInbound
  exact portCount_keeps (portCount_keeps hs)

theorem retryRing_keeps {s0 h r s} (hs : Keeps s0 s) : Keeps s0 (retryRing h r s) := by
  unfold retryRing
  exact flushRing_keeps (updRing_keeps hs)

theorem finishRec_keeps {s0 c status tag event s} (hs : Keeps s0 s) : Keeps s0 (finishRec c status tag event s) := by
  unfold finishRec
  exact completeRec_keeps hs

theorem retryEvents_keeps {s0 h w s} (hs : Keeps s0 s) : Keeps s0 (retryEvents h w s) := by
  unfold retryEvents
  split
  · exact hs
  · exact flushEvents_keeps (updPanel_keeps hs)

theorem doEventConsumer_keeps {s0 h w v s} (hs : Keeps s0 s) : Keeps s0 (doEventConsumer h w v s) := by
  unfold doEventConsumer
  exact Keeps.ite hs (retryEvents_keeps (updSlot_keeps hs))

theorem retrySlot_keeps {s0 h w s} (hs : Keeps s0 s) : Keeps s0 (retrySlot h w s) := by
  unfold retrySlot
  exact Keeps.foldl (fun x1 x2 x3 => retryRing_keeps x3) (retryEvents_keeps hs)

theorem bar2Write_keeps {s0 h o d s} (hs : Keeps s0 s) : Keeps s0 (bar2Write h o d s) := by
  unfold bar2Write
  extract_lets -merge t1 t2 t3
  clear_value t1 t2 t3
  split
  · exact portCount_keeps hs
  · exact Keeps.ite (portCount_keeps hs) (Keeps.ite (postPanel_keeps (portCount_keeps hs)) (Keeps.ite (portCount_keeps hs) (countInbound_keeps (writeBytes_keeps hs))))

theorem doInvalidate_keeps {s0 h w page s} (hs : Keeps s0 s) : Keeps s0 (doInvalidate h w page s) := by
  unfold doInvalidate
  exact Keeps.ite hs (retrySlot_keeps (dropCache_keeps hs))

theorem postRing_keeps {s0 h r code src a b s} (hs : Keeps s0 s) : Keeps s0 (postRing h r code src a b s) := by
  unfold postRing
  split
  · exact postPanel_keeps hs
  · exact hs

theorem holdInvalid_keeps {s0 h r s} (hs : Keeps s0 s) : Keeps s0 (holdInvalid h r s) := by
  unfold holdInvalid
  exact postRing_keeps (holdRing_keeps hs)

theorem slotField_keeps {s0 h w o v s} (hs : Keeps s0 s) : Keeps s0 (slotField h w o v s) := by
  unfold slotField
  extract_lets -merge t1 t2
  have h3 : ∀ z0, Keeps s0 z0 → Keeps s0 (t1 z0) := by
    unfold t1
    exact fun x4 x5 => dropCache_keeps x5
  clear_value t1
  have h6 : Keeps s0 t2 := updSlot_keeps hs
  clear_value t2
  refine Keeps.ite hs ?_
  split
  · exact Keeps.ite (updSlot_keeps hs) hs
  · exact Keeps.ite (updSlot_keeps hs) hs
  · exact h3 _ (updSlot_keeps hs)
  · exact h3 _ (updSlot_keeps hs)
  · exact Keeps.ite (h3 _ (updSlot_keeps hs)) hs
  · exact doInvalidate_keeps hs
  · exact Keeps.ite (updSlot_keeps hs) hs
  · refine Keeps.ite ?_ hs
    split
    · exact flushEvents_keeps h6
    · exact h6
  · exact doEventConsumer_keeps hs
  · exact Keeps.ite (updSlot_keeps hs) hs
  · exact updSlot_keeps hs
  · exact hs

theorem postRefused_keeps {s0 h r n type s} (hs : Keeps s0 s) : Keeps s0 (postRefused h r n type s) := by
  unfold postRefused
  exact postRing_keeps hs

theorem holdRec_keeps {s0 c s} (hs : Keeps s0 s) : Keeps s0 (holdRec c s) := by
  unfold holdRec
  exact postRefused_keeps (holdRefused_keeps hs)

theorem checkHead_keeps {s0 h r s} (hs : Keeps s0 s) : Keeps s0 (checkHead h r s) := by
  unfold checkHead
  extract_lets -merge t1 t2
  clear_value t1 t2
  exact Keeps.ite hs (Keeps.ite (Keeps.ite (holdInvalid_keeps hs) hs) (Keeps.ite (postRefused_keeps (holdRefused_keeps hs)) hs))

theorem endFence_keeps {s0 h r n type cqe tag status event s} (hs : Keeps s0 s) :
    Keeps s0 (endFence h r n type cqe tag status event s) := by
  unfold endFence
  exact checkHead_keeps (completeRec_keeps (updRing_keeps hs))

theorem doDoorbell_keeps {s0 h r t s} (hs : Keeps s0 s) : Keeps s0 (doDoorbell h r t s) := by
  unfold doDoorbell
  extract_lets -merge t1 t2 t3 t4
  have h5 : Keeps s0 t1 := updRing_keeps hs
  clear_value t1 t2 t3 t4
  exact Keeps.ite hs (Keeps.ite h5 (Keeps.ite (checkHead_keeps h5) (Keeps.ite (checkHead_keeps (updRing_keeps h5)) (Keeps.ite (checkHead_keeps (updRing_keeps h5)) (postRing_keeps (holdRing_keeps h5))))))

theorem doneRec_keeps {s0 c status event s} (hs : Keeps s0 s) : Keeps s0 (doneRec c status event s) := by
  unfold doneRec
  exact checkHead_keeps (finishRec_keeps (takeRec_keeps hs))

theorem withRec_keeps {s0 h r} {pick : Rec → Bool} {f : Rec → State → State} {s}
    (hf : ∀ z0 z1, Keeps s0 z1 → Keeps s0 (f z0 z1))
    (hs : Keeps s0 s) :
    Keeps s0 (withRec h r pick f s) := by
  unfold withRec
  split
  · exact Keeps.ite (hf _ _ hs) hs
  · exact checkHead_keeps hs

theorem refuseRec_keeps {s0 c s} (hs : Keeps s0 s) : Keeps s0 (refuseRec c s) := by
  unfold refuseRec
  exact postRefused_keeps (doneRec_keeps hs)

theorem publishNow_keeps {s0 h r n cqe tag s} (hs : Keeps s0 s) : Keeps s0 (publishNow h r n cqe tag s) := by
  unfold publishNow
  split
  · exact endFence_keeps hs
  · extract_lets -merge t6
    have h7 : Keeps s0 t6 := tbFlush_keeps hs
    clear_value t6
    exact Keeps.ite (endFence_keeps h7) h7

theorem doNopRecord_keeps {s0 h r s} (hs : Keeps s0 s) : Keeps s0 (doNopRecord h r s) := by
  unfold doNopRecord
  exact withRec_keeps (fun x1 x2 x3 => Keeps.ite (doneRec_keeps x3) (refuseRec_keeps x3)) hs

theorem doKernel_keeps {s0 h r s} (hs : Keeps s0 s) : Keeps s0 (doKernel h r s) := by
  unfold doKernel
  refine withRec_keeps ?_ hs
  intro x1 x2 x3
  extract_lets -merge t4 t5 t6 t7 t8
  clear_value t4 t5
  have h11 : Keeps s0 t6 := takeRec_keeps x3
  clear_value t6
  have h12 : Keeps s0 t7 := Keeps.of h11 rfl rfl rfl
  clear_value t7
  have h13 : Keeps s0 t8 := by
    unfold t8
    split
    · exact refuseLost_keeps h12
    · exact h12
  clear_value t8
  refine Keeps.ite (postPanel_keeps (doneRec_keeps x3)) ?_
  refine Keeps.ite (refuseRec_keeps x3) ?_
  split
  · exact postPanel_keeps (doneRec_keeps x3)
  · exact checkHead_keeps h13

theorem updStreamer_keeps {s0 p} {f : Streamer → Streamer} {s} (hs : Keeps s0 s) : Keeps s0 (updStreamer p f s) := by
  unfold updStreamer
  exact updPanel_keeps hs

theorem updSnap_keeps {s0 p} {f : Snap → Snap} {s} (hs : Keeps s0 s) : Keeps s0 (updSnap p f s) := by
  unfold updSnap
  exact updPanel_keeps hs

theorem doFillStart_keeps {s0 p s} (hs : Keeps s0 s) : Keeps s0 (doFillStart p s) := by
  unfold doFillStart
  split
  · exact hs
  · exact Keeps.ite (updStreamer_keeps hs) hs

theorem snapWrite_keeps {s0 p a b s} (hs : Keeps s0 s) : KeepsOpt s0 (snapWrite p a b s) := by
  unfold snapWrite
  extract_lets -merge t1 t2 t3
  clear_value t1 t2 t3
  refine KeepsOpt.ite (KeepsOpt.some hs) ?_
  refine KeepsOpt.ite KeepsOpt.none ?_
  refine KeepsOpt.some ?_
  refine Keeps.foldl ?_ hs
  intro x7 x8 x9
  split
  · rename_i y10 y11 y12 y13
    have h14 : Keeps s0 y12 := KeepsPair.elim y13 (translate_keeps x9)
    exact portSend_keeps h14
  · rename_i y15 y16 y17 y18
    have h19 : Keeps s0 y17 := KeepsPair.elim y18 (translate_keeps x9)
    exact h19

theorem writeWhole_keeps {s0 a b s} (hs : Keeps s0 s) : Keeps s0 (writeWhole a b s) := by
  unfold writeWhole
  split
  · exact writeBytes_keeps hs
  · exact Keeps.ite (writeBytes_keeps hs) (writeBytes_keeps hs)

theorem doWindowStart_keeps {s0 h r s} (hs : Keeps s0 s) : Keeps s0 (doWindowStart h r s) := by
  unfold doWindowStart
  refine withRec_keeps ?_ hs
  intro x1 x2 x3
  extract_lets -merge t4 t5 t6
  clear_value t4 t5 t6
  refine Keeps.ite (doneRec_keeps x3) ?_
  split
  · exact postPanel_keeps (doneRec_keeps x3)
  · exact doneRec_keeps (updPanel_keeps x3)

theorem doGraftRegister_keeps {s0 h r s} (hs : Keeps s0 s) : Keeps s0 (doGraftRegister h r s) := by
  unfold doGraftRegister
  refine withRec_keeps ?_ hs
  intro x1 x2 x3
  refine Keeps.ite (doneRec_keeps x3) ?_
  split
  · exact postPanel_keeps (doneRec_keeps x3)
  · exact doneRec_keeps (Keeps.of x3 rfl rfl rfl)

theorem doWindowStop_keeps {s0 h r s} (hs : Keeps s0 s) : Keeps s0 (doWindowStop h r s) := by
  unfold doWindowStop
  exact withRec_keeps (fun x1 x2 x3 => doneRec_keeps (updPanel_keeps x3)) hs

theorem doGraftRelease_keeps {s0 h r s} (hs : Keeps s0 s) : Keeps s0 (doGraftRelease h r s) := by
  unfold doGraftRelease
  exact withRec_keeps (fun x1 x2 x3 => doneRec_keeps (Keeps.of x3 rfl rfl rfl)) hs

theorem doSchedule_keeps {s0 h r s} (hs : Keeps s0 s) : Keeps s0 (doSchedule h r s) := by
  unfold doSchedule
  refine withRec_keeps ?_ hs
  intro x1 x2 x3
  extract_lets -merge t4
  clear_value t4
  exact Keeps.ite (postPanel_keeps (holdRefused_keeps x3)) (doneRec_keeps (updPanel_keeps (applySchedule_keeps x3)))

theorem advanceFills_keeps {s0 p a1 a2} (hs : Keeps s0 a2) : Keeps s0 (advanceFills p a1 a2) := by
  induction a1 generalizing a2 with
  | zero =>
    unfold advanceFills
    exact hs
  | succ n ih =>
    unfold advanceFills
    split
    · exact hs
    · extract_lets -merge t6
      have h7 : Keeps s0 t6 := updStreamer_keeps hs
      clear_value t6
      exact Keeps.ite (ih (panelKnot_keeps h7)) hs

theorem doFillComplete_keeps {s0 p n s} (hs : Keeps s0 s) : Keeps s0 (doFillComplete p n s) := by
  unfold doFillComplete
  split
  · exact hs
  · extract_lets -merge t6 t7 t8 t9
    clear_value t6 t7 t8 t9
    refine Keeps.ite hs ?_
    split
    · exact updPanel_keeps (postPanel_keeps hs)
    · split
      · rename_i y19 y20 y21 y22
        have h23 : Keeps s0 y21 := KeepsPair.elim y22 (readMeets_keeps hs)
        exact h23
      · rename_i y24 y25 y26
        have h27 : Keeps s0 y25 := KeepsPair.elim y26 (readMeets_keeps hs)
        split
        · exact readFail_keeps (odCount_keeps h27)
        · extract_lets -merge t33
          have h34 : Keeps s0 t33 := writeWhole_keeps (noteRead_keeps (noteRead_keeps h27))
          clear_value t33
          exact pumpCores_keeps (advanceFills_keeps (updStreamer_keeps h34))

theorem abandonSnap_keeps {s0 p s} (hs : Keeps s0 s) : Keeps s0 (abandonSnap p s) := by
  unfold abandonSnap
  split
  · exact hs
  · extract_lets -merge t6 t7
    have h8 : Keeps s0 t6 := odCount_keeps (updPanel_keeps hs)
    clear_value t6
    have h9 : Keeps s0 t7 := postPanel_keeps h8
    clear_value t7
    exact pumpCores_keeps (checkHead_keeps (completeRec_keeps h9))

theorem flushSnap_keeps {s0 p s} (hs : Keeps s0 s) : Keeps s0 (flushSnap p s) := by
  unfold flushSnap
  split
  · exact hs
  · split
    · rename_i y6 y7
      exact hs
    · rename_i y8 y9 y10
      have h11 : Keeps s0 y9 := KeepsOpt.elim y10 (snapWrite_keeps hs)
      extract_lets -merge t12 t13
      have h14 : Keeps s0 t12 := updSnap_keeps h11
      clear_value t12
      have h15 : Keeps s0 t13 := odCount_keeps (updPanel_keeps h14)
      clear_value t13
      exact Keeps.ite h14 (pumpCores_keeps (checkHead_keeps (completeRec_keeps h15)))

theorem doSnapEntry_keeps {s0 p s} (hs : Keeps s0 s) : Keeps s0 (doSnapEntry p s) := by
  unfold doSnapEntry
  split
  · exact hs
  · extract_lets -merge t6 t7 t8 t9 t10 t11
    clear_value t6 t7 t8 t9 t10
    refine Keeps.ite (flushSnap_keeps hs) ?_
    refine Keeps.ite hs ?_
    refine Keeps.ite hs ?_
    refine Keeps.ite hs ?_
    split
    · rename_i y18 y19 y20 y21
      have h22 : Keeps s0 y20 := KeepsPair.elim y21 (hubMeets_keeps hs)
      exact h22
    · rename_i y23 y24 y25
      have h26 : Keeps s0 y24 := KeepsPair.elim y25 (hubMeets_keeps hs)
      extract_lets -merge t27 t28 t29
      clear_value t27 t28 t29
      exact pumpCores_keeps (flushSnap_keeps (updPanel_keeps (noteRead_keeps h26)))

theorem startSnap_keeps {s0 c s} (hs : Keeps s0 s) : Keeps s0 (startSnap c s) := by
  unfold startSnap
  extract_lets -merge t1 t2 t3 t4 t5 t6
  clear_value t1 t2 t3 t4 t5 t6
  exact flushSnap_keeps (updPanel_keeps (odPut_keeps hs))

theorem doSnapshot_keeps {s0 h r s} (hs : Keeps s0 s) : Keeps s0 (doSnapshot h r s) := by
  unfold doSnapshot
  refine withRec_keeps ?_ hs
  intro x1 x2 x3
  refine Keeps.ite x3 ?_
  split
  · exact postPanel_keeps (doneRec_keeps x3)
  · exact checkHead_keeps (startSnap_keeps (takeRec_keeps x3))

theorem settleMode_keeps {s0 s} (hs : Keeps s0 s) : Keeps s0 (settleMode s) := by
  unfold settleMode
  extract_lets -merge t1
  clear_value t1
  exact Keeps.ite (Keeps.of hs rfl rfl rfl) hs

theorem loseKey_keeps {s0 lo hi s} (hs : Keeps s0 s) : Keeps s0 (loseKey lo hi s) := by
  exact hs.trans ⟨memZero_wf s.mem lo (hi - lo), rfl, Nat.le_succ _⟩

theorem drawBytes_keeps {s0 n s} (hs : Keeps s0 s) : KeepsPair s0 (drawBytes n s) := by
  unfold drawBytes
  exact freshBytes_keeps hs

theorem doRootUp_keeps {s0 x lanes gts cap s} (hs : Keeps s0 s) : Keeps s0 (doRootUp x lanes gts cap s) := by
  unfold doRootUp
  exact Keeps.ite hs (updRootPort_keeps hs)

theorem writeRebuild_keeps {s0 x s} (hs : Keeps s0 s) : KeepsPair s0 (writeRebuild x s) := by
  unfold writeRebuild
  extract_lets -merge t1 t2 t3
  clear_value t1
  have h5 : Keeps s0 t2 := updRootPort_keeps hs
  clear_value t2 t3
  exact KeepsPair.ite (KeepsPair.mk hs) (KeepsPair.ite (KeepsPair.mk hs) (KeepsPair.mk (Keeps.of h5 rfl rfl rfl)))

theorem doRebuildDone_keeps {s0 x s} (hs : Keeps s0 s) : Keeps s0 (doRebuildDone x s) := by
  unfold doRebuildDone
  extract_lets -merge t1 t2
  have h3 : Keeps s0 t1 := updRootPort_keeps hs
  clear_value t1 t2
  exact Keeps.ite hs (Keeps.of h3 rfl rfl rfl)

theorem writeRootMode_keeps {s0 parityPort v s} (hs : Keeps s0 s) : KeepsPair s0 (writeRootMode parityPort v s) := by
  unfold writeRootMode
  extract_lets -merge t1 t2 t3 t4
  clear_value t1
  have h6 : Keeps s0 t2 := Keeps.of hs rfl rfl rfl
  clear_value t2
  have h7 : Keeps s0 t3 := odPut_keeps h6
  clear_value t3
  have h8 : Keeps s0 t4 := Keeps.foldl (fun x9 x10 x11 => Keeps.ite x11 (updRootPort_keeps x11)) h7
  clear_value t4
  exact KeepsPair.ite (KeepsPair.mk hs) (KeepsPair.ite (KeepsPair.mk hs) (KeepsPair.ite (KeepsPair.mk hs) (KeepsPair.mk (settleMode_keeps (scrub_keeps h8)))))

theorem dropRootKeys_keeps {s0 p s} (hs : Keeps s0 s) : Keeps s0 (dropRootKeys p s) := by
  unfold dropRootKeys
  exact Keeps.foldl (fun x1 x2 x3 => loseKey_keeps x3) (updPanel_keeps hs)

theorem drawRootKeys_keeps {s0 p s} (hs : Keeps s0 s) : Keeps s0 (drawRootKeys p s) := by
  unfold drawRootKeys
  split
  · rename_i y1 y2 y3 y4
    have h5 : Keeps s0 y3 := KeepsPair.elim y4 (drawBytes_keeps (dropRootKeys_keeps hs))
    split
    · rename_i y6 y7 y8 y9
      have h10 : Keeps s0 y8 := KeepsPair.elim y9 (KeepsPair.ite (drawBytes_keeps h5) (KeepsPair.mk h5))
      exact updPanel_keeps h10

theorem writeDirectWays_keeps {s0 p n s} (hs : Keeps s0 s) : KeepsPair s0 (writeDirectWays p n s) := by
  unfold writeDirectWays
  extract_lets -merge t1
  have h2 : Keeps s0 t1 := odPut_keeps hs
  clear_value t1
  refine KeepsPair.ite (KeepsPair.mk hs) ?_
  refine KeepsPair.ite (KeepsPair.mk hs) ?_
  refine KeepsPair.mk ?_
  refine Keeps.foldl ?_ h2
  intro x3 x4 x5
  extract_lets -merge t6 t7 t8 t9 t10
  clear_value t6 t7 t8 t9
  have h15 : Keeps s0 t10 := tbDrop_keeps x5
  clear_value t10
  exact Keeps.foldl (fun x16 x17 x18 => scrub_keeps x18) h15

theorem failMode_keeps {s0 x cause s} (hs : Keeps s0 s) : Keeps s0 (failMode x cause s) := by
  unfold failMode
  extract_lets -merge t1 t2 t3 t4 t5
  have h6 : Keeps s0 t1 := updRootPort_keeps hs
  clear_value t1
  have h7 : Keeps s0 t2 := odPut_keeps (odPut_keeps h6)
  clear_value t2 t3
  have h9 : Keeps s0 t4 := Keeps.of h7 rfl rfl rfl
  clear_value t4
  have h10 : Keeps s0 t5 := Keeps.foldl (fun x11 x12 x13 => drawRootKeys_keeps x13) h9
  clear_value t5
  exact Keeps.ite h6 (postMgmt_keeps h10)

theorem doRootDown_keeps {s0 x s} (hs : Keeps s0 s) : Keeps s0 (doRootDown x s) := by
  unfold doRootDown
  extract_lets -merge t1 t2 t3 t4
  clear_value t1
  have h6 : Keeps s0 t2 := updRootPort_keeps hs
  clear_value t2
  have h7 : Keeps s0 t3 := by
    unfold t3
    split
    · extract_lets -merge t11 t12
      have h13 : Keeps s0 t11 := updRootPort_keeps h6
      clear_value t11 t12
      exact Keeps.of h13 rfl rfl rfl
    · exact h6
  clear_value t3
  have h17 : Keeps s0 t4 := scrub_keeps h7
  clear_value t4
  refine Keeps.ite hs ?_
  refine Keeps.ite (updRootPort_keeps hs) ?_
  refine Keeps.ite h7 ?_
  split
  · exact postBoth_keeps h17
  · exact postMgmt_keeps h17

theorem doSanitized_keeps {s0 x ok s} (hs : Keeps s0 s) : Keeps s0 (doSanitized x ok s) := by
  unfold doSanitized
  exact Keeps.ite hs (Keeps.ite (settleMode_keeps (updRootPort_keeps hs)) (failMode_keeps hs))

theorem doSanitizeTimeout_keeps {s0 x s} (hs : Keeps s0 s) : Keeps s0 (doSanitizeTimeout x s) := by
  unfold doSanitizeTimeout
  exact Keeps.ite hs (failMode_keeps hs)

theorem doReadFailure_keeps {s0 a tagFailed s} (hs : Keeps s0 s) : Keeps s0 (doReadFailure a tagFailed s) := by
  unfold doReadFailure
  extract_lets -merge t1
  have h2 : Keeps s0 t1 := Keeps.ite (odCount_keeps hs) (Keeps.ite (odCount_keeps hs) hs)
  clear_value t1
  exact readFail_keeps h2

theorem pumpAll_keeps {s0 s} (hs : Keeps s0 s) : Keeps s0 (pumpAll s) := by
  unfold pumpAll
  exact Keeps.foldl (fun x1 x2 x3 => pumpCores_keeps x3) hs

theorem writeRestoreDone_keeps {s0 p knot good s} (hs : Keeps s0 s) : KeepsPair s0 (writeRestoreDone p knot good s) := by
  unfold writeRestoreDone
  refine KeepsPair.ite (KeepsPair.mk hs) ?_
  split
  · exact KeepsPair.mk hs
  · exact KeepsPair.ite (KeepsPair.mk (pumpCores_keeps (finishRestore_keeps (Keeps.of hs rfl rfl rfl)))) (KeepsPair.mk (postPanel_keeps hs))

theorem dropReq_keeps {s0 t s} (hs : Keeps s0 s) : Keeps s0 (dropReq t s) := by
  unfold dropReq
  split
  · exact Keeps.of hs rfl rfl rfl
  · exact hs

theorem updTable_keeps {s0 n} {f : TableSlot → TableSlot} {s} (hs : Keeps s0 s) : Keeps s0 (updTable n f s) := by
  unfold updTable
  exact Keeps.of hs rfl rfl rfl

theorem tableClip_keeps {s0 q t b s} (hs : Keeps s0 s) : KeepsPair s0 (tableClip q t b s) := by
  unfold tableClip
  extract_lets -merge t1
  have h2 : KeepsPair s0 t1 := freshVal_keeps hs
  clear_value t1
  exact KeepsPair.ite (KeepsPair.mk (KeepsPair.snd h2)) (KeepsPair.mk hs)

theorem padLookups_keeps {s0 d i a2 a3} (hs : Keeps s0 a3) : KeepsPair s0 (padLookups d i a2 a3) := by
  induction a2 generalizing a3 with
  | zero =>
    unfold padLookups
    exact KeepsPair.mk hs
  | succ n ih =>
    unfold padLookups
    extract_lets -merge t1 t2
    have h3 : KeepsPair s0 t1 := freshVal_keeps hs
    clear_value t1
    have h4 : KeepsPair s0 t2 := ih (KeepsPair.snd h3)
    clear_value t2
    exact KeepsPair.mk (KeepsPair.snd h4)

theorem failLookup_keeps {s0 n code s l} (hs : Keeps s0 s) : Keeps s0 (failLookup n code s l) := by
  unfold failLookup
  split
  · exact hs
  · extract_lets -merge t6
    have h7 : Keeps s0 t6 := updTable_keeps hs
    clear_value t6
    exact updMove_keeps (abortKernel_keeps h7)

theorem doneReq_keeps {s0 q s} (hs : Keeps s0 s) : Keeps s0 (doneReq q s) := by
  unfold doneReq
  exact updMove_keeps hs

theorem freeTable_keeps {s0 n s} (hs : Keeps s0 s) : Keeps s0 (freeTable n s) := by
  unfold freeTable
  extract_lets -merge t1
  have h2 : Keeps s0 t1 := Keeps.foldl (fun x3 x4 x5 => updMove_keeps x5) hs
  clear_value t1
  exact updTable_keeps h2

theorem loseReq_keeps {s0 q s} (hs : Keeps s0 s) : Keeps s0 (loseReq q s) := by
  unfold loseReq
  exact doneReq_keeps (abortKernel_keeps hs)

theorem gatherMember_keeps {s0 t q s} (hs : Keeps s0 s) : Keeps s0 (gatherMember t q s) := by
  unfold gatherMember
  extract_lets -merge t1 t2
  clear_value t1
  have h4 : Keeps s0 t2 := dropReq_keeps hs
  clear_value t2
  exact Keeps.ite (doneReq_keeps h4) (updTable_keeps h4)

theorem engineWrite_keeps {s0 a b s} (hs : Keeps s0 s) : KeepsOpt s0 (engineWrite a b s) := by
  unfold engineWrite
  exact KeepsOpt.ite KeepsOpt.none (KeepsOpt.some (writeBytes_keeps hs))

theorem engineWrites_keeps {s0 a0 a1} (hs : Keeps s0 a1) : KeepsOpt s0 (engineWrites a0 a1) := by
  induction a0 generalizing a1 with
  | nil =>
    unfold engineWrites
    exact KeepsOpt.some hs
  | cons b l ih =>
    unfold engineWrites
    split
    · rename_i y1 y2 y3
      have h4 : Keeps s0 y2 := KeepsOpt.elim y3 (engineWrite_keeps hs)
      exact ih h4
    · rename_i y5 y6
      exact KeepsOpt.none

theorem scatterOne_keeps {s0 d q i s} (hs : Keeps s0 s) : KeepsPair s0 (scatterOne d q i s) := by
  unfold scatterOne
  extract_lets -merge t1 t2 t3 t4 t5 t6 t7 t8
  clear_value t1 t2 t3 t4
  have h13 : Keeps s0 t5 := noteRead_keeps (noteRead_keeps hs)
  clear_value t5
  have h14 : ∀ z0, KeepsPair s0 (t6 z0) := by
    unfold t6
    intro x15
    split
    · rename_i y16 y17 y18
      have h19 : Keeps s0 y17 := KeepsOpt.elim y18 (engineWrites_keeps h13)
      exact KeepsPair.mk h19
    · rename_i y20 y21
      exact KeepsPair.mk h13
  clear_value t6 t7 t8
  exact KeepsPair.ite (KeepsPair.mk hs) (KeepsPair.ite (KeepsPair.ite (KeepsPair.mk h13) (h14 _)) (h14 _))

theorem updateRow_keeps {s0 d e cf seed ok s k} (hs : Keeps s0 s) : KeepsPair s0 (updateRow d e cf seed ok s k) := by
  unfold updateRow
  extract_lets -merge t1 t2 t3 t4 t5 t6 t7
  clear_value t1 t2 t3 t4 t5 t6
  have h14 : Keeps s0 t7 := noteRead_keeps (noteRead_keeps (noteRead_keeps hs))
  clear_value t7
  refine KeepsPair.ite (KeepsPair.mk hs) ?_
  split
  · rename_i y15 y16 y17
    have h18 : Keeps s0 y16 := KeepsOpt.elim y17 (engineWrites_keeps h14)
    exact KeepsPair.mk h18
  · rename_i y19 y20
    exact KeepsPair.mk h14

theorem scatterFrom_keeps {s0 d q a2 a3 a4} (hs : Keeps s0 a4) : KeepsPair s0 (scatterFrom d q a2 a3 a4) := by
  induction a2 generalizing a3 a4 with
  | zero =>
    unfold scatterFrom
    exact KeepsPair.mk hs
  | succ n ih =>
    unfold scatterFrom
    refine KeepsPair.ite (KeepsPair.mk hs) ?_
    split
    · rename_i y1 y2 y3
      have h4 : Keeps s0 y2 := KeepsPair.elim y3 (scatterOne_keeps hs)
      exact ih h4
    · rename_i y5 y6
      exact scatterOne_keeps hs

theorem refuseReq_keeps {s0 q t cause s} (hs : Keeps s0 s) : Keeps s0 (refuseReq q t cause s) := by
  unfold refuseReq
  extract_lets -merge t1
  have h2 : Keeps s0 t1 := coreFault_keeps hs
  clear_value t1
  exact updMove_keeps h2

theorem doTableRelease_keeps {s0 h r s} (hs : Keeps s0 s) : Keeps s0 (doTableRelease h r s) := by
  unfold doTableRelease
  exact withRec_keeps (fun x1 x2 x3 => Keeps.ite (doneRec_keeps (freeTable_keeps x3)) (doneRec_keeps x3)) hs

theorem doTableRegister_keeps {s0 h r s} (hs : Keeps s0 s) : Keeps s0 (doTableRegister h r s) := by
  unfold doTableRegister
  refine withRec_keeps ?_ hs
  intro x1 x2 x3
  refine Keeps.ite (doneRec_keeps x3) ?_
  split
  · exact postPanel_keeps (doneRec_keeps x3)
  · exact doneRec_keeps (updTable_keeps x3)

theorem tableMessage_keeps {s0 q fab data s} (hs : Keeps s0 s) : Keeps s0 (tableMessage q fab data s) := by
  unfold tableMessage
  extract_lets -merge t1
  clear_value t1
  refine Keeps.ite hs ?_
  refine Keeps.foldl ?_ hs
  intro x3 x4 x5
  extract_lets -merge t6
  clear_value t6
  exact qpSend_keeps x5

theorem sendBatch_keeps {s0 n d s i} (hs : Keeps s0 s) : Keeps s0 (sendBatch n d s i) := by
  unfold sendBatch
  extract_lets -merge t1 t2
  clear_value t1 t2
  split
  · rename_i y5 y6 y7 y8
    have h9 : Keeps s0 y7 := KeepsPair.elim y8 (padLookups_keeps hs)
    extract_lets -merge t10 t11 t12
    clear_value t10
    have h14 : Keeps s0 t11 := updTable_keeps h9
    clear_value t11
    have h15 : Keeps s0 t12 := Keeps.ite h14 (tableMessage_keeps h14)
    clear_value t12
    exact odCount_keeps (odCount_keeps h15)

theorem waitData_keeps {s0 q areas s} (hs : Keeps s0 s) : KeepsOptPair s0 (waitData q areas s) := by
  unfold waitData
  split
  · rename_i y1 y2 y3
    have h4 : Keeps s0 y2 := KeepsPair.elim y3 (readMeets_keeps hs)
    exact KeepsOptPair.none
  · rename_i y5 y6 y7 y8
    have h9 : Keeps s0 y7 := KeepsPair.elim y8 (readMeets_keeps hs)
    exact KeepsOptPair.some (updMove_keeps h9)
  · rename_i y10 y11 y12 y13
    have h14 : Keeps s0 y12 := KeepsPair.elim y13 (readMeets_keeps hs)
    exact KeepsOptPair.some (loseReq_keeps h14)

theorem gatherNow_keeps {s0 t q d s} (hs : Keeps s0 s) : Keeps s0 (gatherNow t q d s) := by
  unfold gatherNow
  extract_lets -merge t1 t2 t3
  clear_value t1 t2
  have h6 : Keeps s0 t3 := Keeps.foldl (fun x7 x8 x9 => noteRead_keeps x9) hs
  clear_value t3
  split
  · rename_i y10 y11 y12
    have h13 : Keeps s0 y11 := KeepsOptPair.elim y12 (waitData_keeps hs)
    exact dropReq_keeps h13
  · rename_i y14 y15 y16
    have h17 : Keeps s0 y15 := KeepsOptPair.elim y16 (waitData_keeps hs)
    exact h17
  · rename_i y18 y19
    split
    · rename_i y20 y21 y22
      have h23 : Keeps s0 y21 := KeepsOpt.elim y22 (engineWrite_keeps h6)
      exact pumpCores_keeps (dropReq_keeps (doneReq_keeps h23))
    · rename_i y24 y25
      exact dropReq_keeps (loseReq_keeps h6)

theorem rowCame_keeps {s0 n l b s} (hs : Keeps s0 s) : Keeps s0 (rowCame n l b s) := by
  unfold rowCame
  extract_lets -merge t1 t2
  have h3 : Keeps s0 t1 := updTable_keeps hs
  clear_value t1 t2
  split
  · exact h3
  · extract_lets -merge t10 t11 t12
    clear_value t10 t11
    have h15 : Keeps s0 t12 := updTable_keeps h3
    clear_value t12
    refine Keeps.ite h3 ?_
    split
    · rename_i y16 y17 y18
      have h19 : Keeps s0 y17 := KeepsOpt.elim y18 (engineWrite_keeps h15)
      exact pumpCores_keeps (doneReq_keeps h19)
    · rename_i y20 y21
      exact loseReq_keeps h15

theorem withReq_keeps {s0 t op} {f : TableReq → TableDesc → State → State} {s}
    (hf : ∀ z0 z1 z2, Keeps s0 z2 → Keeps s0 (f z0 z1 z2))
    (hs : Keeps s0 s) :
    Keeps s0 (withReq t op f s) := by
  unfold withReq
  split
  · exact hs
  · extract_lets -merge t7
    clear_value t7
    refine Keeps.ite (dropReq_keeps hs) ?_
    split
    · exact dropReq_keeps (refuseReq_keeps hs)
    · refine Keeps.ite (dropReq_keeps (doneReq_keeps (regionAbort_keeps hs))) ?_
      split
      · rename_i y14 y15 y16
        have h17 : Keeps s0 y15 := KeepsOptPair.elim y16 (waitData_keeps hs)
        exact dropReq_keeps h17
      · rename_i y18 y19 y20
        have h21 : Keeps s0 y19 := KeepsOptPair.elim y20 (waitData_keeps hs)
        exact h21
      · rename_i y22 y23
        split
        · exact dropReq_keeps (refuseReq_keeps hs)
        · split
          · exact dropReq_keeps (doneReq_keeps (regionAbort_keeps hs))
          · exact Keeps.ite (hf _ _ _ (noteRead_keeps hs)) hs

theorem doTableGather_keeps {s0 t s} (hs : Keeps s0 s) : Keeps s0 (doTableGather t s) := by
  unfold doTableGather
  exact withReq_keeps (fun x1 x2 x3 x4 => Keeps.ite (gatherMember_keeps x4) (gatherNow_keeps x4)) hs

theorem repliesCame_keeps {s0 n bytes s} (hs : Keeps s0 s) : Keeps s0 (repliesCame n bytes s) := by
  unfold repliesCame
  extract_lets -merge t1 t2
  clear_value t1
  have h4 : Keeps s0 t2 := updTable_keeps hs
  clear_value t2
  refine Keeps.foldl ?_ h4
  intro x5 x6 x7
  refine Keeps.foldl ?_ x7
  intro x8 x9 x10
  extract_lets -merge t11
  have h12 : KeepsPair s0 t11 := freshBytes_keeps x10
  clear_value t11
  exact rowCame_keeps (KeepsPair.snd h12)

theorem doTableUpdate_keeps {s0 t s} (hs : Keeps s0 s) : Keeps s0 (doTableUpdate t s) := by
  unfold doTableUpdate
  refine withReq_keeps ?_ hs
  intro x1 x2 x3 x4
  extract_lets -merge t5 t6 t7 t8
  clear_value t5 t6 t7 t8
  split
  · rename_i y13 y14 y15
    have h16 : Keeps s0 y14 := KeepsOptPair.elim y15 (waitData_keeps x4)
    exact dropReq_keeps h16
  · rename_i y17 y18 y19
    have h20 : Keeps s0 y18 := KeepsOptPair.elim y19 (waitData_keeps x4)
    exact h20
  · rename_i y21 y22
    split
    · rename_i y23 y24 y25 y26
      have h27 : Keeps s0 y25 := KeepsPair.elim y26 (tableClip_keeps x4)
      extract_lets -merge t28 t29
      clear_value t28
      have h31 : KeepsPair s0 t29 := KeepsPair.foldl (fun x32 x33 x34 => updateRow_keeps (KeepsPair.snd x34)) (KeepsPair.mk (noteRead_keeps h27))
      clear_value t29
      refine Keeps.ite (pumpCores_keeps (dropReq_keeps (doneReq_keeps (onceEffect_keeps (fun x35 x36 => x36) h27)))) ?_
      split
      · rename_i y37 y38 y39
        have h40 : Keeps s0 y38 := KeepsOpt.elim y39 (KeepsOpt.ite (engineWrite_keeps (KeepsPair.snd h31)) KeepsOpt.none)
        exact pumpCores_keeps (dropReq_keeps (doneReq_keeps (onceEffect_keeps (fun x41 x42 => x42) h40)))
      · rename_i y43 y44
        exact dropReq_keeps (loseReq_keeps (KeepsPair.snd h31))

theorem doBatchServe_keeps {s0 n src rows s} (hs : Keeps s0 s) : Keeps s0 (doBatchServe n src rows s) := by
  unfold doBatchServe
  extract_lets -merge t1 t2 t3 t4 t5 t6
  clear_value t1 t2 t3 t4 t5 t6
  split
  · exact hs
  · extract_lets -merge t18
    clear_value t18
    split
    · rename_i y20 y21 y22 y23
      have h24 : Keeps s0 y22 := KeepsPair.elim y23 (readMeets_keeps hs)
      exact h24
    · rename_i y25 y26 y27 y28 y29
      have h30 : Keeps s0 y27 := KeepsPair.elim y29 (readMeets_keeps hs)
      extract_lets -merge t31 t32 t33 t34 t35 t36 t37
      clear_value t31
      have h39 : Keeps s0 t32 := by
        unfold t32
        split
        · exact postPanel_keeps h30
        · exact h30
      clear_value t32
      have h45 : Keeps s0 t33 := Keeps.foldl (fun x46 x47 x48 => noteRead_keeps x48) h39
      clear_value t33 t34
      have h50 : Keeps s0 t35 := Keeps.ite h45 (tableMessage_keeps h45)
      clear_value t35
      have h51 : Keeps s0 t36 := updTable_keeps h50
      clear_value t36
      have h52 : Keeps s0 t37 := Keeps.foldl (fun x53 x54 x55 => failLookup_keeps x55) h51
      clear_value t37
      exact Keeps.foldl (fun x56 x57 x58 => Keeps.ite x58 (rowCame_keeps x58)) h52

theorem doTableScatter_keeps {s0 t s} (hs : Keeps s0 s) : Keeps s0 (doTableScatter t s) := by
  unfold doTableScatter
  refine withReq_keeps ?_ hs
  intro x1 x2 x3 x4
  split
  · rename_i y5 y6 y7
    have h8 : Keeps s0 y6 := KeepsOptPair.elim y7 (waitData_keeps x4)
    exact dropReq_keeps h8
  · rename_i y9 y10 y11
    have h12 : Keeps s0 y10 := KeepsOptPair.elim y11 (waitData_keeps x4)
    exact h12
  · rename_i y13 y14
    refine Keeps.ite (pumpCores_keeps (dropReq_keeps (doneReq_keeps (onceEffect_keeps (fun x15 x16 => x16) x4)))) ?_
    split
    · rename_i y17 y18 y19
      have h20 : Keeps s0 y18 := KeepsPair.elim y19 (scatterFrom_keeps x4)
      exact pumpCores_keeps (dropReq_keeps (doneReq_keeps (onceEffect_keeps (fun x21 x22 => x22) h20)))
    · rename_i y23 y24 y25
      have h26 : Keeps s0 y24 := KeepsPair.elim y25 (scatterFrom_keeps x4)
      exact dropReq_keeps (refuseReq_keeps h26)
    · rename_i y27 y28 y29
      have h30 : Keeps s0 y28 := KeepsPair.elim y29 (scatterFrom_keeps x4)
      exact dropReq_keeps (loseReq_keeps h30)

theorem doBatchPeriod_keeps {s0 n s} (hs : Keeps s0 s) : Keeps s0 (doBatchPeriod n s) := by
  unfold doBatchPeriod
  extract_lets -merge t1 t2
  clear_value t1 t2
  exact Keeps.ite hs (Keeps.foldl (fun x5 x6 x7 => sendBatch_keeps x7) (repliesCame_keeps hs))

theorem updSeamSlot_keeps {s0 n} {f : SeamSlot → SeamSlot} {s} (hs : Keeps s0 s) : Keeps s0 (updSeamSlot n f s) := by
  unfold updSeamSlot
  extract_lets -merge t1
  clear_value t1
  exact Keeps.of hs rfl rfl rfl

theorem writeSeamConfig_keeps {s0 sub v s} (hs : Keeps s0 s) : KeepsPair s0 (writeSeamConfig sub v s) := by
  unfold writeSeamConfig
  exact KeepsPair.ite (KeepsPair.mk hs) (KeepsPair.mk (odPut_keeps hs))

theorem seamDraw_keeps {s0 s} (hs : Keeps s0 s) : KeepsPair s0 (seamDraw s) := by
  unfold seamDraw
  split
  · rename_i y1 y2 y3 y4
    have h5 : Keeps s0 y3 := KeepsPair.elim y4 (freshVal_keeps hs)
    exact KeepsPair.mk h5

theorem settleSlot_keeps {s0 n s} (hs : Keeps s0 s) : Keeps s0 (settleSlot n s) := by
  unfold settleSlot
  extract_lets -merge t1
  clear_value t1
  exact Keeps.ite (updSeamSlot_keeps hs) hs

theorem addNoise_keeps {s0 a0 a1} (hs : Keeps s0 a1) : KeepsPair s0 (addNoise a0 a1) := by
  induction a0 generalizing a1 with
  | nil =>
    unfold addNoise
    exact KeepsPair.mk hs
  | cons b l ih =>
    unfold addNoise
    split
    · rename_i y1 y2 y3 y4
      have h5 : Keeps s0 y3 := KeepsPair.elim y4 (seamDraw_keeps hs)
      split
      · rename_i y6 y7 y8 y9
        have h10 : Keeps s0 y8 := KeepsPair.elim y9 (ih h5)
        exact KeepsPair.mk h10

theorem showIndex_keeps {s0 p s} (hs : Keeps s0 s) : Keeps s0 (showIndex p s) := by
  unfold showIndex
  exact storeBytes_keeps hs

theorem clearStatusPage_keeps {s0 p s} (hs : Keeps s0 s) : Keeps s0 (clearStatusPage p s) := by
  unfold clearStatusPage
  exact storeBytes_keeps hs

theorem showResult_keeps {s0 p result slot step tag cause s} (hs : Keeps s0 s) :
    Keeps s0 (showResult p result slot step tag cause s) := by
  unfold showResult
  exact storeBytes_keeps hs

theorem releaseRows_keeps {s0 noise a1 a2} (hs : Keeps s0 a2) : KeepsPair s0 (releaseRows noise a1 a2) := by
  induction a1 generalizing a2 with
  | nil =>
    unfold releaseRows
    exact KeepsPair.mk hs
  | cons b l ih =>
    unfold releaseRows
    split
    · rename_i y1 y2 y3 y4
      have h5 : Keeps s0 y3 := KeepsPair.elim y4 (KeepsPair.ite (addNoise_keeps hs) (KeepsPair.mk hs))
      split
      · rename_i y6 y7 y8 y9
        have h10 : Keeps s0 y8 := KeepsPair.elim y9 (ih h5)
        exact KeepsPair.mk h10

theorem acceptDeposit_keeps {s0 p j d b s} (hs : Keeps s0 s) : Keeps s0 (acceptDeposit p j d b s) := by
  unfold acceptDeposit
  extract_lets -merge t1 t2
  clear_value t1
  have h4 : Keeps s0 t2 := updSeamSlot_keeps hs
  clear_value t2
  exact settleSlot_keeps (showResult_keeps h4)

theorem takeDeposit_keeps {s0 p b s} (hs : Keeps s0 s) : Keeps s0 (takeDeposit p b s) := by
  unfold takeDeposit
  extract_lets -merge t1
  clear_value t1
  refine Keeps.ite (showResult_keeps hs) ?_
  split
  · exact postPanel_keeps (odCount_keeps (showResult_keeps hs))
  · exact Keeps.ite (showResult_keeps (updSeamSlot_keeps hs)) (acceptDeposit_keeps hs)

theorem dropFrom_keeps {s0 n p s} (hs : Keeps s0 s) : Keeps s0 (dropFrom n p s) := by
  unfold dropFrom
  extract_lets -merge t1 t2
  clear_value t1
  have h4 : Keeps s0 t2 := odCount_keeps (updSeamSlot_keeps hs)
  clear_value t2
  exact Keeps.ite hs (postPanel_keeps (showResult_keeps h4))

theorem doDeposit_keeps {s0 p kind s} (hs : Keeps s0 s) : Keeps s0 (doDeposit p kind s) := by
  unfold doDeposit
  split
  · exact hs
  · extract_lets -merge t6 t7
    clear_value t6 t7
    exact Keeps.ite (takeDeposit_keeps (Keeps.of hs rfl rfl rfl)) hs

theorem leaveSeam_keeps {s0 p s} (hs : Keeps s0 s) : Keeps s0 (leaveSeam p s) := by
  unfold leaveSeam
  extract_lets -merge t1 t2 t3
  have h4 : Keeps s0 t1 := updPanel_keeps hs
  clear_value t1 t2
  have h6 : Keeps s0 t3 := showIndex_keeps (odPut_keeps (Keeps.of h4 rfl rfl rfl))
  clear_value t3
  exact Keeps.ite hs (Keeps.foldl (fun x7 x8 x9 => settleSlot_keeps (dropFrom_keeps x9)) h6)

theorem doSlotTimeout_keeps {s0 n s} (hs : Keeps s0 s) : Keeps s0 (doSlotTimeout n s) := by
  unfold doSlotTimeout
  extract_lets -merge t1
  clear_value t1
  exact Keeps.ite hs (settleSlot_keeps (Keeps.foldl (fun x3 x4 x5 => dropFrom_keeps x5) hs))

theorem disarmSeam_keeps {s0 s} (hs : Keeps s0 s) : Keeps s0 (disarmSeam s) := by
  unfold disarmSeam
  extract_lets -merge t1 t2 t3 t4 t5 t6
  clear_value t1 t2
  have h9 : Keeps s0 t3 := odCount_keeps (Keeps.of hs rfl rfl rfl)
  clear_value t3
  have h10 : Keeps s0 t4 := Keeps.foldl (fun x11 x12 x13 => leaveSeam_keeps x13) h9
  clear_value t4
  have h14 : Keeps s0 t5 := scrub_keeps h10
  clear_value t5 t6
  exact Keeps.ite hs (odPut_keeps (Keeps.of h14 rfl rfl rfl))

theorem writeJoin_keeps {s0 p v s} (hs : Keeps s0 s) : KeepsPair s0 (writeJoin p v s) := by
  unfold writeJoin
  refine KeepsPair.ite (KeepsPair.mk hs) ?_
  refine KeepsPair.ite (KeepsPair.mk (leaveSeam_keeps hs)) ?_
  refine KeepsPair.ite (KeepsPair.mk hs) ?_
  split
  · exact KeepsPair.mk hs
  · extract_lets -merge t6 t7 t8
    clear_value t6 t7
    have h11 : Keeps s0 t8 := Keeps.of hs rfl rfl rfl
    clear_value t8
    exact KeepsPair.ite (KeepsPair.mk hs) (KeepsPair.mk (showIndex_keeps (odPut_keeps (updPanel_keeps h11))))

theorem writeArm_keeps {s0 p v s} (hs : Keeps s0 s) : KeepsPair s0 (writeArm p v s) := by
  unfold writeArm
  refine KeepsPair.ite (KeepsPair.mk hs) ?_
  refine KeepsPair.ite (KeepsPair.mk (disarmSeam_keeps hs)) ?_
  refine KeepsPair.ite (KeepsPair.mk hs) ?_
  split
  · exact KeepsPair.mk (postPanel_keeps hs)
  · extract_lets -merge t6 t7
    have h8 : Keeps s0 t6 := scrub_keeps hs
    clear_value t6 t7
    exact KeepsPair.mk (odPut_keeps (Keeps.of h8 rfl rfl rfl))

theorem closeSlot_keeps {s0 n status done flags count s} (hs : Keeps s0 s) :
    Keeps s0 (closeSlot n status done flags count s) := by
  unfold closeSlot
  extract_lets -merge t1 t2
  clear_value t1 t2
  exact panelKnot_keeps (writeBytes_keeps hs)

theorem finishRelease_keeps {s0 n x data noise count s} (hs : Keeps s0 s) :
    Keeps s0 (finishRelease n x data noise count s) := by
  unfold finishRelease
  extract_lets -merge t1 t2 t3 t4
  clear_value t1
  have h6 : Keeps s0 t2 := writeBytes_keeps hs
  clear_value t2
  have h7 : Keeps s0 t3 := updSeamSlot_keeps h6
  clear_value t3
  have h8 : Keeps s0 t4 := odCount_keeps (closeSlot_keeps h7)
  clear_value t4
  exact Keeps.foldl (fun x9 x10 x11 => showResult_keeps x11) h8

theorem discardOne_keeps {s0 flags s n} (hs : Keeps s0 s) : Keeps s0 (discardOne flags s n) := by
  unfold discardOne
  extract_lets -merge t1 t2 t3 t4
  clear_value t1 t2
  have h7 : Keeps s0 t3 := updSeamSlot_keeps hs
  clear_value t3
  have h8 : Keeps s0 t4 := odCount_keeps (closeSlot_keeps h7)
  clear_value t4
  exact Keeps.foldl (fun x9 x10 x11 => showResult_keeps x11) h8

theorem discardSlot_keeps {s0 n flags s} (hs : Keeps s0 s) : Keeps s0 (discardSlot n flags s) := by
  unfold discardSlot
  extract_lets -merge t1 t2 t3 t4 t5 t6 t7
  clear_value t1 t2 t3 t4 t5
  have h13 : Keeps s0 t6 := Keeps.of hs rfl rfl rfl
  clear_value t6
  have h14 : Keeps s0 t7 := Keeps.foldl (fun x15 x16 x17 => discardOne_keeps x17) (discardOne_keeps h13)
  clear_value t7
  exact Keeps.foldl (fun x18 x19 x20 => postPanel_keeps x20) h14

theorem doSeamRelease_keeps {s0 n s} (hs : Keeps s0 s) : Keeps s0 (doSeamRelease n s) := by
  unfold doSeamRelease
  extract_lets -merge t1 t2
  clear_value t1 t2
  refine Keeps.ite hs ?_
  refine Keeps.ite (discardSlot_keeps hs) ?_
  refine Keeps.ite ?_ ?_
  · refine Keeps.ite (discardSlot_keeps hs) ?_
    split
    · rename_i y5 y6 y7 y8
      have h9 : Keeps s0 y7 := KeepsPair.elim y8 (releaseRows_keeps hs)
      exact finishRelease_keeps h9
  · refine Keeps.ite (finishRelease_keeps hs) ?_
    split
    · rename_i y10 y11 y12 y13
      have h14 : Keeps s0 y12 := KeepsPair.elim y13 (KeepsPair.ite (addNoise_keeps hs) (KeepsPair.mk hs))
      exact finishRelease_keeps h14

end Sys2Proof.Machine
end

