-- ==== Sys2Proof/Laws/KeepsQp.lean ====
section
/-! SUPPORT. What is kept (Laws/Keeps.lean) by the operations of queue pairs, panels, waits, keys, links and collectives. -/
namespace Sys2Proof.Machine

theorem clearCounts_keeps {s0 q s} (hs : Keeps s0 s) : Keeps s0 (clearCounts q s) := by
  unfold clearCounts
  exact Keeps.of hs rfl rfl rfl

theorem updOut_keeps {s0 q psn} {f : OutPkt → OutPkt} {s} (hs : Keeps s0 s) : Keeps s0 (updOut q psn f s) := by
  unfold updOut
  exact updQp_keeps hs

theorem takePsn_keeps {s0 q p s} (hs : Keeps s0 s) : Keeps s0 (takePsn q p s) := by
  unfold takePsn
  exact updQp_keeps hs

theorem doRateIncrease_keeps {s0 q s} (hs : Keeps s0 s) : Keeps s0 (doRateIncrease q s) := by
  unfold doRateIncrease
  exact Keeps.ite hs (updQp_keeps hs)

theorem lowerRate_keeps {s0 q s} (hs : Keeps s0 s) : Keeps s0 (lowerRate q s) := by
  unfold lowerRate
  extract_lets -merge t1 t2
  clear_value t1 t2
  exact Keeps.ite hs (updQp_keeps hs)

theorem noteAuth_keeps {s0 pkt s} (hs : Keeps s0 s) : Keeps s0 (noteAuth pkt s) := by
  unfold noteAuth
  extract_lets -merge t1
  clear_value t1
  exact Keeps.ite (odCount_keeps hs) hs

theorem endRemoteWait_keeps {s0 c s} (hs : Keeps s0 s) : Keeps s0 (endRemoteWait c s) := by
  unfold endRemoteWait
  exact updCore_keeps hs

theorem storeKnot_keeps {s0 q pkt m s} (hs : Keeps s0 s) : Keeps s0 (storeKnot q pkt m s) := by
  unfold storeKnot
  exact takePsn_keeps (updQp_keeps hs)

theorem malformed_keeps {s0 p s} (hs : Keeps s0 s) : Keeps s0 (malformed p s) := by
  unfold malformed
  exact msgCount_keeps hs

theorem settleMoves_keeps {s0 q gone s} (hs : Keeps s0 s) : Keeps s0 (settleMoves q gone s) := by
  unfold settleMoves
  exact Keeps.foldl (fun x1 x2 x3 => Keeps.ite x3 (dropSend_keeps x3)) hs

theorem badOpcode_keeps {s0 pkt s} (hs : Keeps s0 s) : Keeps s0 (badOpcode pkt s) := by
  unfold badOpcode
  exact Keeps.ite (malformed_keeps hs) hs

theorem freePsns_keeps {s0 q} {pick : BitVec 24 → Bool} {s} (hs : Keeps s0 s) : Keeps s0 (freePsns q pick s) := by
  unfold freePsns
  extract_lets -merge t1 t2 t3
  clear_value t1 t2
  have h6 : Keeps s0 t3 := updQp_keeps hs
  clear_value t3
  exact settleMoves_keeps h6

theorem failEntries_keeps {s0 x s} (hs : Keeps s0 s) : Keeps s0 (failEntries x s) := by
  unfold failEntries
  extract_lets -merge t1
  clear_value t1
  refine Keeps.ite hs ?_
  refine Keeps.foldl ?_ hs
  intro x3 x4 x5
  extract_lets -merge t6
  clear_value t6
  exact Keeps.ite x5 (setRecvStatus_keeps x5)

theorem restoreQp_keeps {s0 q s} (hs : Keeps s0 s) : Keeps s0 (restoreQp q s) := by
  unfold restoreQp
  extract_lets -merge t1
  clear_value t1
  refine Keeps.ite hs ?_
  split
  · rename_i y3 y4
    exact hs
  · rename_i y5 y6 y7
    have h8 : Keeps s0 y6 := KeepsOpt.elim y7 (cacheRoom_keeps hs)
    extract_lets -merge t9 t10
    clear_value t9
    have h12 : Keeps s0 t10 := Keeps.ite h8 (taint_keeps h8)
    clear_value t10
    exact updQp_keeps (Keeps.of h12 rfl rfl rfl)

theorem doRestoreQp_keeps {s0 q s} (hs : Keeps s0 s) : Keeps s0 (doRestoreQp q s) := by
  unfold doRestoreQp
  exact Keeps.ite hs (restoreQp_keeps hs)

theorem writeCtxRestored_keeps {s0 p q s} (hs : Keeps s0 s) : KeepsPair s0 (writeCtxRestored p q s) := by
  unfold writeCtxRestored
  exact KeepsPair.ite (KeepsPair.mk hs) (KeepsPair.ite (KeepsPair.mk (restoreQp_keeps hs)) (KeepsPair.mk hs))

theorem stopQp_keeps {s0 q s} (hs : Keeps s0 s) : Keeps s0 (stopQp q s) := by
  unfold stopQp
  extract_lets -merge t1 t2 t3 t4 t5 t6 t7
  clear_value t1 t2 t3
  have h11 : Keeps s0 t4 := endSends_keeps hs
  clear_value t4
  have h12 : Keeps s0 t5 := by
    unfold t5
    split
    · rename_i y13
      exact h11
    · rename_i y14 y15
      exact postPanel_keeps h11
  clear_value t5
  have h16 : Keeps s0 t6 := failEntries_keeps h12
  clear_value t6
  have h17 : Keeps s0 t7 := Keeps.of h16 rfl rfl rfl
  clear_value t7
  exact clearCounts_keeps (storeBytes_keeps h17)

theorem postTrailGone_keeps {s0 q s} (hs : Keeps s0 s) : Keeps s0 (postTrailGone q s) := by
  unfold postTrailGone
  extract_lets -merge t1
  clear_value t1
  exact Keeps.foldl (fun x3 x4 x5 => postPanel_keeps x5) hs

theorem reportDiscard_keeps {s0 x addr c count s} (hs : Keeps s0 s) : Keeps s0 (reportDiscard x addr c count s) := by
  unfold reportDiscard
  extract_lets -merge t1
  have h2 : ∀ z0 z1, Keeps s0 (t1 z0 z1) := by
    unfold t1
    exact fun x3 x4 => postPanel_keeps hs
  clear_value t1
  refine Keeps.ite ?_ (Keeps.ite (h2 _ _) (h2 _ _))
  split
  · exact h2 _ _
  · exact h2 _ _

theorem postFarGone_keeps {s0 q s} (hs : Keeps s0 s) : Keeps s0 (postFarGone q s) := by
  unfold postFarGone
  extract_lets -merge t1
  clear_value t1
  exact Keeps.foldl (fun x3 x4 x5 => postPanel_keeps x5) hs

theorem missQp_keeps {s0 q s} (hs : Keeps s0 s) : Keeps s0 (missQp q s) := by
  unfold missQp
  extract_lets -merge t1 t2 t3
  clear_value t1
  have h5 : Keeps s0 t2 := msgCount_keeps hs
  clear_value t2
  have h6 : Keeps s0 t3 := updQp_keeps h5
  clear_value t3
  exact Keeps.ite h5 (Keeps.ite (postPanel_keeps h6) h6)

theorem refusedRemote_keeps {s0 q o s} (hs : Keeps s0 s) : Keeps s0 (refusedRemote q o s) := by
  unfold refusedRemote
  extract_lets -merge t1
  clear_value t1
  exact abortKernel_keeps (postPanel_keeps hs)

theorem resetQp_keeps {s0 q s} (hs : Keeps s0 s) : Keeps s0 (resetQp q s) := by
  unfold resetQp
  extract_lets -merge t1
  clear_value t1
  exact updQp_keeps (stopQp_keeps hs)

theorem destroyQp_keeps {s0 q s} (hs : Keeps s0 s) : Keeps s0 (destroyQp q s) := by
  unfold destroyQp
  extract_lets -merge t1 t2
  have h3 : Keeps s0 t1 := stopQp_keeps hs
  clear_value t1
  have h4 : Keeps s0 t2 := updQp_keeps h3
  clear_value t2
  exact Keeps.of h4 rfl rfl rfl

theorem doNakLimit_keeps {s0 q psn s} (hs : Keeps s0 s) : Keeps s0 (doNakLimit q psn s) := by
  unfold doNakLimit
  split
  · exact Keeps.ite hs (qpError_keeps (postTrailGone_keeps (postFarGone_keeps hs)))
  · exact hs

theorem destroyQps_keeps {s0 p s} (hs : Keeps s0 s) : Keeps s0 (destroyQps p s) := by
  unfold destroyQps
  exact Keeps.foldl (fun x1 x2 x3 => destroyQp_keeps x3) hs

theorem nakBack_keeps {s0 pkt code s} (hs : Keeps s0 s) : Keeps s0 (nakBack pkt code s) := by
  unfold nakBack
  extract_lets -merge t1 t2 t3 t4
  clear_value t1 t2 t3 t4
  refine Keeps.ite (odCount_keeps (netSend_keeps hs)) ?_
  split
  · rename_i y9 y10
    exact spentKey_keeps hs
  · rename_i y11 y12 y13 y14
    have h15 : Keeps s0 y13 := KeepsOptPair.elim y14 (sealPkt_keeps hs)
    exact msgCount_keeps (netSend_keeps h15)

theorem resendPkt_keeps {s0 o s} (hs : Keeps s0 s) : Keeps s0 (resendPkt o s) := by
  unfold resendPkt
  exact Keeps.ite hs (netSend_keeps hs)

theorem doNakRetry_keeps {s0 q psn s} (hs : Keeps s0 s) : Keeps s0 (doNakRetry q psn s) := by
  unfold doNakRetry
  split
  · exact Keeps.ite hs (resendPkt_keeps hs)
  · exact hs

theorem doRemoteWaitRetry_keeps {s0 c s} (hs : Keeps s0 s) : Keeps s0 (doRemoteWaitRetry c s) := by
  unfold doRemoteWaitRetry
  split
  · exact Keeps.ite (resendPkt_keeps hs) hs
  · exact hs

theorem doRetryTimeout_keeps {s0 q psn s} (hs : Keeps s0 s) : Keeps s0 (doRetryTimeout q psn s) := by
  unfold doRetryTimeout
  split
  · exact hs
  · exact Keeps.ite hs (Keeps.ite (qpError_keeps hs) (msgCount_keeps (resendPkt_keeps (updOut_keeps hs))))

theorem postQp_keeps {s0 c cause s} (hs : Keeps s0 s) : Keeps s0 (postQp c cause s) := by
  unfold postQp
  exact postPanel_keeps (doneRec_keeps hs)

theorem doQpCreate_keeps {s0 h r s} (hs : Keeps s0 s) : Keeps s0 (doQpCreate h r s) := by
  unfold doQpCreate
  refine withRec_keeps ?_ hs
  intro x1 x2 x3
  extract_lets -merge t4 t5 t6 t7
  clear_value t4 t5
  have h10 : Keeps s0 t6 := storeBytes_keeps x3
  clear_value t6
  have h11 : Keeps s0 t7 := touchQp_keeps (clearCounts_keeps (updQp_keeps h10))
  clear_value t7
  refine Keeps.ite (doneRec_keeps x3) ?_
  split
  · exact postQp_keeps x3
  · exact doneRec_keeps h11

theorem doAckTimer_keeps {s0 q s} (hs : Keeps s0 s) : Keeps s0 (doAckTimer q s) := by
  unfold doAckTimer
  exact Keeps.ite (sendAck_keeps hs) hs

theorem noteAck_keeps {s0 q s} (hs : Keeps s0 s) : Keeps s0 (noteAck q s) := by
  unfold noteAck
  extract_lets -merge t1
  clear_value t1
  exact Keeps.ite (sendAck_keeps hs) (updQp_keeps hs)

theorem dupPkt_keeps {s0 q s} (hs : Keeps s0 s) : Keeps s0 (dupPkt q s) := by
  unfold dupPkt
  exact sendAck_keeps (msgCount_keeps hs)

theorem takeKnot_keeps {s0 q pkt m s} (hs : Keeps s0 s) : Keeps s0 (takeKnot q pkt m s) := by
  unfold takeKnot
  exact noteAck_keeps (storeKnot_keeps hs)

theorem receive_keeps {s0 control pkt} {f : Nat → Qp → Bytes → State → State} {s}
    (hf : ∀ z0 z1 z2 z3, Keeps s0 z3 → Keeps s0 (f z0 z1 z2 z3))
    (hs : Keeps s0 s) :
    Keeps s0 (receive control pkt f s) := by
  unfold receive
  extract_lets -merge t1 t2 t3
  clear_value t1 t2
  have h6 : Keeps s0 t3 := touchQp_keeps (Keeps.ite (updQp_keeps hs) hs)
  clear_value t3
  refine Keeps.ite hs ?_
  refine Keeps.ite (nakBack_keeps hs) ?_
  refine Keeps.ite (nakBack_keeps hs) ?_
  refine Keeps.ite hs ?_
  refine Keeps.ite (malformed_keeps hs) ?_
  refine Keeps.ite (sendNak_keeps (missQp_keeps hs)) ?_
  split
  · exact odCount_keeps hs
  · split
    · exact dupPkt_keeps h6
    · exact malformed_keeps h6
    · exact hf _ _ _ _ h6

theorem reportOrphan_keeps {s0 p fab addr core count s} (hs : Keeps s0 s) :
    Keeps s0 (reportOrphan p fab addr core count s) := by
  unfold reportOrphan
  split
  · exact sendWake_keeps hs
  · exact hs

theorem newWake_keeps {s0 pkt q x b s} (hs : Keeps s0 s) : Keeps s0 (newWake pkt q x b s) := by
  unfold newWake
  extract_lets -merge t1 t2 t3 t4 t5
  clear_value t1 t2 t3
  have h9 : Keeps s0 t4 := noteAck_keeps (takePsn_keeps hs)
  clear_value t4 t5
  exact Keeps.ite (Keeps.ite (endRemoteWait_keeps h9) h9) (Keeps.ite (Keeps.ite (orphanOp_keeps h9) (reportDiscard_keeps h9)) (Keeps.ite (knotRefuse_keeps h9) h9))

theorem remoteWait_keeps {s0 q fab m s} (hs : Keeps s0 s) : Keeps s0 (remoteWait q fab m s) := by
  unfold remoteWait
  extract_lets -merge t1 t2
  clear_value t1 t2
  exact Keeps.ite (sendWake_keeps hs) (Keeps.of hs rfl rfl rfl)

theorem ackDrop_keeps {s0 q p s} (hs : Keeps s0 s) : Keeps s0 (ackDrop q p s) := by
  unfold ackDrop
  exact dupPkt_keeps (takePsn_keeps hs)

theorem applyRemote_keeps {s0 set i v g s} (hs : Keeps s0 s) : Keeps s0 (applyRemote set i v g s) := by
  unfold applyRemote
  exact odCount_keeps (Keeps.ite (applyKset_keeps hs) (applyKadd_keeps hs))

theorem newKnot_keeps {s0 pkt q x b s} (hs : Keeps s0 s) : Keeps s0 (newKnot pkt q x b s) := by
  unfold newKnot
  extract_lets -merge t1 t2 t3 t4 t5 t6 t7
  clear_value t1 t2 t3 t4 t5 t6
  have h14 : Keeps s0 t7 := takeKnot_keeps hs
  clear_value t7
  exact Keeps.ite (malformed_keeps hs) (Keeps.ite (ackDrop_keeps hs) (Keeps.ite (Keeps.ite (sendWake_keeps (takeKnot_keeps hs)) (sendNak_keeps (storeKnot_keeps hs))) (Keeps.ite (sendWake_keeps (odCount_keeps (takeKnot_keeps hs))) (Keeps.ite (sendNak_keeps hs) (Keeps.ite (applyRemote_keeps h14) (Keeps.ite (applyRemote_keeps h14) (Keeps.ite (remoteWait_keeps (odCount_keeps (applyArrive_keeps h14))) (remoteWait_keeps (odCount_keeps h14)))))))))

theorem trailingOp_keeps {s0 q pkt psn t s} (hs : Keeps s0 s) : Keeps s0 (trailingOp q pkt psn t s) := by
  unfold trailingOp
  extract_lets -merge t1 t2 t3 t4
  clear_value t1 t2 t3 t4
  exact Keeps.ite (sendNak_keeps hs) (Keeps.ite (reportOrphan_keeps hs) (applyRemote_keeps hs))

theorem completeMsg_keeps {s0 q pkt m s} (hs : Keeps s0 s) : Keeps s0 (completeMsg q pkt m s) := by
  unfold completeMsg
  extract_lets -merge t1 t2 t3 t4 t5 t6
  clear_value t1
  have h8 : Keeps s0 t2 := writeBytes_keeps hs
  clear_value t2 t3
  have h10 : Keeps s0 t4 := updQp_keeps h8
  clear_value t4
  have h11 : Keeps s0 t5 := deviceKnot_keeps h10
  clear_value t5
  have h12 : Keeps s0 t6 := by
    unfold t6
    split
    · exact trailingOp_keeps h11
    · exact h11
  clear_value t6
  exact sendAck_keeps (msgCount_keeps h12)

theorem placePkt_keeps {s0 q pkt i a d t s} (hs : Keeps s0 s) : Keeps s0 (placePkt q pkt i a d t s) := by
  unfold placePkt
  extract_lets -merge t1 t2 t3 t4
  clear_value t1
  have h6 : Keeps s0 t2 := msgCount_keeps (writeBytes_keeps (takePsn_keeps hs))
  clear_value t2 t3
  have h8 : Keeps s0 t4 := updQp_keeps h6
  clear_value t4
  exact Keeps.ite (completeMsg_keeps h8) (noteAck_keeps h8)

theorem newSend_keeps {s0 pkt q x b s} (hs : Keeps s0 s) : Keeps s0 (newSend pkt q x b s) := by
  unfold newSend
  extract_lets -merge t1 t2 t3 t4
  clear_value t1 t2 t3
  have h8 : Keeps s0 t4 := setRecvStatus_keeps (sendNak_keeps hs)
  clear_value t4
  refine Keeps.ite (malformed_keeps hs) ?_
  refine Keeps.ite (ackDrop_keeps hs) ?_
  refine Keeps.ite (malformed_keeps hs) ?_
  split
  · exact ackDrop_keeps hs
  · refine Keeps.ite (sendNak_keeps hs) ?_
    split
    · exact placePkt_keeps hs
    · exact qpError_keeps (updQp_keeps h8)

theorem doQpRec_keeps {s0 h r op} {f : Nat → State → State} {s}
    (hf : ∀ z0 z1, Keeps s0 z1 → Keeps s0 (f z0 z1))
    (hs : Keeps s0 s) :
    Keeps s0 (doQpRec h r op f s) := by
  unfold doQpRec
  refine withRec_keeps ?_ hs
  intro x1 x2 x3
  extract_lets -merge t4
  clear_value t4
  exact Keeps.ite (postQp_keeps x3) (pumpCores_keeps (doneRec_keeps (hf _ _ x3)))

theorem afterPkt_keeps {s0 q s} (hs : Keeps s0 s) : Keeps s0 (afterPkt q s) := by
  unfold afterPkt
  exact pumpCores_keeps (pumpPanel_keeps hs)

theorem doNak_keeps {s0 pkt s} (hs : Keeps s0 s) : Keeps s0 (doNak pkt s) := by
  unfold doNak
  extract_lets -merge t1
  clear_value t1
  refine Keeps.ite (badOpcode_keeps hs) ?_
  split
  · exact noteAuth_keeps hs
  · extract_lets -merge t8 t9
    clear_value t8 t9
    split
    · exact hs
    · exact Keeps.ite (qpError_keeps hs) (Keeps.ite (afterPkt_keeps (freePsns_keeps (refusedRemote_keeps hs))) (Keeps.ite hs (odCount_keeps (updOut_keeps hs))))

theorem doQpReset_keeps {s0 h r s} (hs : Keeps s0 s) : Keeps s0 (doQpReset h r s) := by
  unfold doQpReset
  exact doQpRec_keeps (fun x1 x2 x3 => resetQp_keeps x3) hs

theorem doAck_keeps {s0 pkt s} (hs : Keeps s0 s) : Keeps s0 (doAck pkt s) := by
  unfold doAck
  extract_lets -merge t1 t2
  clear_value t1
  have h4 : Keeps s0 t2 := Keeps.ite (lowerRate_keeps hs) hs
  clear_value t2
  refine Keeps.ite (badOpcode_keeps hs) ?_
  split
  · exact noteAuth_keeps hs
  · extract_lets -merge t10 t11
    clear_value t10
    have h13 : Keeps s0 t11 := updQp_keeps h4
    clear_value t11
    exact afterPkt_keeps (pumpQp_keeps (freePsns_keeps h13))

theorem doWake_keeps {s0 pkt s} (hs : Keeps s0 s) : Keeps s0 (doWake pkt s) := by
  unfold doWake
  exact Keeps.ite (badOpcode_keeps hs) (afterPkt_keeps (receive_keeps (fun x1 x2 x3 x4 x5 => newWake_keeps x5) hs))

theorem doQpDestroy_keeps {s0 h r s} (hs : Keeps s0 s) : Keeps s0 (doQpDestroy h r s) := by
  unfold doQpDestroy
  exact doQpRec_keeps (fun x1 x2 x3 => destroyQp_keeps x3) hs

theorem doKnot_keeps {s0 pkt s} (hs : Keeps s0 s) : Keeps s0 (doKnot pkt s) := by
  unfold doKnot
  exact Keeps.ite (badOpcode_keeps hs) (afterPkt_keeps (receive_keeps (fun x1 x2 x3 x4 x5 => newKnot_keeps x5) hs))

theorem doSend_keeps {s0 pkt s} (hs : Keeps s0 s) : Keeps s0 (doSend pkt s) := by
  unfold doSend
  exact Keeps.ite (badOpcode_keeps hs) (afterPkt_keeps (receive_keeps (fun x1 x2 x3 x4 x5 => newSend_keeps x5) hs))

theorem dropModel_keeps {s0 p s} (hs : Keeps s0 s) : Keeps s0 (dropModel p s) := by
  unfold dropModel
  exact Keeps.ite (Keeps.of hs rfl rfl rfl) hs

theorem defaultPanelEntries_keeps {s0 p s} (hs : Keeps s0 s) : Keeps s0 (defaultPanelEntries p s) := by
  unfold defaultPanelEntries
  exact Keeps.of hs rfl rfl rfl

theorem zeroCore_keeps {s0 s c} (hs : Keeps s0 s) : Keeps s0 (zeroCore s c) := by
  unfold zeroCore
  exact setCore_keeps (heal_keeps (heal_keeps hs))

theorem updRegion_keeps {s0 p i} {f : Region → Region} {s} (hs : Keeps s0 s) : Keeps s0 (updRegion p i f s) := by
  unfold updRegion
  exact updPanel_keeps hs

theorem zeroBlocks_keeps {s0 p s} (hs : Keeps s0 s) : Keeps s0 (zeroBlocks p s) := by
  unfold zeroBlocks
  refine Keeps.foldl ?_ hs
  intro x1 x2 x3
  extract_lets -merge t4 t5 t6 t7
  clear_value t4 t5
  have h10 : Keeps s0 t6 := dropCache_keeps (updSlot_keeps x3)
  clear_value t6
  have h11 : Keeps s0 t7 := updPort_keeps h10
  clear_value t7
  exact Keeps.foldl (fun x12 x13 x14 => updRing_keeps x14) h11

theorem drawKem_keeps {s0 p s} (hs : Keeps s0 s) : Keeps s0 (drawKem p s) := by
  unfold drawKem
  refine Keeps.ite (updPanel_keeps hs) ?_
  split
  · rename_i y1 y2 y3 y4
    have h5 : Keeps s0 y3 := KeepsPair.elim y4 (drawBytes_keeps hs)
    exact updPanel_keeps h5

theorem zeroCores_keeps {s0 p s} (hs : Keeps s0 s) : Keeps s0 (zeroCores p s) := by
  unfold zeroCores
  extract_lets -merge t1 t2
  clear_value t1
  have h4 : Keeps s0 t2 := Keeps.foldl (fun x5 x6 x7 => scrub_keeps x7) hs
  clear_value t2
  exact Keeps.foldl (fun x8 x9 x10 => zeroCore_keeps x10) h4

theorem validateEntry_keeps {s0 p i valid s} (hs : Keeps s0 s) : Keeps s0 (validateEntry p i valid s) := by
  unfold validateEntry
  extract_lets -merge t1 t2 t3 t4 t5
  clear_value t1 t2 t3 t4 t5
  exact Keeps.ite hs (Keeps.ite (updRegion_keeps hs) (updRegion_keeps hs))

theorem revokeEntry_keeps {s0 p i s} (hs : Keeps s0 s) : Keeps s0 (revokeEntry p i s) := by
  unfold revokeEntry
  exact Keeps.ite hs (updRegion_keeps hs)

theorem doRegionRevoke_keeps {s0 h w i s} (hs : Keeps s0 s) : Keeps s0 (doRegionRevoke h w i s) := by
  unfold doRegionRevoke
  split
  · exact revokeEntry_keeps hs
  · exact hs

theorem ctlByte_keeps {s0 p s e} (hs : Keeps s0 s) : Keeps s0 (ctlByte p s e) := by
  unfold ctlByte
  extract_lets -merge t1 t2
  clear_value t1 t2
  exact Keeps.ite hs (Keeps.ite (Keeps.ite (validateEntry_keeps hs) (revokeEntry_keeps hs)) (Keeps.ite hs (updRegion_keeps hs)))

theorem releaseShared_keeps {s0 p s} (hs : Keeps s0 s) : Keeps s0 (releaseShared p s) := by
  unfold releaseShared
  extract_lets -merge t1
  have h2 : Keeps s0 t1 := Keeps.foldl (fun x3 x4 x5 => freeTable_keeps x5) hs
  clear_value t1
  exact Keeps.of h2 rfl rfl rfl

theorem doRegionValidate_keeps {s0 h w i s} (hs : Keeps s0 s) : Keeps s0 (doRegionValidate h w i s) := by
  unfold doRegionValidate
  split
  · exact validateEntry_keeps hs
  · exact hs

theorem ctlWrite_keeps {s0 p o d s} (hs : Keeps s0 s) : Keeps s0 (ctlWrite p o d s) := by
  unfold ctlWrite
  exact Keeps.foldl (fun x1 x2 x3 => ctlByte_keeps x3) hs

theorem writeOpen_keeps {s0 p s} (hs : Keeps s0 s) : KeepsPair s0 (writeOpen p s) := by
  unfold writeOpen
  refine KeepsPair.ite (KeepsPair.mk hs) ?_
  split
  · exact KeepsPair.mk (postMgmt_keeps hs)
  · extract_lets -merge t6 t7 t8
    have h9 : Keeps s0 t6 := updPanel_keeps hs
    clear_value t6
    have h10 : Keeps s0 t7 := drawKem_keeps (drawRootKeys_keeps h9)
    clear_value t7
    have h11 : Keeps s0 t8 := Keeps.foldl (fun x12 x13 x14 => updCore_keeps x14) h10
    clear_value t8
    exact KeepsPair.mk (clearStatusPage_keeps (clearRestoreKnots_keeps h11))

theorem seamGone_keeps {s0 p s} (hs : Keeps s0 s) : Keeps s0 (seamGone p s) := by
  unfold seamGone
  extract_lets -merge t1 t2
  clear_value t1
  have h4 : Keeps s0 t2 := Keeps.of hs rfl rfl rfl
  clear_value t2
  exact Keeps.ite (disarmSeam_keeps h4) (leaveSeam_keeps h4)

theorem doScrubComplete_keeps {s0 p ms s} (hs : Keeps s0 s) : Keeps s0 (doScrubComplete p ms s) := by
  unfold doScrubComplete
  extract_lets -merge t1 t2 t3 t4 t5 t6 t7 t8 t9
  clear_value t1
  have h11 : Keeps s0 t2 := dropModel_keeps (releaseShared_keeps (dropKernels_keeps hs))
  clear_value t2
  have h12 : Keeps s0 t3 := poisonCores_keeps h11
  clear_value t3
  have h13 : Keeps s0 t4 := zeroCores_keeps h12
  clear_value t4
  have h14 : Keeps s0 t5 := Keeps.foldl (fun x15 x16 x17 => scrub_keeps x17) h13
  clear_value t5
  have h18 : Keeps s0 t6 := Keeps.foldl (fun x19 x20 x21 => Keeps.foldl (fun x22 x23 x24 => scrub_keeps x24) x21) h14
  clear_value t6
  have h25 : Keeps s0 t7 := Keeps.of h18 rfl rfl rfl
  clear_value t7
  have h26 : Keeps s0 t8 := zeroBlocks_keeps h25
  clear_value t8
  have h27 : Keeps s0 t9 := dropRootKeys_keeps (clearStatusPage_keeps h26)
  clear_value t9
  exact Keeps.ite hs (odPut_keeps (updPanel_keeps h27))

theorem writeRelease_keeps {s0 p s} (hs : Keeps s0 s) : KeepsPair s0 (writeRelease p s) := by
  unfold writeRelease
  extract_lets -merge t1 t2 t3 t4 t5
  have h6 : Keeps s0 t1 := updPanel_keeps hs
  clear_value t1
  have h7 : Keeps s0 t2 := Keeps.foldl (fun x8 x9 x10 => killKernel_keeps x10) h6
  clear_value t2
  have h11 : Keeps s0 t3 := seamGone_keeps (abandonSnap_keeps h7)
  clear_value t3
  have h12 : Keeps s0 t4 := destroyQps_keeps (poisonCores_keeps h11)
  clear_value t4
  have h13 : Keeps s0 t5 := updPanel_keeps h12
  clear_value t5
  exact KeepsPair.ite (KeepsPair.mk hs) (KeepsPair.mk (Keeps.of h13 rfl rfl rfl))

theorem resetPanel_keeps {s0 p s} (hs : Keeps s0 s) : Keeps s0 (resetPanel p s) := by
  unfold resetPanel
  extract_lets -merge t1 t2 t3 t4 t5 t6 t7 t8
  have h9 : Keeps s0 t1 := dropKernels_keeps hs
  clear_value t1
  have h10 : Keeps s0 t2 := updPanel_keeps (abandonSnap_keeps h9)
  clear_value t2
  have h11 : Keeps s0 t3 := seamGone_keeps (releaseShared_keeps h10)
  clear_value t3
  have h12 : Keeps s0 t4 := clearRestoreKnots_keeps (destroyQps_keeps (poisonCores_keeps h11))
  clear_value t4
  have h13 : Keeps s0 t5 := Keeps.of h12 rfl rfl rfl
  clear_value t5
  have h14 : Keeps s0 t6 := zeroBlocks_keeps (zeroCores_keeps h13)
  clear_value t6
  have h15 : Keeps s0 t7 := updPanel_keeps h14
  clear_value t7
  have h16 : Keeps s0 t8 := clearStatusPage_keeps (drawKem_keeps h15)
  clear_value t8
  exact dropModel_keeps (defaultPanelEntries_keeps h16)

theorem writePanelReset_keeps {s0 p v s} (hs : Keeps s0 s) : KeepsPair s0 (writePanelReset p v s) := by
  unfold writePanelReset
  exact KeepsPair.ite (KeepsPair.mk hs) (KeepsPair.ite (KeepsPair.mk hs) (KeepsPair.ite (KeepsPair.mk hs) (KeepsPair.mk (pumpAll_keeps (postBoth_keeps (resetPanel_keeps hs))))))

theorem writeGrants_keeps {s0 p data s} (hs : Keeps s0 s) : KeepsPair s0 (writeGrants p data s) := by
  unfold writeGrants
  extract_lets -merge t1
  clear_value t1
  exact KeepsPair.ite (KeepsPair.mk hs) (KeepsPair.ite (KeepsPair.mk (updPanel_keeps hs)) (KeepsPair.mk hs))

theorem endParked_keeps {s0 kid s} (hs : Keeps s0 s) : Keeps s0 (endParked kid s) := by
  unfold endParked
  exact Keeps.foldl (fun x1 x2 x3 => updCore_keeps x3) hs

theorem writeWaitAbort_keeps {s0 p tag s} (hs : Keeps s0 s) : KeepsPair s0 (writeWaitAbort p tag s) := by
  unfold writeWaitAbort
  exact KeepsPair.mk (Keeps.foldl (fun x1 x2 x3 => endParked_keeps (abortKernel_keeps x3)) hs)

theorem doSpoolSample_keeps {s0 p n s} (hs : Keeps s0 s) : Keeps s0 (doSpoolSample p n s) := by
  unfold doSpoolSample
  extract_lets -merge t1 t2 t3
  clear_value t1 t2 t3
  exact Keeps.ite hs (storeBytes_keeps (markHigh_keeps hs))

theorem doWatchdog_keeps {s0 c q s} (hs : Keeps s0 s) : Keeps s0 (doWatchdog c q s) := by
  unfold doWatchdog
  split
  · extract_lets -merge t7 t8 t9
    clear_value t7
    have h11 : Keeps s0 t8 := updQueue_keeps (updCore_keeps hs)
    clear_value t8
    have h12 : Keeps s0 t9 := postPanel_keeps (odCount_keeps h11)
    clear_value t9
    exact Keeps.ite (endParked_keeps (abortKernel_keeps h12)) h12
  · exact hs

theorem installKey_keeps {s0 p slot purpose key s} (hs : Keeps s0 s) : Keeps s0 (installKey p slot purpose key s) := by
  unfold installKey
  exact updPanel_keeps hs

theorem writeNonce_keeps {s0 n data s} (hs : Keeps s0 s) : KeepsPair s0 (writeNonce n data s) := by
  unfold writeNonce
  extract_lets -merge t1 t2
  clear_value t1 t2
  exact KeepsPair.ite (KeepsPair.mk hs) (KeepsPair.ite (KeepsPair.mk hs) (KeepsPair.ite (KeepsPair.mk (postMgmt_keeps hs)) (KeepsPair.mk (Keeps.of hs rfl rfl rfl))))

theorem doQuoteReady_keeps {s0 leafOk s} (hs : Keeps s0 s) : Keeps s0 (doQuoteReady leafOk s) := by
  unfold doQuoteReady
  split
  · exact hs
  · extract_lets -merge t7 t8 t9 t10 t11
    clear_value t7
    have h13 : Keeps s0 t8 := Keeps.of hs rfl rfl rfl
    clear_value t8 t9 t10 t11
    exact Keeps.ite (postMgmt_keeps h13) (Keeps.ite h13 (Keeps.of h13 rfl rfl rfl))

theorem keyRefuse_keeps {s0 p slot purpose cause code s} (hs : Keeps s0 s) :
    KeepsPair s0 (keyRefuse p slot purpose cause code s) := by
  unfold keyRefuse
  exact KeepsPair.mk (postPanel_keeps hs)

theorem writeKeyInstall_keeps {s0 p data s} (hs : Keeps s0 s) : KeepsPair s0 (writeKeyInstall p data s) := by
  unfold writeKeyInstall
  extract_lets -merge t1 t2 t3 t4
  clear_value t1 t2 t3 t4
  refine KeepsPair.ite (KeepsPair.mk hs) ?_
  refine KeepsPair.ite (KeepsPair.mk hs) ?_
  split
  · exact keyRefuse_keeps hs
  · exact KeepsPair.mk (installKey_keeps hs)

theorem writeKeyEstablish_keeps {s0 p data s} (hs : Keeps s0 s) : KeepsPair s0 (writeKeyEstablish p data s) := by
  unfold writeKeyEstablish
  extract_lets -merge t1 t2 t3
  clear_value t1 t2 t3
  refine KeepsPair.ite (KeepsPair.mk hs) ?_
  refine KeepsPair.ite (KeepsPair.mk hs) ?_
  split
  · exact keyRefuse_keeps hs
  · exact KeepsPair.mk (updPanel_keeps (installKey_keeps hs))

theorem doPartner_keeps {s0 l s} (hs : Keeps s0 s) : Keeps s0 (doPartner l s) := by
  unfold doPartner
  exact Keeps.ite hs (updLink_keeps hs)

theorem returnCredits_keeps {s0 l vc panel n s} (hs : Keeps s0 s) : Keeps s0 (returnCredits l vc panel n s) := by
  unfold returnCredits
  exact updLink_keeps hs

theorem takeAck_keeps {s0 l h s} (hs : Keeps s0 s) : Keeps s0 (takeAck l h s) := by
  unfold takeAck
  extract_lets -merge t1
  clear_value t1
  exact updLink_keeps hs

theorem doStepDown_keeps {s0 l s} (hs : Keeps s0 s) : Keeps s0 (doStepDown l s) := by
  unfold doStepDown
  extract_lets -merge t1
  clear_value t1
  exact Keeps.ite hs (updLink_keeps hs)

theorem doLldpReceive_keeps {s0 l fabric link digest s} (hs : Keeps s0 s) :
    Keeps s0 (doLldpReceive l fabric link digest s) := by
  unfold doLldpReceive
  exact Keeps.ite hs (linkCount_keeps (updLink_keeps hs))

theorem settleSpeed_keeps {s0 l s} (hs : Keeps s0 s) : Keeps s0 (settleSpeed l s) := by
  unfold settleSpeed
  extract_lets -merge t1
  clear_value t1
  split
  · exact Keeps.ite (linkCount_keeps (updLink_keeps hs)) hs
  · exact hs

theorem doSolicit_keeps {s0 l target s} (hs : Keeps s0 s) : Keeps s0 (doSolicit l target s) := by
  unfold doSolicit
  exact Keeps.ite hs (Keeps.ite (linkCount_keeps (linkEmit_keeps (linkCount_keeps hs))) (linkCount_keeps hs))

theorem sendPfc_keeps {s0 l cls quanta s} (hs : Keeps s0 s) : Keeps s0 (sendPfc l cls quanta s) := by
  unfold sendPfc
  exact linkCount_keeps (linkCount_keeps (updLink_keeps hs))

theorem doLldpSend_keeps {s0 l s} (hs : Keeps s0 s) : Keeps s0 (doLldpSend l s) := by
  unfold doLldpSend
  exact Keeps.ite hs (linkCount_keeps (linkEmit_keeps hs))

theorem startRetrain_keeps {s0 l s} (hs : Keeps s0 s) : Keeps s0 (startRetrain l s) := by
  unfold startRetrain
  exact Keeps.ite hs (linkCount_keeps (updLink_keeps hs))

theorem countFrame_keeps {s0 l good s} (hs : Keeps s0 s) : Keeps s0 (countFrame l good s) := by
  unfold countFrame
  exact Keeps.ite (linkCount_keeps hs) (linkCount_keeps hs)

theorem takeCredits_keeps {s0 l h s} (hs : Keeps s0 s) : Keeps s0 (takeCredits l h s) := by
  unfold takeCredits
  exact returnCredits_keeps hs

theorem arrive_keeps {s0 p} {f : State → State} {s} (hf : ∀ z0, Keeps s0 z0 → Keeps s0 (f z0)) (hs : Keeps s0 s) :
    Keeps s0 (arrive p f s) := by
  unfold arrive
  extract_lets -merge t1 t2 t3
  clear_value t1 t2
  have h6 : Keeps s0 t3 := linkCount_keeps hs
  clear_value t3
  exact Keeps.ite hs (Keeps.ite (linkCount_keeps (linkCount_keeps h6)) (Keeps.ite (linkCount_keeps h6) (hf _ (linkCount_keeps h6))))

theorem doEthFrame_keeps {s0 l f s} (hs : Keeps s0 s) : Keeps s0 (doEthFrame l f s) := by
  unfold doEthFrame
  exact Keeps.ite hs (linkCount_keeps (countFrame_keeps hs))

theorem doPfcRepeat_keeps {s0 l control s} (hs : Keeps s0 s) : Keeps s0 (doPfcRepeat l control s) := by
  unfold doPfcRepeat
  extract_lets -merge t1
  clear_value t1
  exact Keeps.ite hs (sendPfc_keeps hs)

theorem repeatFlits_keeps {s0 l s} (hs : Keeps s0 s) : Keeps s0 (repeatFlits l s) := by
  unfold repeatFlits
  exact Keeps.foldl (fun x1 x2 x3 => emitFlit_keeps x3) hs

theorem retrainAll_keeps {s0 s} (hs : Keeps s0 s) : Keeps s0 (retrainAll s) := by
  unfold retrainAll
  exact Keeps.foldl (fun x1 x2 x3 => startRetrain_keeps x3) hs

theorem doPfcSend_keeps {s0 l control fill s} (hs : Keeps s0 s) : Keeps s0 (doPfcSend l control fill s) := by
  unfold doPfcSend
  extract_lets -merge t1 t2 t3
  clear_value t1
  have h5 : Keeps s0 t2 := updLink_keeps hs
  clear_value t2 t3
  exact Keeps.ite hs (Keeps.ite (sendPfc_keeps h5) (Keeps.ite (sendPfc_keeps h5) h5))

theorem resendAll_keeps {s0 l counter s} (hs : Keeps s0 s) : Keeps s0 (resendAll l counter s) := by
  unfold resendAll
  exact Keeps.ite hs (linkCount_keeps (repeatFlits_keeps hs))

theorem doReplayTimeout_keeps {s0 l s} (hs : Keeps s0 s) : Keeps s0 (doReplayTimeout l s) := by
  unfold doReplayTimeout
  exact Keeps.ite (resendAll_keeps hs) hs

theorem askSpeed_keeps {s0 l t s} (hs : Keeps s0 s) : Keeps s0 (askSpeed l t s) := by
  unfold askSpeed
  exact updLink_keeps (sendLinkctl_keeps hs)

theorem askRetrain_keeps {s0 l s} (hs : Keeps s0 s) : Keeps s0 (askRetrain l s) := by
  unfold askRetrain
  exact startRetrain_keeps (Keeps.ite (sendLinkctl_keeps hs) hs)

theorem answerSpeed_keeps {s0 l t s} (hs : Keeps s0 s) : Keeps s0 (answerSpeed l t s) := by
  unfold answerSpeed
  extract_lets -merge t1 t2
  clear_value t1
  have h4 : Keeps s0 t2 := sendLinkctl_keeps hs
  clear_value t2
  exact Keeps.ite hs (Keeps.ite (linkCount_keeps (sendLinkctl_keeps hs)) (linkCount_keeps (updLink_keeps h4)))

theorem sendIdent_keeps {s0 l s} (hs : Keeps s0 s) : Keeps s0 (sendIdent l s) := by
  unfold sendIdent
  exact sendLinkctl_keeps hs

theorem doUnderrun_keeps {s0 l s} (hs : Keeps s0 s) : Keeps s0 (doUnderrun l s) := by
  unfold doUnderrun
  extract_lets -merge t1 t2
  clear_value t1
  have h4 : KeepsPair s0 t2 := freshVal_keeps hs
  clear_value t2
  refine Keeps.ite hs ?_
  split
  · exact hs
  · extract_lets -merge t10 t11 t12 t13 t14 t15
    clear_value t10 t11 t12 t13 t14
    have h21 : Keeps s0 t15 := updLink_keeps (KeepsPair.snd h4)
    clear_value t15
    exact pumpLink_keeps (linkCount_keeps h21)

theorem setPause_keeps {s0 l cls quanta s} (hs : Keeps s0 s) : Keeps s0 (setPause l cls quanta s) := by
  unfold setPause
  exact pumpLink_keeps (updLink_keeps hs)

theorem nakFlit_keeps {s0 l s} (hs : Keeps s0 s) : Keeps s0 (nakFlit l s) := by
  unfold nakFlit
  extract_lets -merge t1 t2 t3
  clear_value t1 t2
  have h6 : Keeps s0 t3 := sendPlainFlit_keeps (updLink_keeps hs)
  clear_value t3
  exact Keeps.ite (askRetrain_keeps h6) h6

theorem doLowerWindow_keeps {s0 l util s} (hs : Keeps s0 s) : Keeps s0 (doLowerWindow l util s) := by
  unfold doLowerWindow
  extract_lets -merge t1 t2
  clear_value t1
  have h4 : Keeps s0 t2 := updLink_keeps hs
  clear_value t2
  exact Keeps.ite hs (Keeps.ite (askSpeed_keeps h4) h4)

theorem doRaise_keeps {s0 l s} (hs : Keeps s0 s) : Keeps s0 (doRaise l s) := by
  unfold doRaise
  exact Keeps.ite hs (askSpeed_keeps hs)

theorem pumpLinks_keeps {s0 s} (hs : Keeps s0 s) : Keeps s0 (pumpLinks s) := by
  unfold pumpLinks
  exact Keeps.foldl (fun x1 x2 x3 => pumpLink_keeps x3) hs

theorem doPfcExpiry_keeps {s0 l control s} (hs : Keeps s0 s) : Keeps s0 (doPfcExpiry l control s) := by
  unfold doPfcExpiry
  exact Keeps.ite hs (setPause_keeps hs)

theorem doPfcReceive_keeps {s0 l prio quanta s} (hs : Keeps s0 s) : Keeps s0 (doPfcReceive l prio quanta s) := by
  unfold doPfcReceive
  extract_lets -merge t1
  have h2 : Keeps s0 t1 := linkCount_keeps (linkCount_keeps hs)
  clear_value t1
  exact Keeps.ite hs (Keeps.ite (setPause_keeps h2) (Keeps.ite (setPause_keeps h2) h2))

theorem noteDigest_keeps {s0 f value s} (hs : Keeps s0 s) : Keeps s0 (noteDigest f value s) := by
  unfold noteDigest
  extract_lets -merge t1 t2 t3
  clear_value t1 t2
  have h6 : Keeps s0 t3 := Keeps.of hs rfl rfl rfl
  clear_value t3
  exact Keeps.ite (postMgmt_keeps h6) h6

theorem doDigest_keeps {s0 p s} (hs : Keeps s0 s) : Keeps s0 (doDigest p s) := by
  unfold doDigest
  extract_lets -merge t1
  clear_value t1
  exact Keeps.ite (odCount_keeps hs) (Keeps.ite hs (pumpLinks_keeps (noteDigest_keeps hs)))

theorem judgeLink_keeps {s0 l s} (hs : Keeps s0 s) : Keeps s0 (judgeLink l s) := by
  unfold judgeLink
  extract_lets -merge t1
  clear_value t1
  split
  · exact retrySprayed_keeps (pumpLink_keeps (updLink_keeps hs))
  · exact pumpLink_keeps (postMgmt_keeps (updLink_keeps hs))

theorem doForward_keeps {s0 l p s} (hs : Keeps s0 s) : Keeps s0 (doForward l p s) := by
  unfold doForward
  refine Keeps.ite hs ?_
  refine arrive_keeps ?_ hs
  intro x1 x2
  extract_lets -merge t3
  have h4 : Keeps s0 t3 := linkCount_keeps x2
  clear_value t3
  exact Keeps.ite (sendSprayed_keeps h4) (Keeps.ite (sendOrdered_keeps h4) (sendOrdered_keeps h4))

theorem afterFlit_keeps {s0 l s} (hs : Keeps s0 s) : Keeps s0 (afterFlit l s) := by
  unfold afterFlit
  exact retrySprayed_keeps (pumpLink_keeps (settleSpeed_keeps hs))

theorem doEscape_keeps {s0 l p s} (hs : Keeps s0 s) : Keeps s0 (doEscape l p s) := by
  unfold doEscape
  exact Keeps.ite hs (sendOrdered_keeps (Keeps.of hs rfl rfl rfl))

theorem receiveFlit_keeps {s0 l h} {f : State → State} {s} (hf : ∀ z0, Keeps s0 z0 → Keeps s0 (f z0)) (hs : Keeps s0 s) :
    Keeps s0 (receiveFlit l h f s) := by
  unfold receiveFlit
  extract_lets -merge t1
  have h2 : Keeps s0 t1 := linkCount_keeps (linkCount_keeps hs)
  clear_value t1
  exact Keeps.ite hs (Keeps.ite (nakFlit_keeps (linkCount_keeps h2)) (afterFlit_keeps (hf _ (takeAck_keeps (linkCount_keeps h2)))))

theorem reroute_keeps {s0 s w} (hs : Keeps s0 s) : Keeps s0 (reroute s w) := by
  unfold reroute
  exact Keeps.ite (Keeps.ite (sendSprayed_keeps hs) (sendOrdered_keeps hs)) (netSend_keeps hs)

theorem doAnnounce_keeps {s0 s} (hs : Keeps s0 s) : Keeps s0 (doAnnounce s) := by
  unfold doAnnounce
  exact Keeps.ite hs (Keeps.foldl (fun x1 x2 x3 => netSend_keeps x3) hs)

theorem loseLink_keeps {s0 l s} (hs : Keeps s0 s) : Keeps s0 (loseLink l s) := by
  unfold loseLink
  extract_lets -merge t1 t2
  clear_value t1
  have h4 : Keeps s0 t2 := updLink_keeps hs
  clear_value t2
  exact Keeps.foldl (fun x5 x6 x7 => reroute_keeps x7) h4

theorem identDone_keeps {s0 l s} (hs : Keeps s0 s) : Keeps s0 (identDone l s) := by
  unfold identDone
  extract_lets -merge t1 t2
  clear_value t1
  have h4 : Keeps s0 t2 := judgeLink_keeps hs
  clear_value t2
  exact Keeps.ite h4 (doAnnounce_keeps h4)

theorem doFlitIdle_keeps {s0 l h s} (hs : Keeps s0 s) : Keeps s0 (doFlitIdle l h s) := by
  unfold doFlitIdle
  exact receiveFlit_keeps (fun x1 x2 => takeCredits_keeps x2) hs

theorem digestChanged_keeps {s0 s} (hs : Keeps s0 s) : Keeps s0 (digestChanged s) := by
  unfold digestChanged
  extract_lets -merge t1 t2
  have h3 : Keeps s0 t1 := Keeps.foldl (fun x4 x5 x6 => noteDigest_keeps x6) hs
  clear_value t1
  have h7 : Keeps s0 t2 := Keeps.ite (Keeps.foldl (fun x8 x9 x10 => sendIdent_keeps x10) h3) h3
  clear_value t2
  exact pumpLinks_keeps (doAnnounce_keeps h7)

theorem doFlitNak_keeps {s0 l h s} (hs : Keeps s0 s) : Keeps s0 (doFlitNak l h s) := by
  unfold doFlitNak
  refine receiveFlit_keeps ?_ hs
  intro x1 x2
  extract_lets -merge t3 t4
  have h5 : Keeps s0 t3 := resendAll_keeps (takeCredits_keeps x2)
  clear_value t3
  have h6 : Keeps s0 t4 := updLink_keeps h5
  clear_value t4
  exact Keeps.ite (askRetrain_keeps h6) h6

theorem numbered_keeps {s0 l h} {f : State → State} {s} (hf : ∀ z0, Keeps s0 z0 → Keeps s0 (f z0)) (hs : Keeps s0 s) :
    Keeps s0 (numbered l h f s) := by
  unfold numbered
  refine receiveFlit_keeps ?_ hs
  intro x1 x2
  extract_lets -merge t3 t4 t5
  clear_value t3 t4
  have h8 : Keeps s0 t5 := updLink_keeps x2
  clear_value t5
  exact Keeps.ite (sendPlainFlit_keeps (hf _ (takeCredits_keeps h8))) (Keeps.ite x2 (nakFlit_keeps x2))

theorem doTrained_keeps {s0 l lanes s} (hs : Keeps s0 s) : Keeps s0 (doTrained l lanes s) := by
  unfold doTrained
  extract_lets -merge t1
  have h2 : Keeps s0 t1 := updLink_keeps hs
  clear_value t1
  exact Keeps.ite hs (Keeps.ite (updLink_keeps hs) (Keeps.ite (sendIdent_keeps h2) (pumpLink_keeps (doAnnounce_keeps h2))))

theorem dropDisabled_keeps {s0 s} (hs : Keeps s0 s) : Keeps s0 (dropDisabled s) := by
  unfold dropDisabled
  exact Keeps.foldl (fun x1 x2 x3 => loseLink_keeps x3) hs

theorem doFlitData_keeps {s0 l h s} (hs : Keeps s0 s) : Keeps s0 (doFlitData l h s) := by
  unfold doFlitData
  exact numbered_keeps (fun x1 x2 => updLink_keeps x2) hs

theorem doLane_keeps {s0 l s} (hs : Keeps s0 s) : Keeps s0 (doLane l s) := by
  unfold doLane
  exact Keeps.ite hs (Keeps.ite (loseLink_keeps hs) (updLink_keeps hs))

theorem doRetrained_keeps {s0 l lanes s} (hs : Keeps s0 s) : Keeps s0 (doRetrained l lanes s) := by
  unfold doRetrained
  extract_lets -merge t1 t2
  have h3 : Keeps s0 t1 := updLink_keeps hs
  clear_value t1
  have h4 : Keeps s0 t2 := repeatFlits_keeps (updLink_keeps h3)
  clear_value t2
  exact Keeps.ite hs (Keeps.ite (loseLink_keeps hs) (Keeps.ite (pumpLink_keeps (updLink_keeps h3)) (Keeps.ite (pumpLink_keeps h4) (judgeLink_keeps h4))))

theorem doSpeedRefuse_keeps {s0 l h s} (hs : Keeps s0 s) : Keeps s0 (doSpeedRefuse l h s) := by
  unfold doSpeedRefuse
  exact numbered_keeps (fun x1 x2 => Keeps.ite x2 (linkCount_keeps (updLink_keeps x2))) hs

theorem doRetrain_keeps {s0 l h s} (hs : Keeps s0 s) : Keeps s0 (doRetrain l h s) := by
  unfold doRetrain
  refine Keeps.ite hs ?_
  split
  · exact askRetrain_keeps hs
  · exact numbered_keeps (fun x4 x5 => startRetrain_keeps x5) hs

theorem doRetrainTimeout_keeps {s0 l s} (hs : Keeps s0 s) : Keeps s0 (doRetrainTimeout l s) := by
  unfold doRetrainTimeout
  exact Keeps.ite hs (loseLink_keeps hs)

theorem doLoss_keeps {s0 l s} (hs : Keeps s0 s) : Keeps s0 (doLoss l s) := by
  unfold doLoss
  exact Keeps.ite hs (loseLink_keeps hs)

theorem takeIdent_keeps {s0 l m s} (hs : Keeps s0 s) : Keeps s0 (takeIdent l m s) := by
  unfold takeIdent
  extract_lets -merge t1 t2 t3
  clear_value t1
  have h5 : Keeps s0 t2 := updLink_keeps hs
  clear_value t2
  have h6 : Keeps s0 t3 := Keeps.ite (sendIdent_keeps h5) h5
  clear_value t3
  exact identDone_keeps h6

theorem doSpeedReq_keeps {s0 l h t s} (hs : Keeps s0 s) : Keeps s0 (doSpeedReq l h t s) := by
  unfold doSpeedReq
  exact numbered_keeps (fun x1 x2 => answerSpeed_keeps x2) hs

theorem doSpeedAck_keeps {s0 l h t q s} (hs : Keeps s0 s) : Keeps s0 (doSpeedAck l h t q s) := by
  unfold doSpeedAck
  exact numbered_keeps (fun x1 x2 => updLink_keeps x2) hs

theorem doIdent_keeps {s0 l h m s} (hs : Keeps s0 s) : Keeps s0 (doIdent l h m s) := by
  unfold doIdent
  exact numbered_keeps (fun x1 x2 => takeIdent_keeps x2) hs

theorem updColl_keeps {s0 kid} {f : Coll → Coll} {s} (hs : Keeps s0 s) : Keeps s0 (updColl kid f s) := by
  unfold updColl
  exact Keeps.of hs rfl rfl rfl

theorem sendBytes_keeps {s0 x i m a n s} (hs : Keeps s0 s) : Keeps s0 (sendBytes x i m a n s) := by
  unfold sendBytes
  extract_lets -merge t1
  clear_value t1
  exact Keeps.ite hs (sendMessage_keeps (noteRead_keeps hs))

theorem collPhase1_keeps {s0 x s} (hs : Keeps s0 s) : Keeps s0 (collPhase1 x s) := by
  unfold collPhase1
  extract_lets -merge t1 t2
  have h3 : Keeps s0 t1 := Keeps.ite (writeBytes_keeps hs) (Keeps.ite (writeBytes_keeps hs) hs)
  clear_value t1
  have h4 : Keeps s0 t2 := Keeps.foldl (fun x5 x6 x7 => sendBytes_keeps x7) h3
  clear_value t2
  exact Keeps.ite hs (Keeps.ite (updColl_keeps h4) (updColl_keeps h3))

theorem collSignal_keeps {s0 x s} (hs : Keeps s0 s) : Keeps s0 (collSignal x s) := by
  unfold collSignal
  refine Keeps.ite hs ?_
  split
  · exact knotRefuse_keeps hs
  · exact knotRefuse_keeps hs
  · exact deviceKnot_keeps (Keeps.of hs rfl rfl rfl)

theorem postReceive_keeps {s0 x i m a n s} (hs : Keeps s0 s) : Keeps s0 (postReceive x i m a n s) := by
  unfold postReceive
  split
  · exact hs
  · extract_lets -merge t7 t8
    clear_value t7 t8
    exact deviceKnot_keeps (writeBytes_keeps hs)

theorem collBegin_keeps {s0 x s} (hs : Keeps s0 s) : Keeps s0 (collBegin x s) := by
  unfold collBegin
  split
  · exact regionAbort_keeps hs
  · split
    · rename_i y6 y7 y8 y9
      have h10 : Keeps s0 y8 := KeepsPair.elim y9 (hubMeets_keeps hs)
      exact abortKernel_keeps h10
    · rename_i y11 y12 y13 y14
      have h15 : Keeps s0 y13 := KeepsPair.elim y14 (hubMeets_keeps hs)
      exact h15
    · rename_i y16 y17 y18
      have h19 : Keeps s0 y17 := KeepsPair.elim y18 (hubMeets_keeps hs)
      extract_lets -merge t20 t21
      have h22 : Keeps s0 t20 := Keeps.foldl (fun x23 x24 x25 => Keeps.ite x25 (postReceive_keeps x25)) h19
      clear_value t20
      have h26 : Keeps s0 t21 := Keeps.foldl (fun x27 x28 x29 => sendBytes_keeps x29) h22
      clear_value t21
      exact updColl_keeps h26

theorem stepColl_keeps {s0 kid s} (hs : Keeps s0 s) : Keeps s0 (stepColl kid s) := by
  unfold stepColl
  split
  · extract_lets -merge t7
    clear_value t7
    refine Keeps.ite hs ?_
    split
    · exact collBegin_keeps hs
    · exact collPhase1_keeps hs
    · exact Keeps.ite (updColl_keeps hs) hs
    · exact collSignal_keeps hs
  · exact hs

theorem pumpColls_keeps {s0 s} (hs : Keeps s0 s) : Keeps s0 (pumpColls s) := by
  unfold pumpColls
  exact Keeps.foldl (fun x1 x2 x3 => stepColl_keeps (stepColl_keeps (stepColl_keeps (stepColl_keeps x3)))) hs

theorem doCollRec_keeps {s0 h r} {pick : Nat → Bool} {s} (hs : Keeps s0 s) : Keeps s0 (doCollRec h r pick s) := by
  unfold doCollRec
  refine withRec_keeps ?_ hs
  intro x1 x2 x3
  split
  · exact postPanel_keeps (holdRefused_keeps x3)
  · extract_lets -merge t9 t10 t11 t12 t13
    clear_value t9 t10
    have h16 : Keeps s0 t11 := takeRec_keeps x3
    clear_value t11
    have h17 : Keeps s0 t12 := Keeps.of h16 rfl rfl rfl
    clear_value t12
    have h18 : Keeps s0 t13 := by
      unfold t13
      split
      · exact refuseLost_keeps h17
      · exact h17
    clear_value t13
    exact checkHead_keeps h18

end Sys2Proof.Machine
end

