-- ==== Sys2Proof/Laws/KeepsBus.lean ====
section
/-! SUPPORT. What is kept (Laws/Keeps.lean) by the operations of jobs, ports, power, start-up, failures, the object dictionary and the host bus. -/
namespace Sys2Proof.Machine

theorem jump_keeps {s0 c n s} (hs : Keeps s0 s) : Keeps s0 (jump c n s) := by
  unfold jump
  exact updCore_keeps hs

theorem doYield_keeps {s0 c x idx s} (hs : Keeps s0 s) : Keeps s0 (doYield c x idx s) := by
  unfold doYield
  extract_lets -merge t1
  have h2 : Keeps s0 t1 := odCount_keeps (updCore_keeps hs)
  clear_value t1
  refine Keeps.ite hs ?_
  split
  · exact Keeps.ite (saveIfStopped_keeps (advance_keeps (updCore_keeps h2))) (advance_keeps h2)
  · exact h2

theorem execNop_keeps {s0 c h s} (hs : Keeps s0 s) : KeepsOut s0 (execNop c h s) := by
  unfold execNop
  exact alive_keeps (fun x1 x2 => controlOp_keeps (fun x3 x4 x5 x6 => advance_keeps x6) x2) hs

theorem doNext_keeps {s0 c x s} (hs : Keeps s0 s) : Keeps s0 (doNext c x s) := by
  unfold doNext
  split
  · exact hs
  · exact Keeps.ite (jump_keeps (updCore_keeps hs)) (advance_keeps (updCore_keeps hs))

theorem doWaitq_keeps {s0 c mask x s} (hs : Keeps s0 s) : Keeps s0 (doWaitq c mask x s) := by
  unfold doWaitq
  exact Keeps.ite hs (advance_keeps hs)

theorem execPhase_keeps {s0 c h phase s} (hs : Keeps s0 s) : KeepsOut s0 (execPhase c h phase s) := by
  unfold execPhase
  exact alive_keeps (fun x1 x2 => controlOp_keeps (fun x3 x4 x5 x6 => advance_keeps (enterPhase_keeps x6)) x2) hs

theorem setReg_keeps {s0 c r v s} (hs : Keeps s0 s) : Keeps s0 (setReg c r v s) := by
  unfold setReg
  exact advance_keeps (updCore_keeps hs)

theorem doLoop_keeps {s0 c count1 idx s} (hs : Keeps s0 s) : Keeps s0 (doLoop c count1 idx s) := by
  unfold doLoop
  exact advance_keeps (updCore_keeps hs)

theorem execWaitq_keeps {s0 c h mask s} (hs : Keeps s0 s) : KeepsOut s0 (execWaitq c h mask s) := by
  unfold execWaitq
  exact alive_keeps (fun x1 x2 => controlOp_keeps (fun x3 x4 x5 x6 => doWaitq_keeps x6) x2) hs

theorem execYield_keeps {s0 c h s} (hs : Keeps s0 s) : KeepsOut s0 (execYield c h s) := by
  unfold execYield
  exact alive_keeps (fun x1 x2 => controlOp_keeps (fun x3 x4 x5 x6 => doYield_keeps x6) x2) hs

theorem execSeta_keeps {s0 c h reg value s} (hs : Keeps s0 s) : KeepsOut s0 (execSeta c h reg value s) := by
  unfold execSeta
  exact alive_keeps (fun x1 x2 => controlOp_keeps (fun x3 x4 x5 x6 => setReg_keeps x6) x2) hs

theorem execAdda_keeps {s0 c h reg incr s} (hs : Keeps s0 s) : KeepsOut s0 (execAdda c h reg incr s) := by
  unfold execAdda
  exact alive_keeps (fun x1 x2 => controlOp_keeps (fun x3 x4 x5 x6 => setReg_keeps x6) x2) hs

theorem execLoop_keeps {s0 c h level count1 s} (hs : Keeps s0 s) : KeepsOut s0 (execLoop c h level count1 s) := by
  unfold execLoop
  exact alive_keeps (fun x1 x2 => controlOp_keeps (fun x3 x4 x5 x6 => doLoop_keeps x6) x2) hs

theorem execNext_keeps {s0 c h level s} (hs : Keeps s0 s) : KeepsOut s0 (execNext c h level s) := by
  unfold execNext
  exact alive_keeps (fun x1 x2 => controlOp_keeps (fun x3 x4 x5 x6 => doNext_keeps x6) x2) hs

theorem doEnd_keeps {s0 c x s} (hs : Keeps s0 s) : Keeps s0 (doEnd c x s) := by
  unfold doEnd
  split
  · exact hs
  · extract_lets -merge t6
    have h7 : Keeps s0 t6 := updCore_keeps (saveSpools_keeps hs)
    clear_value t6
    exact Keeps.ite hs (pumpCores_keeps (saveIfStopped_keeps (enterPhase_keeps h7)))

theorem doCommit_keeps {s0 c x idx s} (hs : Keeps s0 s) : Keeps s0 (doCommit c x idx s) := by
  unfold doCommit
  split
  · exact hs
  · extract_lets -merge t6 t7 t8
    have h9 : Keeps s0 t6 := saveSpools_keeps hs
    clear_value t6 t7 t8
    exact Keeps.ite hs (pumpCores_keeps (advance_keeps (odCount_keeps (updCore_keeps h9))))

theorem settle_keeps {s0} {f : State → State} {s} (hf : ∀ z0, Keeps s0 z0 → Keeps s0 (f z0)) (hs : Keeps s0 s) :
    KeepsOut s0 (settle f s) := by
  unfold settle
  exact alive_keeps (fun x1 x2 => pumpColls_keeps (hf _ x2)) hs

theorem execCommit_keeps {s0 c h s} (hs : Keeps s0 s) : KeepsOut s0 (execCommit c h s) := by
  unfold execCommit
  exact settle_keeps (fun x1 x2 => controlOp_keeps (fun x3 x4 x5 x6 => doCommit_keeps x6) x2) hs

theorem execEndOp_keeps {s0 c h s} (hs : Keeps s0 s) : KeepsOut s0 (execEndOp c h s) := by
  unfold execEndOp
  exact settle_keeps (fun x1 x2 => controlOp_keeps (fun x3 x4 x5 x6 => doEnd_keeps x6) x2) hs

theorem setModel_keeps {s0 p b s} (hs : Keeps s0 s) : Keeps s0 (setModel p b s) := by
  unfold setModel
  exact odCount_keeps (Keeps.of hs rfl rfl rfl)

theorem doHintExpiry_keeps {s0 p s} (hs : Keeps s0 s) : Keeps s0 (doHintExpiry p s) := by
  unfold doHintExpiry
  split
  · exact hs
  · exact Keeps.ite hs (updPanel_keeps hs)

theorem unfence_keeps {s0 h r s} (hs : Keeps s0 s) : Keeps s0 (unfence h r s) := by
  unfold unfence
  exact holdRefused_keeps (updRing_keeps hs)

theorem buildList_keeps {s0 p st s} (hs : Keeps s0 s) : Keeps s0 (buildList p st s) := by
  unfold buildList
  extract_lets -merge t1 t2 t3 t4
  clear_value t1 t2 t3
  have h8 : Keeps s0 t4 := Keeps.foldl (fun x9 x10 x11 => storeBytes_keeps x11) hs
  clear_value t4
  exact storeBytes_keeps h8

theorem doJobRec_keeps {s0 h r s} (hs : Keeps s0 s) : Keeps s0 (doJobRec h r s) := by
  unfold doJobRec
  refine withRec_keeps ?_ hs
  intro x1 x2 x3
  refine Keeps.ite (holdRec_keeps x3) ?_
  split
  · exact holdRec_keeps (postPanel_keeps x3)
  · exact doneRec_keeps (updRing_keeps x3)

theorem doModelRec_keeps {s0 h r s} (hs : Keeps s0 s) : Keeps s0 (doModelRec h r s) := by
  unfold doModelRec
  exact withRec_keeps (fun x1 x2 x3 => fenceRec_keeps x3) hs

theorem doFenceRec_keeps {s0 h r type s} (hs : Keeps s0 s) : Keeps s0 (doFenceRec h r type s) := by
  unfold doFenceRec
  exact withRec_keeps (fun x1 x2 x3 => Keeps.ite (fenceRec_keeps x3) (holdRec_keeps x3)) hs

theorem doHintRec_keeps {s0 h r s} (hs : Keeps s0 s) : Keeps s0 (doHintRec h r s) := by
  unfold doHintRec
  refine withRec_keeps ?_ hs
  intro x1 x2 x3
  split
  · exact postPanel_keeps (doneRec_keeps x3)
  · exact doneRec_keeps (updPanel_keeps x3)

theorem copyImage_keeps {s0 e s} (hs : Keeps s0 s) : KeepsPair s0 (copyImage e s) := by
  unfold copyImage
  refine KeepsPair.ite (KeepsPair.mk hs) ?_
  split
  · rename_i y1 y2 y3 y4 y5
    have h6 : Keeps s0 y4 := KeepsPair.elim y5 (hubMeets_keeps hs)
    exact KeepsPair.mk h6
  · rename_i y7 y8 y9
    have h10 : Keeps s0 y8 := KeepsPair.elim y9 (hubMeets_keeps hs)
    exact KeepsPair.ite (KeepsPair.mk h10) (KeepsPair.ite (KeepsPair.mk (writeBytes_keeps (noteRead_keeps h10))) (KeepsPair.mk (tbTouch_keeps (copyMem_keeps (noteRead_keeps h10)))))

theorem copyImages_keeps {s0 a0 a1} (hs : Keeps s0 a1) : KeepsPair s0 (copyImages a0 a1) := by
  induction a0 generalizing a1 with
  | nil =>
    unfold copyImages
    exact KeepsPair.mk hs
  | cons b l ih =>
    unfold copyImages
    split
    · rename_i y1 y2 y3
      have h4 : Keeps s0 y2 := KeepsPair.elim y3 (copyImage_keeps hs)
      exact ih h4
    · rename_i y5 y6
      exact copyImage_keeps hs

theorem doWorklistRec_keeps {s0 h r s} (hs : Keeps s0 s) : Keeps s0 (doWorklistRec h r s) := by
  unfold doWorklistRec
  refine withRec_keeps ?_ hs
  intro x1 x2 x3
  extract_lets -merge t4 t5 t6 t7
  clear_value t4 t5
  have h10 : Keeps s0 t6 := Keeps.ite (buildList_keeps x3) x3
  clear_value t6
  have h11 : Keeps s0 t7 := panelKnot_keeps h10
  clear_value t7
  split
  · exact postPanel_keeps (holdRefused_keeps x3)
  · exact pumpCores_keeps (doneRec_keeps (odCount_keeps h11))

theorem modelNow_keeps {s0 h r n cqe tag s} (hs : Keeps s0 s) : Keeps s0 (modelNow h r n cqe tag s) := by
  unfold modelNow
  split
  · exact endFence_keeps hs
  · extract_lets -merge t6 t7
    clear_value t6 t7
    split
    · exact postPanel_keeps (unfence_keeps hs)
    · split
      · rename_i y16 y17 y18
        have h19 : Keeps s0 y17 := KeepsPair.elim y18 (copyImages_keeps hs)
        exact endFence_keeps (setModel_keeps h19)
      · rename_i y20 y21 y22
        have h23 : Keeps s0 y21 := KeepsPair.elim y22 (copyImages_keeps hs)
        exact h23
      · rename_i y24 y25 y26
        have h27 : Keeps s0 y25 := KeepsPair.elim y26 (copyImages_keeps hs)
        exact endFence_keeps h27

theorem doFenceClear_keeps {s0 h r s} (hs : Keeps s0 s) : Keeps s0 (doFenceClear h r s) := by
  unfold doFenceClear
  extract_lets -merge t1
  clear_value t1
  split
  · exact hs
  · exact Keeps.ite hs (Keeps.ite (publishNow_keeps hs) (Keeps.ite (modelNow_keeps hs) (endFence_keeps hs)))

theorem mapRings_keeps {s0 p} {f : Ring → Ring} {s} (hs : Keeps s0 s) : Keeps s0 (mapRings p f s) := by
  unfold mapRings
  exact Keeps.of hs rfl rfl rfl

theorem portStateBytes_keeps {s0 s h} (hs : Keeps s0 s) : KeepsPair s0 (portStateBytes s h) := by
  unfold portStateBytes
  extract_lets -merge t1 t2 t3
  clear_value t1 t2
  have h6 : KeepsPair s0 t3 := freshVal_keeps hs
  clear_value t3
  split
  · rename_i y7 y8 y9 y10
    have h11 : Keeps s0 y9 := KeepsPair.elim y10 (KeepsPair.ite (KeepsPair.mk (KeepsPair.snd h6)) (KeepsPair.mk hs))
    exact KeepsPair.mk h11

theorem quiescePanel_keeps {s0 h s p} (hs : Keeps s0 s) : Keeps s0 (quiescePanel h s p) := by
  unfold quiescePanel
  exact mapRings_keeps (updPanel_keeps hs)

theorem zeroPortBlocks_keeps {s0 h s} (hs : Keeps s0 s) : Keeps s0 (zeroPortBlocks h s) := by
  unfold zeroPortBlocks
  extract_lets -merge t1
  have h2 : Keeps s0 t1 := Keeps.foldl (fun x3 x4 x5 => dropCache_keeps (updSlot_keeps x5)) hs
  clear_value t1
  exact Keeps.foldl (fun x6 x7 x8 => updRing_keeps x8) h2

theorem doPortRetrain_keeps {s0 h failed replayed s} (hs : Keeps s0 s) : Keeps s0 (doPortRetrain h failed replayed s) := by
  unfold doPortRetrain
  exact Keeps.ite hs (portCount_keeps (portCount_keeps (portCount_keeps (updPort_keeps hs))))

theorem doBar2Read_keeps {s0 h s} (hs : Keeps s0 s) : Keeps s0 (doBar2Read h s) := by
  unfold doBar2Read
  exact Keeps.ite hs (portCount_keeps hs)

theorem resumePanel_keeps {s0 h s p} (hs : Keeps s0 s) : Keeps s0 (resumePanel h s p) := by
  unfold resumePanel
  extract_lets -merge t1
  have h2 : Keeps s0 t1 := updPanel_keeps hs
  clear_value t1
  exact Keeps.ite h2 (mapRings_keeps h2)

theorem portBack_keeps {s0 h s} (hs : Keeps s0 s) : Keeps s0 (portBack h s) := by
  unfold portBack
  extract_lets -merge t1 t2
  clear_value t1
  have h4 : Keeps s0 t2 := Keeps.foldl (fun x5 x6 x7 => updCore_keeps x7) hs
  clear_value t2
  exact Keeps.foldl (fun x8 x9 x10 => portSend_keeps x10) (updPort_keeps h4)

theorem doIrqHoldoff_keeps {s0 h v s} (hs : Keeps s0 s) : Keeps s0 (doIrqHoldoff h v s) := by
  unfold doIrqHoldoff
  extract_lets -merge t1 t2
  clear_value t1
  have h4 : Keeps s0 t2 := updPort_keeps hs
  clear_value t2
  exact Keeps.ite hs (Keeps.ite (raiseVector_keeps h4) h4)

theorem releaseHeld_keeps {s0 h s r} (hs : Keeps s0 s) : Keeps s0 (releaseHeld h s r) := by
  unfold releaseHeld
  extract_lets -merge t1
  clear_value t1
  exact flushRing_keeps (updRing_keeps hs)

theorem postPanels_keeps {s0 ps code src a b s} (hs : Keeps s0 s) : Keeps s0 (postPanels ps code src a b s) := by
  unfold postPanels
  extract_lets -merge t1
  clear_value t1
  exact Keeps.foldl (fun x3 x4 x5 => postPanelEvent_keeps x5) (postMgmtEvent_keeps hs)

theorem doHostLost_keeps {s0 h s} (hs : Keeps s0 s) : Keeps s0 (doHostLost h s) := by
  unfold doHostLost
  extract_lets -merge t1 t2 t3 t4 t5 t6
  clear_value t1
  have h8 : Keeps s0 t2 := portCount_keeps (portCount_keeps hs)
  clear_value t2
  have h9 : Keeps s0 t3 := updPort_keeps h8
  clear_value t3
  have h10 : Keeps s0 t4 := Keeps.foldl (fun x11 x12 x13 => loseHost_keeps x13) h9
  clear_value t4 t5
  have h15 : Keeps s0 t6 := Keeps.foldl (fun x16 x17 x18 => quiescePanel_keeps x18) h10
  clear_value t6
  exact Keeps.ite hs (postPanels_keeps h15)

theorem doDoorbellGrace_keeps {s0 h r s} (hs : Keeps s0 s) : Keeps s0 (doDoorbellGrace h r s) := by
  unfold doDoorbellGrace
  extract_lets -merge t1
  clear_value t1
  exact Keeps.ite (holdInvalid_keeps hs) hs

theorem doComplConsumer_keeps {s0 h r v s} (hs : Keeps s0 s) : Keeps s0 (doComplConsumer h r v s) := by
  unfold doComplConsumer
  exact Keeps.ite hs (checkHead_keeps (retryRing_keeps (updRing_keeps hs)))

theorem checkRings_keeps {s0 h s} (hs : Keeps s0 s) : Keeps s0 (checkRings h s) := by
  unfold checkRings
  exact Keeps.foldl (fun x1 x2 x3 => checkHead_keeps x3) hs

theorem resumeLost_keeps {s0 h s e} (hs : Keeps s0 s) : Keeps s0 (resumeLost h s e) := by
  unfold resumeLost
  split
  · exact Keeps.ite (resumeMove_keeps hs) hs
  · exact hs

theorem doAttach_keeps {s0 h s} (hs : Keeps s0 s) : Keeps s0 (doAttach h s) := by
  unfold doAttach
  extract_lets -merge t1 t2 t3 t4 t5 t6 t7 t8
  clear_value t1
  have h10 : Keeps s0 t2 := updPort_keeps hs
  clear_value t2
  have h11 : Keeps s0 t3 := Keeps.foldl (fun x12 x13 x14 => resumePanel_keeps x14) h10
  clear_value t3
  have h15 : Keeps s0 t4 := Keeps.foldl (fun x16 x17 x18 => resumeLost_keeps x18) h11
  clear_value t4
  have h19 : Keeps s0 t5 := Keeps.foldl (fun x20 x21 x22 => releaseHeld_keeps x22) h15
  clear_value t5
  have h23 : Keeps s0 t6 := updPort_keeps h19
  clear_value t6
  have h24 : Keeps s0 t7 := Keeps.foldl (fun x25 x26 x27 => flushEvents_keeps x27) h23
  clear_value t7 t8
  exact Keeps.ite hs (pumpAll_keeps (Keeps.foldl (fun x29 x30 x31 => checkRings_keeps x31) (postPanels_keeps h24)))

theorem graceReset_keeps {s0 h s p} (hs : Keeps s0 s) : Keeps s0 (graceReset h s p) := by
  unfold graceReset
  exact postBoth_keeps (updPanel_keeps (resetPanel_keeps hs))

theorem doHostGrace_keeps {s0 h s} (hs : Keeps s0 s) : Keeps s0 (doHostGrace h s) := by
  unfold doHostGrace
  extract_lets -merge t1 t2 t3 t4
  clear_value t1 t2
  have h7 : Keeps s0 t3 := Keeps.foldl (fun x8 x9 x10 => graceReset_keeps x10) hs
  clear_value t3
  have h11 : Keeps s0 t4 := updPort_keeps (zeroPortBlocks_keeps h7)
  clear_value t4
  exact Keeps.ite hs (pumpAll_keeps (postMgmt_keeps h11))

theorem updPower_keeps {s0} {f : Power → Power} {s} (hs : Keeps s0 s) : Keeps s0 (updPower f s) := by
  unfold updPower
  exact Keeps.of hs rfl rfl rfl

theorem doDroopDetect_keeps {s0 g s} (hs : Keeps s0 s) : Keeps s0 (doDroopDetect g s) := by
  unfold doDroopDetect
  exact Keeps.ite (updGroup_keeps hs) hs

theorem doOpRequest_keeps {s0 s} (hs : Keeps s0 s) : Keeps s0 (doOpRequest s) := by
  unfold doOpRequest
  exact Keeps.ite hs (updPower_keeps hs)

theorem doVoltageRecover_keeps {s0 mv s} (hs : Keeps s0 s) : Keeps s0 (doVoltageRecover mv s) := by
  unfold doVoltageRecover
  exact Keeps.ite hs (Keeps.ite (updPower_keeps hs) (updPower_keeps hs))

theorem doDroopRecover_keeps {s0 g skipped s} (hs : Keeps s0 s) : Keeps s0 (doDroopRecover g skipped s) := by
  unfold doDroopRecover
  extract_lets -merge t1 t2
  clear_value t1 t2
  exact Keeps.ite (odPut_keeps (updGroup_keeps hs)) hs

theorem doPwrbrkDeassert_keeps {s0 s} (hs : Keeps s0 s) : Keeps s0 (doPwrbrkDeassert s) := by
  unfold doPwrbrkDeassert
  extract_lets -merge t1 t2
  clear_value t1
  have h4 : Keeps s0 t2 := Keeps.of hs rfl rfl rfl
  clear_value t2
  exact Keeps.ite hs (Keeps.ite h4 (updPower_keeps h4))

theorem doCapUpdate_keeps {s0 mw s} (hs : Keeps s0 s) : Keeps s0 (doCapUpdate mw s) := by
  unfold doCapUpdate
  extract_lets -merge t1
  clear_value t1
  exact Keeps.ite hs (odCount_keeps (updPower_keeps hs))

theorem doCeilingStep_keeps {s0 s} (hs : Keeps s0 s) : Keeps s0 (doCeilingStep s) := by
  unfold doCeilingStep
  extract_lets -merge t1 t2 t3 t4
  clear_value t1 t2
  have h7 : KeepsPair s0 t3 := freshVal_keeps hs
  clear_value t3
  have h8 : Keeps s0 t4 := Keeps.ite (odCount_keeps (KeepsPair.snd h7)) hs
  clear_value t4
  exact Keeps.ite hs (updPower_keeps h8)

theorem doOpChange_keeps {s0 s} (hs : Keeps s0 s) : Keeps s0 (doOpChange s) := by
  unfold doOpChange
  split
  · exact hs
  · exact Keeps.ite hs (Keeps.ite (updPower_keeps hs) (odCount_keeps (updPower_keeps hs)))

theorem doPwrbrkAssert_keeps {s0 s} (hs : Keeps s0 s) : Keeps s0 (doPwrbrkAssert s) := by
  unfold doPwrbrkAssert
  extract_lets -merge t1 t2
  clear_value t1
  have h4 : Keeps s0 t2 := Keeps.of hs rfl rfl rfl
  clear_value t2
  exact Keeps.ite hs (Keeps.ite h4 (odCount_keeps (updPower_keeps h4)))

theorem fatal_keeps {s0 cause tile s} (hs : Keeps s0 s) : Keeps s0 (fatal cause tile s) := by
  unfold fatal
  extract_lets -merge t1 t2 t3 t4
  clear_value t1 t2
  have h7 : Keeps s0 t3 := Keeps.of hs rfl rfl rfl
  clear_value t3
  have h8 : Keeps s0 t4 := odPut_keeps h7
  clear_value t4
  exact Keeps.ite hs (alertLevel_keeps (postMgmt_keeps h8))

theorem doUndervoltage_keeps {s0 mv s} (hs : Keeps s0 s) : Keeps s0 (doUndervoltage mv s) := by
  unfold doUndervoltage
  extract_lets -merge t1 t2
  clear_value t1
  have h4 : Keeps s0 t2 := updPower_keeps hs
  clear_value t2
  exact Keeps.ite hs (Keeps.ite h4 (postMgmt_keeps h4))

theorem thermalLimit_keeps {s0 ts s} (hs : Keeps s0 s) : Keeps s0 (thermalLimit ts s) := by
  unfold thermalLimit
  refine Keeps.ite (Keeps.ite (updPower_keeps hs) hs) ?_
  split
  · exact hs
  · exact postMgmt_keeps (updPower_keeps hs)

theorem thermalTrip_keeps {s0 ts s} (hs : Keeps s0 s) : Keeps s0 (thermalTrip ts s) := by
  unfold thermalTrip
  split
  · exact hs
  · extract_lets -merge t6 t7
    clear_value t6
    have h9 : Keeps s0 t7 := Keeps.of hs rfl rfl rfl
    clear_value t7
    exact fatal_keeps (postMgmt_keeps h9)

theorem doBrownout_keeps {s0 s} (hs : Keeps s0 s) : Keeps s0 (doBrownout s) := by
  unfold doBrownout
  exact Keeps.ite (fatal_keeps hs) hs

theorem heatStep_keeps {s0 ts s} (hs : Keeps s0 s) : Keeps s0 (heatStep ts s) := by
  unfold heatStep
  extract_lets -merge t1
  have h2 : Keeps s0 t1 := odCount_keeps hs
  clear_value t1
  exact Keeps.ite hs (thermalTrip_keeps (thermalLimit_keeps (updPower_keeps h2)))

theorem defaultV_keeps {s0 s} (hs : Keeps s0 s) : Keeps s0 (defaultV s) := by
  unfold defaultV
  exact Keeps.of hs rfl rfl rfl

theorem wipe_keeps {s0 ports s} (hs : Keeps s0 s) : Keeps s0 (wipe ports s) := by
  exact hs.trans ⟨fun _ => rfl, rfl, Nat.le_refl _⟩

theorem writeImageLength_keeps {s0 n s} (hs : Keeps s0 s) : KeepsPair s0 (writeImageLength n s) := by
  unfold writeImageLength
  extract_lets -merge t1
  clear_value t1
  exact KeepsPair.ite (KeepsPair.mk hs) (KeepsPair.ite (KeepsPair.mk hs) (KeepsPair.mk (Keeps.of hs rfl rfl rfl)))

theorem markStaged_keeps {s0 src s} (hs : Keeps s0 s) : Keeps s0 (markStaged src s) := by
  unfold markStaged
  extract_lets -merge t1
  clear_value t1
  exact Keeps.of hs rfl rfl rfl

theorem atD1_keeps {s0} {f : State → State} {s} (hf : ∀ z0, Keeps s0 z0 → Keeps s0 (f z0)) (hs : Keeps s0 s) :
    Keeps s0 (atD1 f s) := by
  unfold atD1
  exact Keeps.ite (hf _ hs) hs

theorem setD_keeps {s0 n s} (hs : Keeps s0 s) : Keeps s0 (setD n s) := by
  unfold setD
  extract_lets -merge t1
  clear_value t1
  exact Keeps.of hs rfl rfl rfl

theorem setPhase_keeps {s0 p s} (hs : Keeps s0 s) : Keeps s0 (setPhase p s) := by
  unfold setPhase
  extract_lets -merge t1
  clear_value t1
  exact Keeps.of hs rfl rfl rfl

theorem atD0_keeps {s0} {f : State → State} {s} (hf : ∀ z0, Keeps s0 z0 → Keeps s0 (f z0)) (hs : Keeps s0 s) :
    Keeps s0 (atD0 f s) := by
  unfold atD0
  exact Keeps.ite (hf _ hs) hs

theorem powerOff_keeps {s0 s} (hs : Keeps s0 s) : Keeps s0 (powerOff s) := by
  exact hs.trans ⟨fun _ => rfl, rfl, Nat.le_refl _⟩

theorem enterD3_keeps {s0 s} (hs : Keeps s0 s) : Keeps s0 (enterD3 s) := by
  unfold enterD3
  exact setD_keeps (wipe_keeps hs)

theorem doPowerRemoval_keeps {s0 s} (hs : Keeps s0 s) : Keeps s0 (doPowerRemoval s) := by
  unfold doPowerRemoval
  extract_lets -merge t1
  clear_value t1
  exact powerOff_keeps (Keeps.of hs rfl rfl rfl)

theorem toImageWait_keeps {s0 s} (hs : Keeps s0 s) : Keeps s0 (toImageWait s) := by
  unfold toImageWait
  extract_lets -merge t1 t2 t3
  clear_value t1
  have h5 : Keeps s0 t2 := setPhase_keeps hs
  clear_value t2
  have h6 : Keeps s0 t3 := Keeps.of h5 rfl rfl rfl
  clear_value t3
  exact Keeps.foldl (fun x7 x8 x9 => Keeps.ite (updPort_keeps x9) x9) h6

theorem doOvervoltage_keeps {s0 mv s} (hs : Keeps s0 s) : Keeps s0 (doOvervoltage mv s) := by
  unfold doOvervoltage
  exact Keeps.ite (powerOff_keeps hs) hs

theorem assertReady_keeps {s0 s} (hs : Keeps s0 s) : Keeps s0 (assertReady s) := by
  unfold assertReady
  extract_lets -merge t1 t2
  have h3 : Keeps s0 t1 := setPhase_keeps hs
  clear_value t1 t2
  split
  · rename_i y5 y6 y7 y8
    have h9 : Keeps s0 y7 := KeepsPair.elim y8 (freshVal_keeps (Keeps.of h3 rfl rfl rfl))
    exact odPut_keeps h9

theorem doD1Idle_keeps {s0 s} (hs : Keeps s0 s) : Keeps s0 (doD1Idle s) := by
  unfold doD1Idle
  exact Keeps.ite (setD_keeps hs) hs

theorem wakeD1_keeps {s0 s} (hs : Keeps s0 s) : Keeps s0 (wakeD1 s) := by
  unfold wakeD1
  exact Keeps.ite (setD_keeps hs) hs

theorem startFromReset_keeps {s0 s} (hs : Keeps s0 s) : Keeps s0 (startFromReset s) := by
  unfold startFromReset
  exact Keeps.ite (toImageWait_keeps hs) (setPhase_keeps hs)

theorem doPowerOn_keeps {s0 s} (hs : Keeps s0 s) : Keeps s0 (doPowerOn s) := by
  unfold doPowerOn
  extract_lets -merge t1 t2 t3
  have h4 : Keeps s0 t1 := powerOff_keeps hs
  clear_value t1 t2
  have h6 : Keeps s0 t3 := Keeps.of h4 rfl rfl rfl
  clear_value t3
  exact Keeps.ite hs (Keeps.ite (toImageWait_keeps h6) (setPhase_keeps h6))

theorem beginReset_keeps {s0 ports kind s} (hs : Keeps s0 s) : Keeps s0 (beginReset ports kind s) := by
  unfold beginReset
  extract_lets -merge t1
  have h2 : Keeps s0 t1 := odPut_keeps (wipe_keeps hs)
  clear_value t1
  exact alertLevel_keeps (Keeps.ite h2 (odCount_keeps h2))

theorem zeroAllCores_keeps {s0 s} (hs : Keeps s0 s) : Keeps s0 (zeroAllCores s) := by
  unfold zeroAllCores
  exact Keeps.foldl (fun x1 x2 x3 => zeroCore_keeps x3) (scrub_keeps hs)

theorem doResetRelease_keeps {s0 s} (hs : Keeps s0 s) : Keeps s0 (doResetRelease s) := by
  unfold doResetRelease
  split
  · exact hs
  · have h : Keeps s0 { s with pins := { s.pins with modRstN := true } } := Keeps.of hs rfl rfl rfl
    exact Keeps.ite (startFromReset_keeps h) h

theorem moduleReset_keeps {s0 s} (hs : Keeps s0 s) : Keeps s0 (moduleReset s) := by
  unfold moduleReset
  exact Keeps.ite hs (toImageWait_keeps (beginReset_keeps hs))

theorem stage_keeps {s0 src o b s} (hs : Keeps s0 s) : Keeps s0 (stage src o b s) := by
  unfold stage
  exact markStaged_keeps (storeBytes_keeps hs)

theorem doResetAssert_keeps {s0 s} (hs : Keeps s0 s) : Keeps s0 (doResetAssert s) := by
  unfold doResetAssert
  split
  · exact hs
  · have h : Keeps s0 { s with pins := { s.pins with modRstN := false } } := Keeps.of hs rfl rfl rfl
    exact Keeps.ite h (setPhase_keeps (beginReset_keeps (Keeps.of h rfl rfl rfl)))

theorem loseLine_keeps {s0 s l} (hs : Keeps s0 s) : Keeps s0 (loseLine s l) := by
  unfold loseLine
  extract_lets -merge t1
  have h2 : KeepsPair s0 t1 := freshBytes_keeps hs
  clear_value t1
  exact Keeps.ite (storeBytes_keeps (KeepsPair.snd h2)) hs

theorem loseTb_keeps {s0 s} (hs : Keeps s0 s) : Keeps s0 (loseTb s) := by
  unfold loseTb
  extract_lets -merge t1
  have h2 : Keeps s0 t1 := Keeps.foldl (fun x3 x4 x5 => loseLine_keeps x5) hs
  clear_value t1
  exact Keeps.of h2 rfl rfl rfl

theorem stageWrite_keeps {s0 h o d s} (hs : Keeps s0 s) : Keeps s0 (stageWrite h o d s) := by
  unfold stageWrite
  exact Keeps.ite (countInbound_keeps (stage_keeps hs)) (portCount_keeps hs)

theorem enterD2_keeps {s0 s} (hs : Keeps s0 s) : Keeps s0 (enterD2 s) := by
  unfold enterD2
  extract_lets -merge t1 t2 t3
  have h4 : Keeps s0 t1 := defaultV_keeps (zeroAllCores_keeps (tbDrop_keeps hs))
  clear_value t1
  have h5 : Keeps s0 t2 := setD_keeps h4
  clear_value t2 t3
  exact Keeps.of h5 rfl rfl rfl

theorem refuseImage_keeps {s0 src cause s} (hs : Keeps s0 s) : Keeps s0 (refuseImage src cause s) := by
  unfold refuseImage
  extract_lets -merge t1 t2 t3
  have h4 : Keeps s0 t1 := scrub_keeps hs
  clear_value t1 t2
  have h6 : Keeps s0 t3 := Keeps.of h4 rfl rfl rfl
  clear_value t3
  exact postMgmt_keeps (odPut_keeps h6)

theorem becomeReady_keeps {s0 s} (hs : Keeps s0 s) : Keeps s0 (becomeReady s) := by
  unfold becomeReady
  extract_lets -merge t1
  have h2 : Keeps s0 t1 := assertReady_keeps (Keeps.of hs rfl rfl rfl)
  clear_value t1
  exact postMgmt_keeps h2

theorem doThermal_keeps {s0 ts s} (hs : Keeps s0 s) : Keeps s0 (doThermal ts s) := by
  unfold doThermal
  extract_lets -merge t1
  have h2 : Keeps s0 t1 := heatStep_keeps hs
  clear_value t1
  exact Keeps.ite (toImageWait_keeps h2) h2

theorem runImage_keeps {s0 b s} (hs : Keeps s0 s) : Keeps s0 (runImage b s) := by
  unfold runImage
  extract_lets sec s1 st s2 s3
  have h1 : Keeps s0 s1 := Keeps.ite (odPut_keeps hs) hs
  clear_value s1
  have h2 : Keeps s0 s2 := h1.trans ⟨fun k => foldMem_wf (fun m x h => memWrite_wf _ _ _ (memZero_wf _ _ _ h)) k, rfl, Nat.le_refl _⟩
  clear_value s2
  have h3 : Keeps s0 s3 := updPower_keeps h2
  clear_value s3
  exact digestChanged_keeps (becomeReady_keeps h3)

theorem writeBoot_keeps {s0 src s} (hs : Keeps s0 s) : KeepsPair s0 (writeBoot src s) := by
  unfold writeBoot
  extract_lets -merge t1
  clear_value t1
  refine KeepsPair.ite (KeepsPair.mk hs) ?_
  refine KeepsPair.ite (KeepsPair.mk hs) ?_
  refine KeepsPair.ite (KeepsPair.mk (refuseImage_keeps hs)) ?_
  split
  · exact KeepsPair.mk (refuseImage_keeps hs)
  · exact KeepsPair.mk (runImage_keeps (odPut_keeps hs))

theorem warmClear_keeps {s0 s} (hs : Keeps s0 s) : Keeps s0 (warmClear s) := by
  unfold warmClear
  extract_lets -merge t1 t2 t3 t4
  have h5 : Keeps s0 t1 := Keeps.foldl (fun x6 x7 x8 => dropKernels_keeps x8) hs
  clear_value t1
  have h9 : Keeps s0 t2 := zeroAllCores_keeps (Keeps.of h5 rfl rfl rfl)
  clear_value t2
  have h10 : Keeps s0 t3 := Keeps.of h9 rfl rfl rfl
  clear_value t3
  have h11 : Keeps s0 t4 := loseTb_keeps h10
  clear_value t4
  exact Keeps.foldl (fun x12 x13 x14 => Keeps.foldl (fun x15 x16 x17 => Keeps.foldl (fun x18 x19 x20 => scrub_keeps x20) x17) x14) h11

theorem warmReset_keeps {s0 s} (hs : Keeps s0 s) : Keeps s0 (warmReset s) := by
  unfold warmReset
  extract_lets -merge t1 t2 t3 t4
  have h5 : Keeps s0 t1 := defaultV_keeps (warmClear_keeps hs)
  clear_value t1
  have h6 : Keeps s0 t2 := odCount_keeps (odPut_keeps h5)
  clear_value t2 t3 t4
  exact Keeps.ite hs (Keeps.ite (moduleReset_keeps hs) (pumpAll_keeps (becomeReady_keeps (Keeps.of h6 rfl rfl rfl))))

theorem leaveD2_keeps {s0 s} (hs : Keeps s0 s) : Keeps s0 (leaveD2 s) := by
  unfold leaveD2
  exact Keeps.ite (pumpAll_keeps (assertReady_keeps (setD_keeps hs))) hs

theorem wakeDoorbell_keeps {s0 s} (hs : Keeps s0 s) : Keeps s0 (wakeDoorbell s) := by
  unfold wakeDoorbell
  exact leaveD2_keeps (wakeD1_keeps hs)

theorem writePowerState_keeps {s0 v s} (hs : Keeps s0 s) : KeepsPair s0 (writePowerState v s) := by
  unfold writePowerState
  extract_lets -merge t1 t2
  clear_value t1
  have h4 : Keeps s0 t2 := leaveD2_keeps (wakeD1_keeps hs)
  clear_value t2
  exact KeepsPair.ite (KeepsPair.mk hs) (KeepsPair.ite (KeepsPair.mk hs) (KeepsPair.ite (KeepsPair.ite (KeepsPair.mk (toImageWait_keeps (beginReset_keeps hs))) (KeepsPair.mk hs)) (KeepsPair.ite (KeepsPair.mk hs) (KeepsPair.ite (KeepsPair.mk (leaveD2_keeps (wakeD1_keeps hs))) (KeepsPair.ite (KeepsPair.mk (postMgmt_keeps hs)) (KeepsPair.mk (Keeps.ite (setD_keeps h4) (Keeps.ite (enterD2_keeps h4) (enterD3_keeps h4)))))))))

theorem writeReset_keeps {s0 v s} (hs : Keeps s0 s) : KeepsPair s0 (writeReset v s) := by
  unfold writeReset
  exact KeepsPair.ite (KeepsPair.mk (moduleReset_keeps hs)) (KeepsPair.ite (KeepsPair.mk (warmReset_keeps hs)) (KeepsPair.mk hs))

theorem dropWaits_keeps {s0 c s} (hs : Keeps s0 s) : Keeps s0 (dropWaits c s) := by
  unfold dropWaits
  exact Keeps.of hs rfl rfl rfl

theorem doRowRepair_keeps {s0 stack s} (hs : Keeps s0 s) : Keeps s0 (doRowRepair stack s) := by
  unfold doRowRepair
  extract_lets -merge t1
  clear_value t1
  exact Keeps.ite (Keeps.of hs rfl rfl rfl) hs

theorem silenceSends_keeps {s0 c s} (hs : Keeps s0 s) : Keeps s0 (silenceSends c s) := by
  unfold silenceSends
  exact Keeps.of hs rfl rfl rfl

theorem copyStore_keeps {s0 c s} (hs : Keeps s0 s) : Keeps s0 (copyStore c s) := by
  unfold copyStore
  exact copyMem_keeps hs

theorem restoreCommit_keeps {s0 c p k s} (hs : Keeps s0 s) : Keeps s0 (restoreCommit c p k s) := by
  unfold restoreCommit
  extract_lets -merge t1 t2 t3
  clear_value t1 t2
  have h6 : Keeps s0 t3 := Keeps.ite (updCore_keeps hs) (restoreContext_keeps (updCore_keeps hs))
  clear_value t3
  exact loadSpools_keeps h6

theorem remapCore_keeps {s0 c s} (hs : Keeps s0 s) : Keeps s0 (remapCore c s) := by
  unfold remapCore
  extract_lets -merge t1 t2
  have h3 : Keeps s0 t1 := odCount_keeps (dropWaits_keeps (silenceSends_keeps (updGroup_keeps (copyStore_keeps hs))))
  clear_value t1
  have h4 : KeepsPair s0 t2 := freshVal_keeps h3
  clear_value t2
  split
  · exact updCore_keeps h3
  · exact Keeps.ite (updCore_keeps h3) (odCount_keeps (restoreCommit_keeps (updCore_keeps (KeepsPair.snd h4))))

theorem doAdoption_keeps {s0 t s} (hs : Keeps s0 s) : Keeps s0 (doAdoption t s) := by
  unfold doAdoption
  extract_lets -merge t1 t2 t3
  clear_value t1
  have h5 : Keeps s0 t2 := Keeps.of hs rfl rfl rfl
  clear_value t2 t3
  refine Keeps.ite hs ?_
  split
  · exact fatal_keeps h5
  · exact odCount_keeps (Keeps.of h5 rfl rfl rfl)

theorem doHeartbeat_keeps {s0 c answered s} (hs : Keeps s0 s) : Keeps s0 (doHeartbeat c answered s) := by
  unfold doHeartbeat
  extract_lets -merge t1
  have h2 : Keeps s0 t1 := updCore_keeps hs
  clear_value t1
  exact Keeps.ite hs (Keeps.ite (updCore_keeps hs) (Keeps.ite (coreFail_keeps h2) h2))

theorem remapLate_keeps {s0 c s} (hs : Keeps s0 s) : Keeps s0 (remapLate c s) := by
  unfold remapLate
  exact coreFail_keeps (updCore_keeps hs)

theorem poisonWords_keeps {s0 c bad s} (hs : Keeps s0 s) : Keeps s0 (poisonWords c bad s) := by
  unfold poisonWords
  extract_lets -merge t1
  have h2 : Keeps s0 t1 := Keeps.of hs rfl rfl rfl
  clear_value t1
  exact reach_keeps h2

theorem doPatrol_keeps {s0 stack corrected bad queued s} (hs : Keeps s0 s) :
    Keeps s0 (doPatrol stack corrected bad queued s) := by
  unfold doPatrol
  extract_lets -merge t1 t2 t3
  have h4 : Keeps s0 t1 := odCount_keeps hs
  clear_value t1 t2
  have h6 : Keeps s0 t3 := Keeps.ite (Keeps.of h4 rfl rfl rfl) h4
  clear_value t3
  exact Keeps.ite hs (Keeps.foldl (fun x7 x8 x9 => doReadFailure_keeps x9) h6)

theorem takeSpare_keeps {s0 c s} (hs : Keeps s0 s) : Keeps s0 (takeSpare c s) := by
  unfold takeSpare
  exact Keeps.ite (pumpAll_keeps (remapCore_keeps hs)) (remapLate_keeps hs)

theorem doCoreRemap_keeps {s0 c bad s} (hs : Keeps s0 s) : Keeps s0 (doCoreRemap c bad s) := by
  unfold doCoreRemap
  extract_lets -merge t1
  clear_value t1
  exact Keeps.ite (Keeps.ite (poisonWords_keeps (takeSpare_keeps hs)) (takeSpare_keeps hs)) hs

theorem writeRemapGo_keeps {s0 p c s} (hs : Keeps s0 s) : KeepsPair s0 (writeRemapGo p c s) := by
  unfold writeRemapGo
  exact KeepsPair.ite (KeepsPair.mk (takeSpare_keeps hs)) (KeepsPair.mk hs)

theorem corBytes_keeps {s0 s reader index sub} (hs : Keeps s0 s) : KeepsPair s0 (corBytes s reader index sub) := by
  unfold corBytes
  split
  · extract_lets -merge t5 t6
    clear_value t5 t6
    exact KeepsPair.mk (Keeps.of hs rfl rfl rfl)

theorem panelEntryBytes_keeps {s0 s p page sub} (hs : Keeps s0 s) : KeepsPair s0 (panelEntryBytes s p page sub) := by
  unfold panelEntryBytes
  extract_lets -merge t1
  clear_value t1
  split
  · exact KeepsPair.mk hs
  · exact KeepsPair.mk hs
  · exact KeepsPair.mk hs
  · exact KeepsPair.mk hs
  · exact freshBytes_keeps hs
  · exact KeepsPair.mk hs
  · exact KeepsPair.mk hs

theorem readEnergy_keeps {s0 s} (hs : Keeps s0 s) : KeepsPair s0 (readEnergy s) := by
  unfold readEnergy
  split
  · rename_i y1 y2 y3 y4
    have h5 : Keeps s0 y3 := KeepsPair.elim y4 (freshVal_keeps hs)
    extract_lets -merge t6
    have h7 : Keeps s0 t6 := updPower_keeps h5
    clear_value t6
    exact KeepsPair.mk h7

theorem entryBytes_keeps {s0 s reader index sub} (hs : Keeps s0 s) : KeepsPair s0 (entryBytes s reader index sub) := by
  unfold entryBytes
  refine KeepsPair.ite (panelEntryBytes_keeps hs) ?_
  split
  · exact KeepsPair.mk hs
  · exact KeepsPair.mk hs
  · exact KeepsPair.mk hs
  · exact KeepsPair.mk hs
  · exact KeepsPair.mk hs
  · exact KeepsPair.mk hs
  · exact KeepsPair.mk hs
  · exact KeepsPair.mk hs
  · exact KeepsPair.mk hs
  · exact KeepsPair.mk hs
  · exact KeepsPair.mk hs
  · exact KeepsPair.mk hs
  · exact KeepsPair.mk hs
  · exact KeepsPair.mk hs
  · exact KeepsPair.mk hs
  · exact KeepsPair.mk hs
  · exact freshBytes_keeps hs
  · exact freshBytes_keeps hs
  · exact readEnergy_keeps hs
  · exact KeepsPair.mk hs
  · exact KeepsPair.mk hs
  · exact KeepsPair.mk hs
  · exact KeepsPair.mk hs
  · exact KeepsPair.mk hs
  · exact KeepsPair.mk hs
  · exact KeepsPair.mk hs
  · exact KeepsPair.mk hs
  · exact KeepsPair.ite (KeepsPair.mk hs) (KeepsPair.mk hs)
  · exact KeepsPair.ite (KeepsPair.mk hs) (KeepsPair.mk hs)
  · exact KeepsPair.ite (KeepsPair.mk hs) (KeepsPair.mk hs)
  · exact KeepsPair.mk hs
  · exact KeepsPair.mk hs
  · exact KeepsPair.ite (KeepsPair.mk hs) (KeepsPair.mk hs)
  · exact KeepsPair.mk hs
  · exact KeepsPair.mk hs
  · exact KeepsPair.ite (KeepsPair.mk hs) (portStateBytes_keeps hs)
  · exact KeepsPair.mk hs
  · exact KeepsPair.mk hs
  · exact KeepsPair.mk hs
  · split
    · exact KeepsPair.mk hs
    · exact KeepsPair.mk hs

theorem readEntry_keeps {s0 s reader index sub} (hs : Keeps s0 s) : KeepsPair s0 (readEntry s reader index sub) := by
  unfold readEntry
  split
  · exact KeepsPair.ite (corBytes_keeps hs) (entryBytes_keeps hs)
  · exact entryBytes_keeps hs

theorem writeFabric_keeps {s0 v s} (hs : Keeps s0 s) : KeepsPair s0 (writeFabric v s) := by
  unfold writeFabric
  exact KeepsPair.ite (KeepsPair.mk hs) (KeepsPair.mk (digestChanged_keeps (odPut_keeps hs)))

theorem ashlinkWritten_keeps {s0 sub v s} (hs : Keeps s0 s) : Keeps s0 (ashlinkWritten sub v s) := by
  unfold ashlinkWritten
  extract_lets -merge t1 t2
  have h3 : Keeps s0 t1 := odPut_keeps hs
  clear_value t1
  have h4 : Keeps s0 t2 := Keeps.ite (digestChanged_keeps h3) h3
  clear_value t2
  exact Keeps.ite (retrainAll_keeps (dropDisabled_keeps h4)) h4

theorem writeAshlink_keeps {s0 sub v s} (hs : Keeps s0 s) : KeepsPair s0 (writeAshlink sub v s) := by
  unfold writeAshlink
  exact KeepsPair.ite (KeepsPair.mk hs) (KeepsPair.ite (KeepsPair.mk hs) (KeepsPair.mk (ashlinkWritten_keeps hs)))

theorem writePanelBlock_keeps {s0 p page sub v data s} (hs : Keeps s0 s) :
    KeepsPair s0 (writePanelBlock p page sub v data s) := by
  unfold writePanelBlock
  split
  · exact KeepsPair.ite (writeOpen_keeps hs) (writeRelease_keeps hs)
  · exact KeepsPair.ite (KeepsPair.mk hs) (KeepsPair.mk (odPut_keeps hs))
  · exact writeKeyEstablish_keeps hs
  · exact writeKeyInstall_keeps hs
  · exact writeJoin_keeps hs

theorem writePerPanel_keeps {s0 p index sub v data s} (hs : Keeps s0 s) :
    KeepsPair s0 (writePerPanel p index sub v data s) := by
  unfold writePerPanel
  split
  · exact writePanelReset_keeps hs
  · exact writeRemapGo_keeps hs
  · exact writeDirectWays_keeps hs
  · extract_lets -merge t5
    have h6 : KeepsPair s0 t5 := freshVal_keeps hs
    clear_value t5
    exact writeRestoreDone_keeps (KeepsPair.snd h6)
  · exact KeepsPair.mk (odPut_keeps (odPut_keeps hs))
  · exact KeepsPair.mk (odPut_keeps (odPut_keeps hs))
  · exact KeepsPair.mk (resumeFault_keeps hs)
  · exact KeepsPair.mk (abortFault_keeps hs)
  · exact writeWaitAbort_keeps hs
  · exact writeGrants_keeps hs
  · exact writeCtxRestored_keeps hs
  · exact KeepsPair.mk (doSchedAbort_keeps hs)
  · exact KeepsPair.mk (doSchedDecide_keeps hs)
  · exact KeepsPair.ite (KeepsPair.mk (odPut_keeps hs)) (KeepsPair.mk hs)
  · exact KeepsPair.ite (KeepsPair.mk (odPut_keeps hs)) (KeepsPair.mk hs)
  · exact KeepsPair.ite (KeepsPair.mk (odPut_keeps hs)) (KeepsPair.mk hs)
  · exact KeepsPair.ite (KeepsPair.mk (odPut_keeps hs)) (KeepsPair.mk hs)
  · exact KeepsPair.mk (odPut_keeps hs)

theorem writeStartup_keeps {s0 reader sub v data s} (hs : Keeps s0 s) :
    KeepsPair s0 (writeStartup reader sub v data s) := by
  unfold writeStartup
  split
  · exact writeImageLength_keeps hs
  · exact writeBoot_keeps hs
  · exact KeepsPair.mk (stage_keeps hs)
  · exact writeReset_keeps hs
  · exact writePowerState_keeps hs
  · exact KeepsPair.mk (odPut_keeps hs)

theorem writeEffect_keeps {s0 path index sub v data s} (hs : Keeps s0 s) :
    KeepsPair s0 (writeEffect path index sub v data s) := by
  unfold writeEffect
  split
  · exact KeepsPair.ite (writeFabric_keeps hs) (KeepsPair.mk (odPut_keeps hs))
  · exact writeStartup_keeps hs
  · exact KeepsPair.ite (writeRootMode_keeps hs) (KeepsPair.ite (writeRootMode_keeps hs) (KeepsPair.ite (writeRebuild_keeps hs) (KeepsPair.ite (KeepsPair.mk (digestChanged_keeps (odPut_keeps hs))) (KeepsPair.mk (odPut_keeps hs)))))
  · refine KeepsPair.ite (writeSeamConfig_keeps hs) ?_
    split
    · exact writeArm_keeps hs
    · exact KeepsPair.mk hs
  · exact writeNonce_keeps hs
  · exact writeAshlink_keeps hs
  · exact KeepsPair.mk (dropDisabled_keeps (odPut_keeps hs))
  · exact KeepsPair.mk (odPut_keeps hs)

theorem applyWrite_keeps {s0 path index sub data s} (hs : Keeps s0 s) :
    KeepsPair s0 (applyWrite path index sub data s) := by
  unfold applyWrite
  split
  · exact KeepsPair.mk hs
  · extract_lets -merge t6
    clear_value t6
    refine KeepsPair.ite (KeepsPair.mk hs) ?_
    refine KeepsPair.ite (KeepsPair.mk hs) ?_
    refine KeepsPair.ite (writePanelBlock_keeps hs) ?_
    split
    · exact writePerPanel_keeps hs
    · exact writeEffect_keeps hs

theorem updPath_keeps {s0 n} {f : OdPath → OdPath} {s} (hs : Keeps s0 s) : Keeps s0 (updPath n f s) := by
  unfold updPath
  exact Keeps.of hs rfl rfl rfl

theorem endSeg_keeps {s0 path code s} (hs : Keeps s0 s) : Keeps s0 (endSeg path code s) := by
  unfold endSeg
  exact updPath_keeps hs

theorem doSegTimeout_keeps {s0 path s} (hs : Keeps s0 s) : Keeps s0 (doSegTimeout path s) := by
  unfold doSegTimeout
  exact endSeg_keeps hs

theorem doOdAbort_keeps {s0 r s} (hs : Keeps s0 s) : Keeps s0 (doOdAbort r s) := by
  unfold doOdAbort
  extract_lets -merge t1
  have h2 : Keeps s0 t1 := Keeps.ite (odCount_keeps hs) hs
  clear_value t1
  exact Keeps.ite hs (updPath_keeps h2)

theorem sendAnswer_keeps {s0 path a s} (hs : Keeps s0 s) : Keeps s0 (sendAnswer path a s) := by
  unfold sendAnswer
  exact Keeps.ite (mgmtSend_keeps hs) (updPath_keeps hs)

theorem answer_keeps {s0 r m op code param data s} (hs : Keeps s0 s) : Keeps s0 (answer r m op code param data s) := by
  unfold answer
  extract_lets -merge t1 t2
  clear_value t1
  have h4 : Keeps s0 t2 := Keeps.ite hs (odCount_keeps hs)
  clear_value t2
  exact sendAnswer_keeps (updPath_keeps h4)

theorem onPath_keeps {s0 r m} {f : State → State} {s} (hf : ∀ z0, Keeps s0 z0 → Keeps s0 (f z0)) (hs : Keeps s0 s) :
    Keeps s0 (onPath r m f s) := by
  unfold onPath
  extract_lets -merge t1
  have h2 : Keeps s0 t1 := Keeps.ite (odCount_keeps hs) hs
  clear_value t1
  refine Keeps.ite hs ?_
  split
  · exact Keeps.ite (sendAnswer_keeps h2) (hf _ h2)
  · exact hf _ h2

theorem doEventRetry_keeps {s0 s} (hs : Keeps s0 s) : Keeps s0 (doEventRetry s) := by
  unfold doEventRetry
  refine Keeps.ite hs ?_
  split
  · exact sendEventFrame_keeps hs
  · exact hs

theorem doBeacon_keeps {s0 up s} (hs : Keeps s0 s) : Keeps s0 (doBeacon up s) := by
  unfold doBeacon
  extract_lets -merge t1 t2 t3 t4
  clear_value t1
  have h6 : Keeps s0 t2 := Keeps.of hs rfl rfl rfl
  clear_value t2
  have h7 : Keeps s0 t3 := sendHeld_keeps h6
  clear_value t3 t4
  exact Keeps.ite h6 (alertLevel_keeps (flushMgmt_keeps (Keeps.of h7 rfl rfl rfl)))

theorem doEventAck_keeps {s0 seq s} (hs : Keeps s0 s) : Keeps s0 (doEventAck seq s) := by
  unfold doEventAck
  extract_lets -merge t1 t2
  clear_value t1
  have h4 : Keeps s0 t2 := odCount_keeps (Keeps.of hs rfl rfl rfl)
  clear_value t2
  exact Keeps.ite hs (alertLevel_keeps (flushMgmt_keeps h4))

theorem doAssign_keeps {s0 mac node txn s} (hs : Keeps s0 s) : Keeps s0 (doAssign mac node txn s) := by
  unfold doAssign
  extract_lets -merge t1 t2 t3 t4 t5
  clear_value t1 t2
  have h8 : Keeps s0 t3 := odCount_keeps (odPut_keeps (Keeps.of hs rfl rfl rfl))
  clear_value t3
  have h9 : Keeps s0 t4 := mgmtSend_keeps h8
  clear_value t4 t5
  exact Keeps.ite hs (alertLevel_keeps (flushMgmt_keeps (Keeps.of h9 rfl rfl rfl)))

theorem doSegReq_keeps {s0 r m s} (hs : Keeps s0 s) : Keeps s0 (doSegReq r m s) := by
  unfold doSegReq
  refine onPath_keeps ?_ hs
  intro x1 x2
  split
  · exact answer_keeps x2
  · exact Keeps.ite (answer_keeps x2) (answer_keeps x2)

theorem doSegRead_keeps {s0 r m s} (hs : Keeps s0 s) : Keeps s0 (doSegRead r m s) := by
  unfold doSegRead
  refine onPath_keeps ?_ hs
  intro x1 x2
  extract_lets -merge t3
  have h4 : Keeps s0 t3 := endSeg_keeps x2
  clear_value t3
  split
  · split
    · rename_i y7 y8 y9 y10
      have h11 : Keeps s0 y9 := KeepsPair.elim y10 (readEntry_keeps h4)
      extract_lets -merge t12
      clear_value t12
      exact answer_keeps (updPath_keeps h11)
  · exact answer_keeps h4

theorem doOdRead_keeps {s0 r m s} (hs : Keeps s0 s) : Keeps s0 (doOdRead r m s) := by
  unfold doOdRead
  refine onPath_keeps ?_ hs
  intro x1 x2
  split
  · split
    · rename_i y5 y6 y7 y8
      have h9 : Keeps s0 y7 := KeepsPair.elim y8 (readEntry_keeps x2)
      exact Keeps.ite (answer_keeps x2) (answer_keeps h9)
  · exact answer_keeps x2

theorem doCorRead_keeps {s0 r index sub s} (hs : Keeps s0 s) : Keeps s0 (doCorRead r index sub s) := by
  unfold doCorRead
  exact Keeps.ite (doOdRead_keeps hs) (doSegRead_keeps hs)

theorem wrongTotal_keeps {s0 index sub s} (hs : Keeps s0 s) : Keeps s0 (wrongTotal index sub s) := by
  unfold wrongTotal
  extract_lets -merge t1
  clear_value t1
  exact Keeps.ite (KeepsPair.snd (keyRefuse_keeps hs)) hs

theorem doSegWrite_keeps {s0 r m s} (hs : Keeps s0 s) : Keeps s0 (doSegWrite r m s) := by
  unfold doSegWrite
  refine onPath_keeps ?_ hs
  intro x1 x2
  extract_lets -merge t3 t4
  have h5 : Keeps s0 t3 := wakeD1_keeps (endSeg_keeps x2)
  clear_value t3 t4
  split
  · exact Keeps.ite (answer_keeps (wrongTotal_keeps h5)) (answer_keeps (updPath_keeps h5))
  · exact answer_keeps h5

theorem leaveFabric_keeps {s0 s} (hs : Keeps s0 s) : Keeps s0 (leaveFabric s) := by
  unfold leaveFabric
  extract_lets -merge t1 t2
  have h3 : Keeps s0 t1 := digestChanged_keeps (odPut_keeps hs)
  clear_value t1 t2
  exact odPut_keeps (Keeps.of h3 rfl rfl rfl)

theorem doLeave_keeps {s0 r s} (hs : Keeps s0 s) : Keeps s0 (doLeave r s) := by
  unfold doLeave
  extract_lets -merge t1
  clear_value t1
  exact onPath_keeps (fun x3 x4 => Keeps.ite (answer_keeps x4) (Keeps.ite (answer_keeps x4) (leaveFabric_keeps (answer_keeps x4)))) hs

theorem tryWrite_keeps {s0 r index sub data s} (hs : Keeps s0 s) : KeepsPair s0 (tryWrite r index sub data s) := by
  unfold tryWrite
  extract_lets -merge t1
  have h2 : Keeps s0 t1 := wakeD1_keeps hs
  clear_value t1
  split
  · exact applyWrite_keeps h2
  · exact KeepsPair.mk h2

theorem doOdWrite_keeps {s0 r m s} (hs : Keeps s0 s) : Keeps s0 (doOdWrite r m s) := by
  unfold doOdWrite
  refine onPath_keeps ?_ hs
  intro x1 x2
  split
  · rename_i y3 y4 y5 y6
    have h7 : Keeps s0 y5 := KeepsPair.elim y6 (tryWrite_keeps x2)
    exact answer_keeps h7

theorem doSegment_keeps {s0 r m s} (hs : Keeps s0 s) : Keeps s0 (doSegment r m s) := by
  unfold doSegment
  refine onPath_keeps ?_ hs
  intro x1 x2
  split
  · exact answer_keeps x2
  · extract_lets -merge t8 t9
    have h10 : ∀ z0, Keeps s0 z0 → Keeps s0 (t8 z0) := by
      unfold t8
      exact fun x11 x12 => updPath_keeps x12
    clear_value t8 t9
    refine Keeps.ite (answer_keeps (h10 _ x2)) ?_
    refine Keeps.ite (answer_keeps (h10 _ x2)) ?_
    refine Keeps.ite (answer_keeps (updPath_keeps x2)) ?_
    split
    · rename_i y14 y15 y16 y17
      have h18 : Keeps s0 y16 := KeepsPair.elim y17 (tryWrite_keeps (h10 _ x2))
      exact answer_keeps h18

theorem doOdWhole_keeps {s0 r index sub data s} (hs : Keeps s0 s) : Keeps s0 (doOdWhole r index sub data s) := by
  unfold doOdWhole
  exact doOdWrite_keeps (endSeg_keeps hs)

theorem submit_keeps {s0 r m s} (hs : Keeps s0 s) : Keeps s0 (submit r m s) := by
  unfold submit
  split
  · exact doOdRead_keeps hs
  · exact doOdWrite_keeps hs
  · exact doSegRead_keeps hs
  · exact doSegWrite_keeps hs
  · exact doSegment_keeps hs
  · exact doSegReq_keeps hs
  · exact doOdAbort_keeps hs
  · exact onPath_keeps (fun x23 x24 => answer_keeps x24) hs

theorem doOdPut_keeps {s0 r index sub data s} (hs : Keeps s0 s) : Keeps s0 (doOdPut r index sub data s) := by
  unfold doOdPut
  exact doOdWrite_keeps hs

theorem mailboxSubmit_keeps {s0 h seq s} (hs : Keeps s0 s) : Keeps s0 (mailboxSubmit h seq s) := by
  unfold mailboxSubmit
  extract_lets -merge t1 t2 t3 t4
  have h5 : Keeps s0 t1 := updPath_keeps hs
  clear_value t1 t2 t3 t4
  exact Keeps.ite (onPath_keeps (fun x9 x10 => answer_keeps x10) h5) (Keeps.ite (onPath_keeps (fun x11 x12 => answer_keeps x12) h5) (Keeps.ite (onPath_keeps (fun x13 x14 => answer_keeps x14) h5) (submit_keeps h5)))

theorem mailboxWrite_keeps {s0 h o d s} (hs : Keeps s0 s) : Keeps s0 (mailboxWrite h o d s) := by
  unfold mailboxWrite
  extract_lets -merge t1
  have h2 : Keeps s0 t1 := Keeps.ite (updPath_keeps hs) hs
  clear_value t1
  exact Keeps.ite (mailboxSubmit_keeps h2) h2

theorem fieldWrites_keeps {s0 fields o d} {f : Nat → Nat → State → State} {s}
    (hf : ∀ z0 z1 z2, Keeps s0 z2 → Keeps s0 (f z0 z1 z2))
    (hs : Keeps s0 s) :
    Keeps s0 (fieldWrites fields o d f s) := by
  unfold fieldWrites
  exact Keeps.foldl (fun x1 x2 x3 => Keeps.ite (hf _ _ _ x3) x3) hs

theorem inboundWrite_keeps {s0 h o d s} (hs : Keeps s0 s) : Keeps s0 (inboundWrite h o d s) := by
  unfold inboundWrite
  exact Keeps.ite (stageWrite_keeps hs) (Keeps.ite (portCount_keeps hs) (bar2Write_keeps (wakeD1_keeps hs)))

theorem ringField_keeps {s0 h r o v s} (hs : Keeps s0 s) : Keeps s0 (ringField h r o v s) := by
  unfold ringField
  extract_lets -merge t1
  refine Keeps.ite hs ?_
  split
  · exact Keeps.ite (updRing_keeps hs) hs
  · exact Keeps.ite (updRing_keeps hs) hs
  · exact Keeps.ite (doRingEnable_keeps hs) (Keeps.ite (doRingDisable_keeps hs) hs)
  · exact doDoorbell_keeps (wakeDoorbell_keeps hs)
  · exact Keeps.ite (updRing_keeps hs) hs
  · exact Keeps.ite (updRing_keeps hs) hs
  · exact doComplConsumer_keeps hs
  · exact updRing_keeps hs
  · exact hs

theorem bar0Write_keeps {s0 h o d s} (hs : Keeps s0 s) : Keeps s0 (bar0Write h o d s) := by
  unfold bar0Write
  extract_lets -merge t1 t2
  clear_value t1 t2
  refine Keeps.ite hs ?_
  refine Keeps.ite (fieldWrites_keeps (fun x5 x6 x7 x8 => slotField_keeps x8) hs) ?_
  refine Keeps.ite (fieldWrites_keeps (fun x9 x10 x11 x12 => ringField_keeps x12) hs) ?_
  refine Keeps.ite (mailboxWrite_keeps hs) ?_
  refine Keeps.ite hs ?_
  split
  · exact ctlWrite_keeps hs
  · exact hs

theorem deliverHost_keeps {s0 h s e} (hs : Keeps s0 s) : Keeps s0 (deliverHost h s e) := by
  unfold deliverHost
  exact Keeps.ite (bar0Write_keeps hs) (inboundWrite_keeps hs)

theorem hostWrite_keeps {s0 h bar0 o d s} (hs : Keeps s0 s) : Keeps s0 (hostWrite h bar0 o d s) := by
  unfold hostWrite
  split
  · exact deliverHost_keeps hs
  · exact updPort_keeps hs
  · exact Keeps.ite (doAttach_keeps hs) (deliverHost_keeps hs)
  · exact hs
  · exact hs

theorem doPortRetrained_keeps {s0 h s} (hs : Keeps s0 s) : Keeps s0 (doPortRetrained h s) := by
  unfold doPortRetrained
  extract_lets -merge t1
  clear_value t1
  exact Keeps.ite hs (Keeps.foldl (fun x3 x4 x5 => deliverHost_keeps x5) (portBack_keeps hs))

end Sys2Proof.Machine
end

