-- ==== Sys2Proof/Laws/KeepsCmds.lean ====
section
/-! SUPPORT. What is kept (Laws/Keeps.lean) by the operations of the commands. -/
namespace Sys2Proof.Machine

theorem execVsoft_keeps {s0 c h f s} (hs : Keeps s0 s) : KeepsOut s0 (execVsoft c h f s) := by
  unfold execVsoft
  exact alive_keeps (fun x1 x2 => dispatchOp_keeps x2) hs

theorem execVmask_keeps {s0 c h f s} (hs : Keeps s0 s) : KeepsOut s0 (execVmask c h f s) := by
  unfold execVmask
  exact alive_keeps (fun x1 x2 => dispatchOp_keeps x2) hs

theorem execNstream_keeps {s0 c h f mismatches s} (hs : Keeps s0 s) : KeepsOut s0 (execNstream c h f mismatches s) := by
  unfold execNstream
  exact alive_keeps (fun x1 x2 => dispatchOp_keeps x2) hs

theorem execStepclose_keeps {s0 c h layer s} (hs : Keeps s0 s) : KeepsOut s0 (execStepclose c h layer s) := by
  unfold execStepclose
  exact alive_keeps (fun x1 x2 => dispatchOp_keeps x2) hs

theorem execVfma_keeps {s0 c h f s} (hs : Keeps s0 s) : KeepsOut s0 (execVfma c h f s) := by
  unfold execVfma
  exact alive_keeps (fun x1 x2 => dispatchOp_keeps x2) hs

theorem execVcvt_keeps {s0 c h f s} (hs : Keeps s0 s) : KeepsOut s0 (execVcvt c h f s) := by
  unfold execVcvt
  exact alive_keeps (fun x1 x2 => dispatchOp_keeps x2) hs

theorem execFload_keeps {s0 c h slot image s} (hs : Keeps s0 s) : KeepsOut s0 (execFload c h slot image s) := by
  unfold execFload
  exact alive_keeps (fun x1 x2 => dispatchOp_keeps x2) hs

theorem rerun_keeps {s0 c array mismatch s} (hs : Keeps s0 s) : Keeps s0 (rerun c array mismatch s) := by
  unfold rerun
  extract_lets -merge t1
  have h2 : Keeps s0 t1 := doCheckRerun_keeps hs
  clear_value t1
  split
  · exact pumpCores_keeps (pumpCore_keeps h2)
  · exact h2

theorem execVbin_keeps {s0 c h f s} (hs : Keeps s0 s) : KeepsOut s0 (execVbin c h f s) := by
  unfold execVbin
  exact alive_keeps (fun x1 x2 => dispatchOp_keeps x2) hs

theorem execDrain_keeps {s0 c h f s} (hs : Keeps s0 s) : KeepsOut s0 (execDrain c h f s) := by
  unfold execDrain
  exact alive_keeps (fun x1 x2 => dispatchOp_keeps x2) hs

theorem execPass_keeps {s0 c h f mismatch s} (hs : Keeps s0 s) : KeepsOut s0 (execPass c h f mismatch s) := by
  unfold execPass
  exact alive_keeps (fun x1 x2 => dispatchOp_keeps x2) hs

theorem execLoad_keeps {s0 c h f s} (hs : Keeps s0 s) : KeepsOut s0 (execLoad c h f s) := by
  unfold execLoad
  exact alive_keeps (fun x1 x2 => dispatchOp_keeps x2) hs

theorem execVrow_keeps {s0 c h f s} (hs : Keeps s0 s) : KeepsOut s0 (execVrow c h f s) := by
  unfold execVrow
  exact alive_keeps (fun x1 x2 => dispatchOp_keeps x2) hs

theorem execNgraft1_keeps {s0 c h f mismatches s} (hs : Keeps s0 s) : KeepsOut s0 (execNgraft1 c h f mismatches s) := by
  unfold execNgraft1
  exact alive_keeps (fun x1 x2 => dispatchOp_keeps x2) hs

theorem execNgraft2_keeps {s0 c h f mismatches s} (hs : Keeps s0 s) : KeepsOut s0 (execNgraft2 c h f mismatches s) := by
  unfold execNgraft2
  exact alive_keeps (fun x1 x2 => dispatchOp_keeps x2) hs

theorem execFderiv_keeps {s0 c h f s} (hs : Keeps s0 s) : KeepsOut s0 (execFderiv c h f s) := by
  unfold execFderiv
  exact alive_keeps (fun x1 x2 => dispatchOp_keeps x2) hs

theorem execVred_keeps {s0 c h f s} (hs : Keeps s0 s) : KeepsOut s0 (execVred c h f s) := by
  unfold execVred
  exact alive_keeps (fun x1 x2 => dispatchOp_keeps x2) hs

theorem execNhold_keeps {s0 c h f s} (hs : Keeps s0 s) : KeepsOut s0 (execNhold c h f s) := by
  unfold execNhold
  exact alive_keeps (fun x1 x2 => dispatchOp_keeps x2) hs

theorem execVopt_keeps {s0 c h alg desc s} (hs : Keeps s0 s) : KeepsOut s0 (execVopt c h alg desc s) := by
  unfold execVopt
  exact alive_keeps (fun x1 x2 => dispatchOp_keeps x2) hs

theorem execVun_keeps {s0 c h f s} (hs : Keeps s0 s) : KeepsOut s0 (execVun c h f s) := by
  unfold execVun
  exact alive_keeps (fun x1 x2 => dispatchOp_keeps x2) hs

theorem execVscan_keeps {s0 c h f s} (hs : Keeps s0 s) : KeepsOut s0 (execVscan c h f s) := by
  unfold execVscan
  exact alive_keeps (fun x1 x2 => dispatchOp_keeps x2) hs

theorem execFeval_keeps {s0 c h f s} (hs : Keeps s0 s) : KeepsOut s0 (execFeval c h f s) := by
  unfold execFeval
  exact alive_keeps (fun x1 x2 => dispatchOp_keeps x2) hs

theorem execCheckRerun_keeps {s0 c array mismatch s} (hs : Keeps s0 s) :
    KeepsOut s0 (execCheckRerun c array mismatch s) := by
  unfold execCheckRerun
  exact settle_keeps (fun x1 x2 => rerun_keeps x2) hs

theorem execOperationRetire_keeps {s0 c q s} (hs : Keeps s0 s) : KeepsOut s0 (execOperationRetire c q s) := by
  unfold execOperationRetire
  exact settle_keeps (fun x1 x2 => retireHead_keeps x2) hs

theorem doFaultTimeout_keeps {s0 p number s} (hs : Keeps s0 s) : Keeps s0 (doFaultTimeout p number s) := by
  unfold doFaultTimeout
  split
  · exact hs
  · extract_lets -merge t6
    have h7 : Keeps s0 t6 := postPanel_keeps hs
    clear_value t6
    exact abortFault_keeps h7

theorem execStream_keeps {s0 c h channel desc s} (hs : Keeps s0 s) : KeepsOut s0 (execStream c h channel desc s) := by
  unfold execStream
  exact alive_keeps (fun x1 x2 => dispatchOp_keeps x2) hs

theorem onMover_keeps {s0 c} {f : Nat → State → State} {s}
    (hf : ∀ z0 z1, Keeps s0 z1 → Keeps s0 (f z0 z1))
    (hs : Keeps s0 s) :
    Keeps s0 (onMover c f s) := by
  unfold onMover
  split
  · exact pumpCores_keeps (hf _ _ hs)
  · exact hs

theorem execMoveSwatchWrite_keeps {s0 c h desc s} (hs : Keeps s0 s) : KeepsOut s0 (execMoveSwatchWrite c h desc s) := by
  unfold execMoveSwatchWrite
  exact alive_keeps (fun x1 x2 => dispatchOp_keeps x2) hs

theorem execMoveCopy_keeps {s0 c h desc s} (hs : Keeps s0 s) : KeepsOut s0 (execMoveCopy c h desc s) := by
  unfold execMoveCopy
  exact alive_keeps (fun x1 x2 => dispatchOp_keeps x2) hs

theorem execMoveTable_keeps {s0 c h desc s} (hs : Keeps s0 s) : KeepsOut s0 (execMoveTable c h desc s) := by
  unfold execMoveTable
  exact alive_keeps (fun x1 x2 => dispatchOp_keeps x2) hs

theorem execMoveSend_keeps {s0 c h desc s} (hs : Keeps s0 s) : KeepsOut s0 (execMoveSend c h desc s) := by
  unfold execMoveSend
  exact alive_keeps (fun x1 x2 => dispatchOp_keeps x2) hs

theorem execMoveSwatchRead_keeps {s0 c h desc s} (hs : Keeps s0 s) : KeepsOut s0 (execMoveSwatchRead c h desc s) := by
  unfold execMoveSwatchRead
  exact alive_keeps (fun x1 x2 => dispatchOp_keeps x2) hs

theorem execMoveZero_keeps {s0 c h desc s} (hs : Keeps s0 s) : KeepsOut s0 (execMoveZero c h desc s) := by
  unfold execMoveZero
  exact alive_keeps (fun x1 x2 => dispatchOp_keeps x2) hs

theorem finishMove_keeps {s0 c m s} (hs : Keeps s0 s) : Keeps s0 (finishMove c m s) := by
  unfold finishMove
  extract_lets -merge t1
  clear_value t1
  exact Keeps.ite hs (retireMove_keeps (Keeps.ite hs (clearStatus_keeps hs)))

theorem withMove_keeps {s0 c move} {f : Nat → Move → State → State} {s}
    (hf : ∀ z0 z1 z2, Keeps s0 z2 → Keeps s0 (f z0 z1 z2))
    (hs : Keeps s0 s) :
    Keeps s0 (withMove c move f s) := by
  unfold withMove
  refine onMover_keeps ?_ hs
  intro x1 x2 x3
  split
  · exact hf _ _ _ x3
  · exact x3

theorem execChunkComplete_keeps {s0 c move s} (hs : Keeps s0 s) : KeepsOut s0 (execChunkComplete c move s) := by
  unfold execChunkComplete
  exact alive_keeps (fun x1 x2 => withMove_keeps (fun x3 x4 x5 x6 => chunkDone_keeps x6) x2) hs

theorem execHostWindowFault_keeps {s0 c move s} (hs : Keeps s0 s) : KeepsOut s0 (execHostWindowFault c move s) := by
  unfold execHostWindowFault
  exact alive_keeps (fun x1 x2 => withMove_keeps (fun x3 x4 x5 x6 => handleFault_keeps x6) x2) hs

theorem execMoveRetire_keeps {s0 c move s} (hs : Keeps s0 s) : KeepsOut s0 (execMoveRetire c move s) := by
  unfold execMoveRetire
  exact settle_keeps (fun x1 x2 => withMove_keeps (fun x3 x4 x5 x6 => finishMove_keeps x6) x2) hs

theorem execMergeWindowExpiry_keeps {s0 c s} (hs : Keeps s0 s) : KeepsOut s0 (execMergeWindowExpiry c s) := by
  unfold execMergeWindowExpiry
  exact settle_keeps (fun x1 x2 => onMover_keeps (fun x3 x4 x5 => flushMerge_keeps x5) x2) hs

theorem execFaultTimeout_keeps {s0 panel number s} (hs : Keeps s0 s) : KeepsOut s0 (execFaultTimeout panel number s) := by
  unfold execFaultTimeout
  exact settle_keeps (fun x1 x2 => doFaultTimeout_keeps x2) hs

theorem execMoverRequestIssue_keeps {s0 c s} (hs : Keeps s0 s) : KeepsOut s0 (execMoverRequestIssue c s) := by
  unfold execMoverRequestIssue
  exact settle_keeps (fun x1 x2 => onMover_keeps (fun x3 x4 x5 => issueNext_keeps x5) x2) hs

theorem execSpoolOccupancySample_keeps {s0 panel spool s} (hs : Keeps s0 s) :
    KeepsOut s0 (execSpoolOccupancySample panel spool s) := by
  unfold execSpoolOccupancySample
  exact alive_keeps (fun x1 x2 => doSpoolSample_keeps x2) hs

theorem watchdogDue_keeps {s0 c q s} (hs : Keeps s0 s) : Keeps s0 (watchdogDue c q s) := by
  unfold watchdogDue
  split
  · exact Keeps.ite hs (doWatchdog_keeps hs)
  · exact hs

theorem execRemoteWaitRetry_keeps {s0 c s} (hs : Keeps s0 s) : KeepsOut s0 (execRemoteWaitRetry c s) := by
  unfold execRemoteWaitRetry
  exact alive_keeps (fun x1 x2 => doRemoteWaitRetry_keeps x2) hs

theorem execSpaceWait_keeps {s0 c h spool k s} (hs : Keeps s0 s) : KeepsOut s0 (execSpaceWait c h spool k s) := by
  unfold execSpaceWait
  exact settle_keeps (fun x1 x2 => dispatchOp_keeps x2) hs

theorem execKadd_keeps {s0 c h f s} (hs : Keeps s0 s) : KeepsOut s0 (execKadd c h f s) := by
  unfold execKadd
  exact settle_keeps (fun x1 x2 => dispatchOp_keeps x2) hs

theorem execKwaitge_keeps {s0 c h f s} (hs : Keeps s0 s) : KeepsOut s0 (execKwaitge c h f s) := by
  unfold execKwaitge
  exact settle_keeps (fun x1 x2 => dispatchOp_keeps x2) hs

theorem execDataWait_keeps {s0 c h spool k s} (hs : Keeps s0 s) : KeepsOut s0 (execDataWait c h spool k s) := by
  unfold execDataWait
  exact settle_keeps (fun x1 x2 => dispatchOp_keeps x2) hs

theorem execKarrive_keeps {s0 c h f s} (hs : Keeps s0 s) : KeepsOut s0 (execKarrive c h f s) := by
  unfold execKarrive
  exact settle_keeps (fun x1 x2 => dispatchOp_keeps x2) hs

theorem execWatchdogExpiry_keeps {s0 c q s} (hs : Keeps s0 s) : KeepsOut s0 (execWatchdogExpiry c q s) := by
  unfold execWatchdogExpiry
  exact settle_keeps (fun x1 x2 => watchdogDue_keeps x2) hs

theorem execKwaiteq_keeps {s0 c h f s} (hs : Keeps s0 s) : KeepsOut s0 (execKwaiteq c h f s) := by
  unfold execKwaiteq
  exact settle_keeps (fun x1 x2 => dispatchOp_keeps x2) hs

theorem execSrelease_keeps {s0 c h spool k s} (hs : Keeps s0 s) : KeepsOut s0 (execSrelease c h spool k s) := by
  unfold execSrelease
  exact settle_keeps (fun x1 x2 => dispatchOp_keeps x2) hs

theorem execScommit_keeps {s0 c h spool k s} (hs : Keeps s0 s) : KeepsOut s0 (execScommit c h spool k s) := by
  unfold execScommit
  exact settle_keeps (fun x1 x2 => dispatchOp_keeps x2) hs

theorem execKset_keeps {s0 c h f s} (hs : Keeps s0 s) : KeepsOut s0 (execKset c h f s) := by
  unfold execKset
  exact settle_keeps (fun x1 x2 => dispatchOp_keeps x2) hs

theorem execRootRebuildComplete_keeps {s0 x s} (hs : Keeps s0 s) : KeepsOut s0 (execRootRebuildComplete x s) := by
  unfold execRootRebuildComplete
  exact alive_keeps (fun x1 x2 => doRebuildDone_keeps x2) hs

theorem execRootPortUp_keeps {s0 x lanes gts capacity s} (hs : Keeps s0 s) :
    KeepsOut s0 (execRootPortUp x lanes gts capacity s) := by
  unfold execRootPortUp
  exact alive_keeps (fun x1 x2 => doRootUp_keeps x2) hs

theorem execStreamFillStart_keeps {s0 panel s} (hs : Keeps s0 s) : KeepsOut s0 (execStreamFillStart panel s) := by
  unfold execStreamFillStart
  exact alive_keeps (fun x1 x2 => atD1_keeps (fun x3 x4 => doFillStart_keeps x4) x2) hs

theorem execQuoteReady_keeps {s0 leafOk s} (hs : Keeps s0 s) : KeepsOut s0 (execQuoteReady leafOk s) := by
  unfold execQuoteReady
  exact alive_keeps (fun x1 x2 => doQuoteReady_keeps x2) hs

theorem execSanitizeComplete_keeps {s0 x ok s} (hs : Keeps s0 s) : KeepsOut s0 (execSanitizeComplete x ok s) := by
  unfold execSanitizeComplete
  exact alive_keeps (fun x1 x2 => doSanitized_keeps x2) hs

theorem execSanitizeTimeout_keeps {s0 x s} (hs : Keeps s0 s) : KeepsOut s0 (execSanitizeTimeout x s) := by
  unfold execSanitizeTimeout
  exact alive_keeps (fun x1 x2 => doSanitizeTimeout_keeps x2) hs

theorem execRootPortDown_keeps {s0 x s} (hs : Keeps s0 s) : KeepsOut s0 (execRootPortDown x s) := by
  unfold execRootPortDown
  exact alive_keeps (fun x1 x2 => doRootDown_keeps x2) hs

theorem execSnapshotTimeout_keeps {s0 panel s} (hs : Keeps s0 s) : KeepsOut s0 (execSnapshotTimeout panel s) := by
  unfold execSnapshotTimeout
  exact settle_keeps (fun x1 x2 => atD1_keeps (fun x3 x4 => abandonSnap_keeps x4) x2) hs

theorem execTableBatchPeriod_keeps {s0 slot s} (hs : Keeps s0 s) : KeepsOut s0 (execTableBatchPeriod slot s) := by
  unfold execTableBatchPeriod
  exact settle_keeps (fun x1 x2 => atD1_keeps (fun x3 x4 => doBatchPeriod_keeps x4) x2) hs

theorem execDepositFree_keeps {s0 panel s} (hs : Keeps s0 s) : KeepsOut s0 (execDepositFree panel s) := by
  unfold execDepositFree
  exact settle_keeps (fun x1 x2 => atD1_keeps (fun x3 x4 => doDeposit_keeps x4) x2) hs

theorem execTableScatterAdd_keeps {s0 tile s} (hs : Keeps s0 s) : KeepsOut s0 (execTableScatterAdd tile s) := by
  unfold execTableScatterAdd
  exact settle_keeps (fun x1 x2 => atD0_keeps (fun x3 x4 => doTableScatter_keeps x4) x2) hs

theorem execSnapshotEntry_keeps {s0 panel s} (hs : Keeps s0 s) : KeepsOut s0 (execSnapshotEntry panel s) := by
  unfold execSnapshotEntry
  exact settle_keeps (fun x1 x2 => atD1_keeps (fun x3 x4 => doSnapEntry_keeps x4) x2) hs

theorem execKernelStart_keeps {s0 panel s} (hs : Keeps s0 s) : KeepsOut s0 (execKernelStart panel s) := by
  unfold execKernelStart
  exact settle_keeps (fun x1 x2 => atD0_keeps (fun x3 x4 => doKernelStart_keeps x4) x2) hs

theorem execSeamSlotTimeout_keeps {s0 slot s} (hs : Keeps s0 s) : KeepsOut s0 (execSeamSlotTimeout slot s) := by
  unfold execSeamSlotTimeout
  exact settle_keeps (fun x1 x2 => atD1_keeps (fun x3 x4 => doSlotTimeout_keeps x4) x2) hs

theorem execKernelEnd_keeps {s0 kid s} (hs : Keeps s0 s) : KeepsOut s0 (execKernelEnd kid s) := by
  unfold execKernelEnd
  exact settle_keeps (fun x1 x2 => doKernelEnd_keeps x2) hs

theorem execDepositRowed_keeps {s0 panel s} (hs : Keeps s0 s) : KeepsOut s0 (execDepositRowed panel s) := by
  unfold execDepositRowed
  exact settle_keeps (fun x1 x2 => atD1_keeps (fun x3 x4 => doDeposit_keeps x4) x2) hs

theorem execReconstructionComplete_keeps {s0 addr s} (hs : Keeps s0 s) :
    KeepsOut s0 (execReconstructionComplete addr s) := by
  unfold execReconstructionComplete
  exact settle_keeps (fun x1 x2 => atD1_keeps (fun x3 x4 => doReconstruct_keeps x4) x2) hs

theorem execKernelResume_keeps {s0 panel s} (hs : Keeps s0 s) : KeepsOut s0 (execKernelResume panel s) := by
  unfold execKernelResume
  exact settle_keeps (fun x1 x2 => atD0_keeps (fun x3 x4 => doKernelResume_keeps x4) x2) hs

theorem execSeamRelease_keeps {s0 slot s} (hs : Keeps s0 s) : KeepsOut s0 (execSeamRelease slot s) := by
  unfold execSeamRelease
  exact settle_keeps (fun x1 x2 => atD1_keeps (fun x3 x4 => doSeamRelease_keeps x4) x2) hs

theorem execDepositNoise_keeps {s0 panel s} (hs : Keeps s0 s) : KeepsOut s0 (execDepositNoise panel s) := by
  unfold execDepositNoise
  exact settle_keeps (fun x1 x2 => atD1_keeps (fun x3 x4 => doDeposit_keeps x4) x2) hs

theorem execDepositDense_keeps {s0 panel s} (hs : Keeps s0 s) : KeepsOut s0 (execDepositDense panel s) := by
  unfold execDepositDense
  exact settle_keeps (fun x1 x2 => atD1_keeps (fun x3 x4 => doDeposit_keeps x4) x2) hs

theorem execPreempt_keeps {s0 panel s} (hs : Keeps s0 s) : KeepsOut s0 (execPreempt panel s) := by
  unfold execPreempt
  exact settle_keeps (fun x1 x2 => atD0_keeps (fun x3 x4 => doPreempt_keeps x4) x2) hs

theorem execRegenerationComplete_keeps {s0 addr s} (hs : Keeps s0 s) : KeepsOut s0 (execRegenerationComplete addr s) := by
  unfold execRegenerationComplete
  exact settle_keeps (fun x1 x2 => atD1_keeps (fun x3 x4 => doRegenerate_keeps x4) x2) hs

theorem execPanelScrubComplete_keeps {s0 panel ms s} (hs : Keeps s0 s) :
    KeepsOut s0 (execPanelScrubComplete panel ms s) := by
  unfold execPanelScrubComplete
  exact settle_keeps (fun x1 x2 => atD1_keeps (fun x3 x4 => doScrubComplete_keeps x4) x2) hs

theorem execReadFailure_keeps {s0 addr tagFailed s} (hs : Keeps s0 s) : KeepsOut s0 (execReadFailure addr tagFailed s) := by
  unfold execReadFailure
  exact settle_keeps (fun x1 x2 => atD1_keeps (fun x3 x4 => doReadFailure_keeps x4) x2) hs

theorem execTableUpdate_keeps {s0 tile s} (hs : Keeps s0 s) : KeepsOut s0 (execTableUpdate tile s) := by
  unfold execTableUpdate
  exact settle_keeps (fun x1 x2 => atD0_keeps (fun x3 x4 => doTableUpdate_keeps x4) x2) hs

theorem execStreamFillComplete_keeps {s0 panel n s} (hs : Keeps s0 s) : KeepsOut s0 (execStreamFillComplete panel n s) := by
  unfold execStreamFillComplete
  exact settle_keeps (fun x1 x2 => atD1_keeps (fun x3 x4 => doFillComplete_keeps x4) x2) hs

theorem execTableGather_keeps {s0 tile s} (hs : Keeps s0 s) : KeepsOut s0 (execTableGather tile s) := by
  unfold execTableGather
  exact settle_keeps (fun x1 x2 => atD0_keeps (fun x3 x4 => doTableGather_keeps x4) x2) hs

theorem execTableBatchServe_keeps {s0 slot srcFab rows s} (hs : Keeps s0 s) :
    KeepsOut s0 (execTableBatchServe slot srcFab rows s) := by
  unfold execTableBatchServe
  exact settle_keeps (fun x1 x2 => atD1_keeps (fun x3 x4 => doBatchServe_keeps x4) x2) hs

theorem onLinks_keeps {s0} {f : State → State} {s} (hf : ∀ z0, Keeps s0 z0 → Keeps s0 (f z0)) (hs : Keeps s0 s) :
    Keeps s0 (onLinks f s) := by
  unfold onLinks
  exact Keeps.ite (hf _ hs) hs

theorem execCutThroughStepDown_keeps {s0 l s} (hs : Keeps s0 s) : KeepsOut s0 (execCutThroughStepDown l s) := by
  unfold execCutThroughStepDown
  exact alive_keeps (fun x1 x2 => doStepDown_keeps x2) hs

theorem execLinkPartnerDetect_keeps {s0 l s} (hs : Keeps s0 s) : KeepsOut s0 (execLinkPartnerDetect l s) := by
  unfold execLinkPartnerDetect
  exact alive_keeps (fun x1 x2 => doPartner_keeps x2) hs

theorem execLldpReceive_keeps {s0 l fabric link digest s} (hs : Keeps s0 s) :
    KeepsOut s0 (execLldpReceive l fabric link digest s) := by
  unfold execLldpReceive
  exact alive_keeps (fun x1 x2 => doLldpReceive_keeps x2) hs

theorem execNeighborSolicitation_keeps {s0 l target s} (hs : Keeps s0 s) :
    KeepsOut s0 (execNeighborSolicitation l target s) := by
  unfold execNeighborSolicitation
  exact alive_keeps (fun x1 x2 => doSolicit_keeps x2) hs

theorem execLldpTransmit_keeps {s0 l s} (hs : Keeps s0 s) : KeepsOut s0 (execLldpTransmit l s) := by
  unfold execLldpTransmit
  exact alive_keeps (fun x1 x2 => doLldpSend_keeps x2) hs

theorem execPfcSend_keeps {s0 l control fill s} (hs : Keeps s0 s) : KeepsOut s0 (execPfcSend l control fill s) := by
  unfold execPfcSend
  exact alive_keeps (fun x1 x2 => doPfcSend_keeps x2) hs

theorem execPfcRepeat_keeps {s0 l control s} (hs : Keeps s0 s) : KeepsOut s0 (execPfcRepeat l control s) := by
  unfold execPfcRepeat
  exact alive_keeps (fun x1 x2 => doPfcRepeat_keeps x2) hs

theorem execReplayTimeout_keeps {s0 l s} (hs : Keeps s0 s) : KeepsOut s0 (execReplayTimeout l s) := by
  unfold execReplayTimeout
  exact alive_keeps (fun x1 x2 => doReplayTimeout_keeps x2) hs

theorem execSpeedLowerWindow_keeps {s0 l utilPct s} (hs : Keeps s0 s) : KeepsOut s0 (execSpeedLowerWindow l utilPct s) := by
  unfold execSpeedLowerWindow
  exact alive_keeps (fun x1 x2 => doLowerWindow_keeps x2) hs

theorem execTransmitUnderrun_keeps {s0 l s} (hs : Keeps s0 s) : KeepsOut s0 (execTransmitUnderrun l s) := by
  unfold execTransmitUnderrun
  exact alive_keeps (fun x1 x2 => doUnderrun_keeps x2) hs

theorem execSpeedRaiseTrigger_keeps {s0 l s} (hs : Keeps s0 s) : KeepsOut s0 (execSpeedRaiseTrigger l s) := by
  unfold execSpeedRaiseTrigger
  exact alive_keeps (fun x1 x2 => doRaise_keeps x2) hs

theorem execPfcReceive_keeps {s0 l prio quanta s} (hs : Keeps s0 s) : KeepsOut s0 (execPfcReceive l prio quanta s) := by
  unfold execPfcReceive
  exact alive_keeps (fun x1 x2 => doPfcReceive_keeps x2) hs

theorem execPfcQuantaExpiry_keeps {s0 l control s} (hs : Keeps s0 s) : KeepsOut s0 (execPfcQuantaExpiry l control s) := by
  unfold execPfcQuantaExpiry
  exact alive_keeps (fun x1 x2 => doPfcExpiry_keeps x2) hs

theorem execDigest_keeps {s0 hdr ce payload arrival s} (hs : Keeps s0 s) :
    KeepsOut s0 (execDigest hdr ce payload arrival s) := by
  unfold execDigest
  exact alive_keeps (fun x1 x2 => onLinks_keeps (fun x3 x4 => arrive_keeps (fun x5 x6 => doDigest_keeps x6) x4) x2) hs

theorem execSprayEscapeTimeout_keeps {s0 l p s} (hs : Keeps s0 s) : KeepsOut s0 (execSprayEscapeTimeout l p s) := by
  unfold execSprayEscapeTimeout
  exact alive_keeps (fun x1 x2 => doEscape_keeps x2) hs

theorem execPacketForward_keeps {s0 l p s} (hs : Keeps s0 s) : KeepsOut s0 (execPacketForward l p s) := by
  unfold execPacketForward
  exact alive_keeps (fun x1 x2 => doForward_keeps x2) hs

theorem execDigestAnnounce_keeps {s0 s} (hs : Keeps s0 s) : KeepsOut s0 (execDigestAnnounce s) := by
  unfold execDigestAnnounce
  exact alive_keeps (fun x1 x2 => doAnnounce_keeps x2) hs

theorem execFlitIdle_keeps {s0 l h s} (hs : Keeps s0 s) : KeepsOut s0 (execFlitIdle l h s) := by
  unfold execFlitIdle
  exact alive_keeps (fun x1 x2 => doFlitIdle_keeps x2) hs

theorem execLinkTrainingDone_keeps {s0 l lanes s} (hs : Keeps s0 s) : KeepsOut s0 (execLinkTrainingDone l lanes s) := by
  unfold execLinkTrainingDone
  exact alive_keeps (fun x1 x2 => doTrained_keeps x2) hs

theorem execFlitNak_keeps {s0 l h s} (hs : Keeps s0 s) : KeepsOut s0 (execFlitNak l h s) := by
  unfold execFlitNak
  exact alive_keeps (fun x1 x2 => doFlitNak_keeps x2) hs

theorem execFlitData_keeps {s0 l h s} (hs : Keeps s0 s) : KeepsOut s0 (execFlitData l h s) := by
  unfold execFlitData
  exact alive_keeps (fun x1 x2 => doFlitData_keeps x2) hs

theorem execSpeedReq_keeps {s0 l target s} (hs : Keeps s0 s) : KeepsOut s0 (execSpeedReq l target s) := by
  unfold execSpeedReq
  exact alive_keeps (fun x1 x2 => doSpeedReq_keeps x2) hs

theorem execLinkRetrainTimeout_keeps {s0 l s} (hs : Keeps s0 s) : KeepsOut s0 (execLinkRetrainTimeout l s) := by
  unfold execLinkRetrainTimeout
  exact alive_keeps (fun x1 x2 => doRetrainTimeout_keeps x2) hs

theorem execRetrain_keeps {s0 l s} (hs : Keeps s0 s) : KeepsOut s0 (execRetrain l s) := by
  unfold execRetrain
  exact alive_keeps (fun x1 x2 => doRetrain_keeps x2) hs

theorem execSpeedAck_keeps {s0 l target seq s} (hs : Keeps s0 s) : KeepsOut s0 (execSpeedAck l target seq s) := by
  unfold execSpeedAck
  exact alive_keeps (fun x1 x2 => doSpeedAck_keeps x2) hs

theorem execLaneFailure_keeps {s0 l s} (hs : Keeps s0 s) : KeepsOut s0 (execLaneFailure l s) := by
  unfold execLaneFailure
  exact alive_keeps (fun x1 x2 => doLane_keeps x2) hs

theorem execRetrainComplete_keeps {s0 l lanes s} (hs : Keeps s0 s) : KeepsOut s0 (execRetrainComplete l lanes s) := by
  unfold execRetrainComplete
  exact alive_keeps (fun x1 x2 => doRetrained_keeps x2) hs

theorem execLossOfSignal_keeps {s0 l s} (hs : Keeps s0 s) : KeepsOut s0 (execLossOfSignal l s) := by
  unfold execLossOfSignal
  exact alive_keeps (fun x1 x2 => doLoss_keeps x2) hs

theorem execSpeedRefuse_keeps {s0 l s} (hs : Keeps s0 s) : KeepsOut s0 (execSpeedRefuse l s) := by
  unfold execSpeedRefuse
  exact alive_keeps (fun x1 x2 => doSpeedRefuse_keeps x2) hs

theorem execIdent_keeps {s0 l m s} (hs : Keeps s0 s) : KeepsOut s0 (execIdent l m s) := by
  unfold execIdent
  exact alive_keeps (fun x1 x2 => doIdent_keeps x2) hs

theorem execEthFrameReceive_keeps {s0 l f s} (hs : Keeps s0 s) : KeepsOut s0 (execEthFrameReceive l f s) := by
  unfold execEthFrameReceive
  exact settle_keeps (fun x1 x2 => doEthFrame_keeps x2) hs

theorem execEcnRateIncrease_keeps {s0 qp s} (hs : Keeps s0 s) : KeepsOut s0 (execEcnRateIncrease qp s) := by
  unfold execEcnRateIncrease
  exact alive_keeps (fun x1 x2 => onLinks_keeps (fun x3 x4 => doRateIncrease_keeps x4) x2) hs

theorem packetIn_keeps {s0 p} {f : State → State} {s} (hf : ∀ z0, Keeps s0 z0 → Keeps s0 (f z0)) (hs : Keeps s0 s) :
    Keeps s0 (packetIn p f s) := by
  unfold packetIn
  exact onLinks_keeps (fun x1 x2 => arrive_keeps (fun x3 x4 => hf _ (Keeps.ite (wakeD1_keeps x4) x4)) x2) hs

theorem execNakRetry_keeps {s0 qp psn s} (hs : Keeps s0 s) : KeepsOut s0 (execNakRetry qp psn s) := by
  unfold execNakRetry
  exact alive_keeps (fun x1 x2 => onLinks_keeps (fun x3 x4 => doNakRetry_keeps x4) x2) hs

theorem execAckTimer_keeps {s0 qp s} (hs : Keeps s0 s) : KeepsOut s0 (execAckTimer qp s) := by
  unfold execAckTimer
  exact alive_keeps (fun x1 x2 => onLinks_keeps (fun x3 x4 => doAckTimer_keeps x4) x2) hs

theorem execNak_keeps {s0 p s} (hs : Keeps s0 s) : KeepsOut s0 (execNak p s) := by
  unfold execNak
  exact settle_keeps (fun x1 x2 => packetIn_keeps (fun x3 x4 => doNak_keeps x4) x2) hs

theorem execKnot_keeps {s0 p s} (hs : Keeps s0 s) : KeepsOut s0 (execKnot p s) := by
  unfold execKnot
  exact settle_keeps (fun x1 x2 => packetIn_keeps (fun x3 x4 => doKnot_keeps x4) x2) hs

theorem execQpReset_keeps {s0 port ring s} (hs : Keeps s0 s) : KeepsOut s0 (execQpReset port ring s) := by
  unfold execQpReset
  exact settle_keeps (fun x1 x2 => atD0_keeps (fun x3 x4 => doQpReset_keeps x4) x2) hs

theorem execReduceScatter_keeps {s0 port ring s} (hs : Keeps s0 s) : KeepsOut s0 (execReduceScatter port ring s) := by
  unfold execReduceScatter
  exact settle_keeps (fun x1 x2 => atD0_keeps (fun x3 x4 => doCollRec_keeps x4) x2) hs

theorem execSend_keeps {s0 p s} (hs : Keeps s0 s) : KeepsOut s0 (execSend p s) := by
  unfold execSend
  exact settle_keeps (fun x1 x2 => packetIn_keeps (fun x3 x4 => doSend_keeps x4) x2) hs

theorem execQpDestroy_keeps {s0 port ring s} (hs : Keeps s0 s) : KeepsOut s0 (execQpDestroy port ring s) := by
  unfold execQpDestroy
  exact settle_keeps (fun x1 x2 => atD0_keeps (fun x3 x4 => doQpDestroy_keeps x4) x2) hs

theorem execAck_keeps {s0 p s} (hs : Keeps s0 s) : KeepsOut s0 (execAck p s) := by
  unfold execAck
  exact settle_keeps (fun x1 x2 => packetIn_keeps (fun x3 x4 => doAck_keeps x4) x2) hs

theorem execAllGather_keeps {s0 port ring s} (hs : Keeps s0 s) : KeepsOut s0 (execAllGather port ring s) := by
  unfold execAllGather
  exact settle_keeps (fun x1 x2 => atD0_keeps (fun x3 x4 => doCollRec_keeps x4) x2) hs

theorem execContextRestoreComplete_keeps {s0 qp s} (hs : Keeps s0 s) : KeepsOut s0 (execContextRestoreComplete qp s) := by
  unfold execContextRestoreComplete
  exact settle_keeps (fun x1 x2 => atD1_keeps (fun x3 x4 => doRestoreQp_keeps x4) x2) hs

theorem execPermute_keeps {s0 port ring s} (hs : Keeps s0 s) : KeepsOut s0 (execPermute port ring s) := by
  unfold execPermute
  exact settle_keeps (fun x1 x2 => atD0_keeps (fun x3 x4 => doCollRec_keeps x4) x2) hs

theorem execAllReduce_keeps {s0 port ring s} (hs : Keeps s0 s) : KeepsOut s0 (execAllReduce port ring s) := by
  unfold execAllReduce
  exact settle_keeps (fun x1 x2 => atD0_keeps (fun x3 x4 => doCollRec_keeps x4) x2) hs

theorem execNakLimitExpiry_keeps {s0 qp psn s} (hs : Keeps s0 s) : KeepsOut s0 (execNakLimitExpiry qp psn s) := by
  unfold execNakLimitExpiry
  exact settle_keeps (fun x1 x2 => onLinks_keeps (fun x3 x4 => doNakLimit_keeps x4) x2) hs

theorem execWake_keeps {s0 p s} (hs : Keeps s0 s) : KeepsOut s0 (execWake p s) := by
  unfold execWake
  exact settle_keeps (fun x1 x2 => packetIn_keeps (fun x3 x4 => doWake_keeps x4) x2) hs

theorem execRetryTimeout_keeps {s0 qp psn s} (hs : Keeps s0 s) : KeepsOut s0 (execRetryTimeout qp psn s) := by
  unfold execRetryTimeout
  exact settle_keeps (fun x1 x2 => onLinks_keeps (fun x3 x4 => doRetryTimeout_keeps x4) x2) hs

theorem execQpCreate_keeps {s0 port ring s} (hs : Keeps s0 s) : KeepsOut s0 (execQpCreate port ring s) := by
  unfold execQpCreate
  exact settle_keeps (fun x1 x2 => atD0_keeps (fun x3 x4 => doQpCreate_keeps x4) x2) hs

theorem execHintExpiry_keeps {s0 panel s} (hs : Keeps s0 s) : KeepsOut s0 (execHintExpiry panel s) := by
  unfold execHintExpiry
  exact alive_keeps (fun x1 x2 => doHintExpiry_keeps x2) hs

theorem execJob_keeps {s0 port ring s} (hs : Keeps s0 s) : KeepsOut s0 (execJob port ring s) := by
  unfold execJob
  exact settle_keeps (fun x1 x2 => atD0_keeps (fun x3 x4 => doJobRec_keeps x4) x2) hs

theorem execFenceClear_keeps {s0 port ring s} (hs : Keeps s0 s) : KeepsOut s0 (execFenceClear port ring s) := by
  unfold execFenceClear
  exact settle_keeps (fun x1 x2 => atD0_keeps (fun x3 x4 => doFenceClear_keeps x4) x2) hs

theorem execModel_keeps {s0 port ring s} (hs : Keeps s0 s) : KeepsOut s0 (execModel port ring s) := by
  unfold execModel
  exact settle_keeps (fun x1 x2 => atD0_keeps (fun x3 x4 => doModelRec_keeps x4) x2) hs

theorem execTableRegister_keeps {s0 port ring s} (hs : Keeps s0 s) : KeepsOut s0 (execTableRegister port ring s) := by
  unfold execTableRegister
  exact settle_keeps (fun x1 x2 => atD0_keeps (fun x3 x4 => doTableRegister_keeps x4) x2) hs

theorem execSnapshot_keeps {s0 port ring s} (hs : Keeps s0 s) : KeepsOut s0 (execSnapshot port ring s) := by
  unfold execSnapshot
  exact settle_keeps (fun x1 x2 => atD0_keeps (fun x3 x4 => doSnapshot_keeps x4) x2) hs

theorem execHint_keeps {s0 port ring s} (hs : Keeps s0 s) : KeepsOut s0 (execHint port ring s) := by
  unfold execHint
  exact settle_keeps (fun x1 x2 => atD0_keeps (fun x3 x4 => doHintRec_keeps x4) x2) hs

theorem execNopRecord_keeps {s0 port ring s} (hs : Keeps s0 s) : KeepsOut s0 (execNopRecord port ring s) := by
  unfold execNopRecord
  exact settle_keeps (fun x1 x2 => atD0_keeps (fun x3 x4 => doNopRecord_keeps x4) x2) hs

theorem execWindowStop_keeps {s0 port ring s} (hs : Keeps s0 s) : KeepsOut s0 (execWindowStop port ring s) := by
  unfold execWindowStop
  exact settle_keeps (fun x1 x2 => atD0_keeps (fun x3 x4 => doWindowStop_keeps x4) x2) hs

theorem execWindowStart_keeps {s0 port ring s} (hs : Keeps s0 s) : KeepsOut s0 (execWindowStart port ring s) := by
  unfold execWindowStart
  exact settle_keeps (fun x1 x2 => atD0_keeps (fun x3 x4 => doWindowStart_keeps x4) x2) hs

theorem execFence_keeps {s0 port ring s} (hs : Keeps s0 s) : KeepsOut s0 (execFence port ring s) := by
  unfold execFence
  exact settle_keeps (fun x1 x2 => atD0_keeps (fun x3 x4 => doFenceRec_keeps x4) x2) hs

theorem execPublish_keeps {s0 port ring s} (hs : Keeps s0 s) : KeepsOut s0 (execPublish port ring s) := by
  unfold execPublish
  exact settle_keeps (fun x1 x2 => atD0_keeps (fun x3 x4 => doFenceRec_keeps x4) x2) hs

theorem execGraftRelease_keeps {s0 port ring s} (hs : Keeps s0 s) : KeepsOut s0 (execGraftRelease port ring s) := by
  unfold execGraftRelease
  exact settle_keeps (fun x1 x2 => atD0_keeps (fun x3 x4 => doGraftRelease_keeps x4) x2) hs

theorem execSchedule_keeps {s0 port ring s} (hs : Keeps s0 s) : KeepsOut s0 (execSchedule port ring s) := by
  unfold execSchedule
  exact settle_keeps (fun x1 x2 => atD0_keeps (fun x3 x4 => doSchedule_keeps x4) x2) hs

theorem execTableRelease_keeps {s0 port ring s} (hs : Keeps s0 s) : KeepsOut s0 (execTableRelease port ring s) := by
  unfold execTableRelease
  exact settle_keeps (fun x1 x2 => atD0_keeps (fun x3 x4 => doTableRelease_keeps x4) x2) hs

theorem execWorklist_keeps {s0 port ring s} (hs : Keeps s0 s) : KeepsOut s0 (execWorklist port ring s) := by
  unfold execWorklist
  exact settle_keeps (fun x1 x2 => atD0_keeps (fun x3 x4 => doWorklistRec_keeps x4) x2) hs

theorem execKernel_keeps {s0 port ring s} (hs : Keeps s0 s) : KeepsOut s0 (execKernel port ring s) := by
  unfold execKernel
  exact settle_keeps (fun x1 x2 => atD0_keeps (fun x3 x4 => doKernel_keeps x4) x2) hs

theorem execGraftRegister_keeps {s0 port ring s} (hs : Keeps s0 s) : KeepsOut s0 (execGraftRegister port ring s) := by
  unfold execGraftRegister
  exact settle_keeps (fun x1 x2 => atD0_keeps (fun x3 x4 => doGraftRegister_keeps x4) x2) hs

theorem execBar2Read_keeps {s0 port a1 s} (hs : Keeps s0 s) : KeepsOut s0 (execBar2Read port a1 s) := by
  unfold execBar2Read
  exact alive_keeps (fun x1 x2 => doBar2Read_keeps x2) hs

theorem execPortRetrain_keeps {s0 port s} (hs : Keeps s0 s) : KeepsOut s0 (execPortRetrain port s) := by
  unfold execPortRetrain
  exact alive_keeps (fun x1 x2 => doPortRetrain_keeps x2) hs

theorem execIrqHoldoffExpiry_keeps {s0 port vector s} (hs : Keeps s0 s) :
    KeepsOut s0 (execIrqHoldoffExpiry port vector s) := by
  unfold execIrqHoldoffExpiry
  exact alive_keeps (fun x1 x2 => doIrqHoldoff_keeps x2) hs

theorem execDoorbellGraceExpiry_keeps {s0 port ring s} (hs : Keeps s0 s) :
    KeepsOut s0 (execDoorbellGraceExpiry port ring s) := by
  unfold execDoorbellGraceExpiry
  exact settle_keeps (fun x1 x2 => atD0_keeps (fun x3 x4 => doDoorbellGrace_keeps x4) x2) hs

theorem execHostLost_keeps {s0 port s} (hs : Keeps s0 s) : KeepsOut s0 (execHostLost port s) := by
  unfold execHostLost
  exact settle_keeps (fun x1 x2 => doHostLost_keeps x2) hs

theorem execHostGraceExpiry_keeps {s0 port s} (hs : Keeps s0 s) : KeepsOut s0 (execHostGraceExpiry port s) := by
  unfold execHostGraceExpiry
  exact settle_keeps (fun x1 x2 => doHostGrace_keeps x2) hs

theorem execTranslationInvalidate_keeps {s0 port w page s} (hs : Keeps s0 s) :
    KeepsOut s0 (execTranslationInvalidate port w page s) := by
  unfold execTranslationInvalidate
  exact settle_keeps (fun x1 x2 => hostWrite_keeps x2) hs

theorem execRingDisable_keeps {s0 port ring s} (hs : Keeps s0 s) : KeepsOut s0 (execRingDisable port ring s) := by
  unfold execRingDisable
  exact settle_keeps (fun x1 x2 => hostWrite_keeps x2) hs

theorem execRingEnable_keeps {s0 port ring s} (hs : Keeps s0 s) : KeepsOut s0 (execRingEnable port ring s) := by
  unfold execRingEnable
  exact settle_keeps (fun x1 x2 => hostWrite_keeps x2) hs

theorem execEventConsumerWrite_keeps {s0 port w value s} (hs : Keeps s0 s) :
    KeepsOut s0 (execEventConsumerWrite port w value s) := by
  unfold execEventConsumerWrite
  exact settle_keeps (fun x1 x2 => hostWrite_keeps x2) hs

theorem execPortRetrainComplete_keeps {s0 port s} (hs : Keeps s0 s) : KeepsOut s0 (execPortRetrainComplete port s) := by
  unfold execPortRetrainComplete
  exact settle_keeps (fun x1 x2 => doPortRetrained_keeps x2) hs

theorem execRegionEntryValidate_keeps {s0 port w entry s} (hs : Keeps s0 s) :
    KeepsOut s0 (execRegionEntryValidate port w entry s) := by
  unfold execRegionEntryValidate
  exact settle_keeps (fun x1 x2 => hostWrite_keeps x2) hs

theorem execDoorbell_keeps {s0 port ring tail s} (hs : Keeps s0 s) : KeepsOut s0 (execDoorbell port ring tail s) := by
  unfold execDoorbell
  exact settle_keeps (fun x1 x2 => hostWrite_keeps x2) hs

theorem execAttach_keeps {s0 port s} (hs : Keeps s0 s) : KeepsOut s0 (execAttach port s) := by
  unfold execAttach
  exact settle_keeps (fun x1 x2 => hostWrite_keeps x2) hs

theorem execRegionEntryRevoke_keeps {s0 port w entry s} (hs : Keeps s0 s) :
    KeepsOut s0 (execRegionEntryRevoke port w entry s) := by
  unfold execRegionEntryRevoke
  exact settle_keeps (fun x1 x2 => hostWrite_keeps x2) hs

theorem execCompletionConsumerWrite_keeps {s0 port ring value s} (hs : Keeps s0 s) :
    KeepsOut s0 (execCompletionConsumerWrite port ring value s) := by
  unfold execCompletionConsumerWrite
  exact settle_keeps (fun x1 x2 => hostWrite_keeps x2) hs

theorem execInboundWrite_keeps {s0 port bar0 offset data s} (hs : Keeps s0 s) :
    KeepsOut s0 (execInboundWrite port bar0 offset data s) := by
  unfold execInboundWrite
  exact settle_keeps (fun x1 x2 => hostWrite_keeps x2) hs

theorem execPwrbrkDeassert_keeps {s0 s} (hs : Keeps s0 s) : KeepsOut s0 (execPwrbrkDeassert s) := by
  unfold execPwrbrkDeassert
  exact KeepsOut.next (doPwrbrkDeassert_keeps hs)

theorem execDroopDetect_keeps {s0 group s} (hs : Keeps s0 s) : KeepsOut s0 (execDroopDetect group s) := by
  unfold execDroopDetect
  exact alive_keeps (fun x1 x2 => doDroopDetect_keeps x2) hs

theorem execOpRequestTick_keeps {s0 s} (hs : Keeps s0 s) : KeepsOut s0 (execOpRequestTick s) := by
  unfold execOpRequestTick
  exact alive_keeps (fun x1 x2 => doOpRequest_keeps x2) hs

theorem execD1IdleExpiry_keeps {s0 s} (hs : Keeps s0 s) : KeepsOut s0 (execD1IdleExpiry s) := by
  unfold execD1IdleExpiry
  exact alive_keeps (fun x1 x2 => doD1Idle_keeps x2) hs

theorem execDroopRecover_keeps {s0 group skipped s} (hs : Keeps s0 s) : KeepsOut s0 (execDroopRecover group skipped s) := by
  unfold execDroopRecover
  exact alive_keeps (fun x1 x2 => doDroopRecover_keeps x2) hs

theorem execInputOvervoltage_keeps {s0 mv s} (hs : Keeps s0 s) : KeepsOut s0 (execInputOvervoltage mv s) := by
  unfold execInputOvervoltage
  exact KeepsOut.next (doOvervoltage_keeps hs)

theorem execInputVoltageRecover_keeps {s0 mv s} (hs : Keeps s0 s) : KeepsOut s0 (execInputVoltageRecover mv s) := by
  unfold execInputVoltageRecover
  exact alive_keeps (fun x1 x2 => doVoltageRecover_keeps x2) hs

theorem execPowerRemoval_keeps {s0 s} (hs : Keeps s0 s) : KeepsOut s0 (execPowerRemoval s) := by
  unfold execPowerRemoval
  exact KeepsOut.next (doPowerRemoval_keeps hs)

theorem execPwrbrkAssert_keeps {s0 s} (hs : Keeps s0 s) : KeepsOut s0 (execPwrbrkAssert s) := by
  unfold execPwrbrkAssert
  exact KeepsOut.next (doPwrbrkAssert_keeps hs)

theorem execCeilingStep_keeps {s0 s} (hs : Keeps s0 s) : KeepsOut s0 (execCeilingStep s) := by
  unfold execCeilingStep
  exact alive_keeps (fun x1 x2 => doCeilingStep_keeps x2) hs

theorem execCapUpdate_keeps {s0 powerMw s} (hs : Keeps s0 s) : KeepsOut s0 (execCapUpdate powerMw s) := by
  unfold execCapUpdate
  exact alive_keeps (fun x1 x2 => doCapUpdate_keeps x2) hs

theorem execOpChange_keeps {s0 s} (hs : Keeps s0 s) : KeepsOut s0 (execOpChange s) := by
  unfold execOpChange
  exact alive_keeps (fun x1 x2 => doOpChange_keeps x2) hs

theorem execPowerOn_keeps {s0 a0 s} (hs : Keeps s0 s) : KeepsOut s0 (execPowerOn a0 s) := by
  unfold execPowerOn
  exact KeepsOut.next (doPowerOn_keeps hs)

theorem execModuleResetAssert_keeps {s0 s} (hs : Keeps s0 s) : KeepsOut s0 (execModuleResetAssert s) := by
  unfold execModuleResetAssert
  exact KeepsOut.next (doResetAssert_keeps hs)

theorem execModuleResetRelease_keeps {s0 s} (hs : Keeps s0 s) : KeepsOut s0 (execModuleResetRelease s) := by
  unfold execModuleResetRelease
  exact KeepsOut.next (doResetRelease_keeps hs)

theorem execInputUndervoltage_keeps {s0 mv s} (hs : Keeps s0 s) : KeepsOut s0 (execInputUndervoltage mv s) := by
  unfold execInputUndervoltage
  exact alive_keeps (fun x1 x2 => doUndervoltage_keeps x2) hs

theorem execInputBrownoutExpiry_keeps {s0 s} (hs : Keeps s0 s) : KeepsOut s0 (execInputBrownoutExpiry s) := by
  unfold execInputBrownoutExpiry
  exact alive_keeps (fun x1 x2 => doBrownout_keeps x2) hs

theorem execThermalSample_keeps {s0 temps s} (hs : Keeps s0 s) : KeepsOut s0 (execThermalSample temps s) := by
  unfold execThermalSample
  exact alive_keeps (fun x1 x2 => doThermal_keeps x2) hs

theorem execRowRepair_keeps {s0 stack s} (hs : Keeps s0 s) : KeepsOut s0 (execRowRepair stack s) := by
  unfold execRowRepair
  exact alive_keeps (fun x1 x2 => doRowRepair_keeps x2) hs

theorem execModuleFatal_keeps {s0 cause tile s} (hs : Keeps s0 s) : KeepsOut s0 (execModuleFatal cause tile s) := by
  unfold execModuleFatal
  exact alive_keeps (fun x1 x2 => fatal_keeps x2) hs

theorem execHubAdoption_keeps {s0 tile s} (hs : Keeps s0 s) : KeepsOut s0 (execHubAdoption tile s) := by
  unfold execHubAdoption
  exact alive_keeps (fun x1 x2 => doAdoption_keeps x2) hs

theorem execCoreRemap_keeps {s0 c bad s} (hs : Keeps s0 s) : KeepsOut s0 (execCoreRemap c bad s) := by
  unfold execCoreRemap
  exact settle_keeps (fun x1 x2 => doCoreRemap_keeps x2) hs

theorem execPatrolScrub_keeps {s0 stack corrected uncorrectable queued s} (hs : Keeps s0 s) :
    KeepsOut s0 (execPatrolScrub stack corrected uncorrectable queued s) := by
  unfold execPatrolScrub
  exact settle_keeps (fun x1 x2 => doPatrol_keeps x2) hs

theorem execCoreHeartbeatProbe_keeps {s0 c answered s} (hs : Keeps s0 s) :
    KeepsOut s0 (execCoreHeartbeatProbe c answered s) := by
  unfold execCoreHeartbeatProbe
  exact settle_keeps (fun x1 x2 => doHeartbeat_keeps x2) hs

theorem execSegTimeout_keeps {s0 path s} (hs : Keeps s0 s) : KeepsOut s0 (execSegTimeout path s) := by
  unfold execSegTimeout
  exact alive_keeps (fun x1 x2 => doSegTimeout_keeps x2) hs

theorem execAbort_keeps {s0 r s} (hs : Keeps s0 s) : KeepsOut s0 (execAbort r s) := by
  unfold execAbort
  exact alive_keeps (fun x1 x2 => doOdAbort_keeps x2) hs

theorem execEventRetry_keeps {s0 s} (hs : Keeps s0 s) : KeepsOut s0 (execEventRetry s) := by
  unfold execEventRetry
  exact alive_keeps (fun x1 x2 => doEventRetry_keeps x2) hs

theorem execEventAck_keeps {s0 seq s} (hs : Keeps s0 s) : KeepsOut s0 (execEventAck seq s) := by
  unfold execEventAck
  exact alive_keeps (fun x1 x2 => doEventAck_keeps x2) hs

theorem execRead_keeps {s0 r index sub s} (hs : Keeps s0 s) : KeepsOut s0 (execRead r index sub s) := by
  unfold execRead
  exact alive_keeps (fun x1 x2 => doOdRead_keeps x2) hs

theorem execSegReq_keeps {s0 r k s} (hs : Keeps s0 s) : KeepsOut s0 (execSegReq r k s) := by
  unfold execSegReq
  exact alive_keeps (fun x1 x2 => doSegReq_keeps x2) hs

theorem execAssign_keeps {s0 mac node s} (hs : Keeps s0 s) : KeepsOut s0 (execAssign mac node s) := by
  unfold execAssign
  exact alive_keeps (fun x1 x2 => doAssign_keeps x2) hs

theorem execSegReadInitiate_keeps {s0 r index sub s} (hs : Keeps s0 s) :
    KeepsOut s0 (execSegReadInitiate r index sub s) := by
  unfold execSegReadInitiate
  exact alive_keeps (fun x1 x2 => doSegRead_keeps x2) hs

theorem execPlcaBeaconReturn_keeps {s0 s} (hs : Keeps s0 s) : KeepsOut s0 (execPlcaBeaconReturn s) := by
  unfold execPlcaBeaconReturn
  exact alive_keeps (fun x1 x2 => doBeacon_keeps x2) hs

theorem execPlcaBeaconLoss_keeps {s0 s} (hs : Keeps s0 s) : KeepsOut s0 (execPlcaBeaconLoss s) := by
  unfold execPlcaBeaconLoss
  exact alive_keeps (fun x1 x2 => doBeacon_keeps x2) hs

theorem execCorRead_keeps {s0 r index sub s} (hs : Keeps s0 s) : KeepsOut s0 (execCorRead r index sub s) := by
  unfold execCorRead
  exact alive_keeps (fun x1 x2 => doCorRead_keeps x2) hs

theorem execSegWriteInitiate_keeps {s0 r index sub total s} (hs : Keeps s0 s) :
    KeepsOut s0 (execSegWriteInitiate r index sub total s) := by
  unfold execSegWriteInitiate
  exact alive_keeps (fun x1 x2 => doSegWrite_keeps x2) hs

theorem execLeave_keeps {s0 r s} (hs : Keeps s0 s) : KeepsOut s0 (execLeave r s) := by
  unfold execLeave
  exact alive_keeps (fun x1 x2 => doLeave_keeps x2) hs

theorem doRestoreDone_keeps {s0 r p knot good s} (hs : Keeps s0 s) : Keeps s0 (doRestoreDone r p knot good s) := by
  unfold doRestoreDone
  extract_lets -merge t1
  clear_value t1
  refine onPath_keeps ?_ hs
  intro x3 x4
  extract_lets -merge t5
  have h6 : Keeps s0 t5 := wakeD1_keeps x4
  clear_value t5
  split
  · split
    · rename_i y9 y10 y11 y12
      have h13 : Keeps s0 y11 := KeepsPair.elim y12 (writeRestoreDone_keeps h6)
      exact answer_keeps h13
  · exact answer_keeps h6

theorem execRestoreDone_keeps {s0 r panel knot good s} (hs : Keeps s0 s) :
    KeepsOut s0 (execRestoreDone r panel knot good s) := by
  unfold execRestoreDone
  exact settle_keeps (fun x1 x2 => doRestoreDone_keeps x2) hs

theorem execSegment_keeps {s0 r k data s} (hs : Keeps s0 s) : KeepsOut s0 (execSegment r k data s) := by
  unfold execSegment
  exact settle_keeps (fun x1 x2 => doSegment_keeps x2) hs

theorem execAttestNonce_keeps {s0 r data s} (hs : Keeps s0 s) : KeepsOut s0 (execAttestNonce r data s) := by
  unfold execAttestNonce
  exact settle_keeps (fun x1 x2 => doOdWhole_keeps x2) hs

theorem execRootRebuild_keeps {s0 r x s} (hs : Keeps s0 s) : KeepsOut s0 (execRootRebuild r x s) := by
  unfold execRootRebuild
  exact settle_keeps (fun x1 x2 => doOdPut_keeps x2) hs

theorem execSeamDisarm_keeps {s0 r s} (hs : Keeps s0 s) : KeepsOut s0 (execSeamDisarm r s) := by
  unfold execSeamDisarm
  exact settle_keeps (fun x1 x2 => doOdPut_keeps x2) hs

theorem execSeamArm_keeps {s0 r s} (hs : Keeps s0 s) : KeepsOut s0 (execSeamArm r s) := by
  unfold execSeamArm
  exact settle_keeps (fun x1 x2 => doOdPut_keeps x2) hs

theorem execWarmReset_keeps {s0 r s} (hs : Keeps s0 s) : KeepsOut s0 (execWarmReset r s) := by
  unfold execWarmReset
  exact settle_keeps (fun x1 x2 => doOdPut_keeps x2) hs

theorem execPanelRelease_keeps {s0 r panel s} (hs : Keeps s0 s) : KeepsOut s0 (execPanelRelease r panel s) := by
  unfold execPanelRelease
  exact settle_keeps (fun x1 x2 => doOdPut_keeps x2) hs

theorem execSeamLeave_keeps {s0 r panel s} (hs : Keeps s0 s) : KeepsOut s0 (execSeamLeave r panel s) := by
  unfold execSeamLeave
  exact settle_keeps (fun x1 x2 => doOdPut_keeps x2) hs

theorem execFaultResume_keeps {s0 r panel number s} (hs : Keeps s0 s) : KeepsOut s0 (execFaultResume r panel number s) := by
  unfold execFaultResume
  exact settle_keeps (fun x1 x2 => doOdPut_keeps x2) hs

theorem execSeamJoin_keeps {s0 r panel s} (hs : Keeps s0 s) : KeepsOut s0 (execSeamJoin r panel s) := by
  unfold execSeamJoin
  exact settle_keeps (fun x1 x2 => doOdPut_keeps x2) hs

theorem execWaitAbort_keeps {s0 r panel tag s} (hs : Keeps s0 s) : KeepsOut s0 (execWaitAbort r panel tag s) := by
  unfold execWaitAbort
  exact settle_keeps (fun x1 x2 => doOdPut_keeps x2) hs

theorem execRootModeWrite_keeps {s0 r parityPort value s} (hs : Keeps s0 s) :
    KeepsOut s0 (execRootModeWrite r parityPort value s) := by
  unfold execRootModeWrite
  exact settle_keeps (fun x1 x2 => doOdPut_keeps x2) hs

theorem execSchedAbort_keeps {s0 r panel tag s} (hs : Keeps s0 s) : KeepsOut s0 (execSchedAbort r panel tag s) := by
  unfold execSchedAbort
  exact settle_keeps (fun x1 x2 => doOdPut_keeps x2) hs

theorem execFabricIdWrite_keeps {s0 r value s} (hs : Keeps s0 s) : KeepsOut s0 (execFabricIdWrite r value s) := by
  unfold execFabricIdWrite
  exact settle_keeps (fun x1 x2 => doOdPut_keeps x2) hs

theorem execDirectWaysWrite_keeps {s0 r panel n s} (hs : Keeps s0 s) : KeepsOut s0 (execDirectWaysWrite r panel n s) := by
  unfold execDirectWaysWrite
  exact settle_keeps (fun x1 x2 => doOdPut_keeps x2) hs

theorem execRemapGo_keeps {s0 r panel core s} (hs : Keeps s0 s) : KeepsOut s0 (execRemapGo r panel core s) := by
  unfold execRemapGo
  exact settle_keeps (fun x1 x2 => doOdPut_keeps x2) hs

theorem execKeyInstall_keeps {s0 r panel data s} (hs : Keeps s0 s) : KeepsOut s0 (execKeyInstall r panel data s) := by
  unfold execKeyInstall
  exact settle_keeps (fun x1 x2 => doOdWhole_keeps x2) hs

theorem execPanelReset_keeps {s0 r panel s} (hs : Keeps s0 s) : KeepsOut s0 (execPanelReset r panel s) := by
  unfold execPanelReset
  exact settle_keeps (fun x1 x2 => doOdPut_keeps x2) hs

theorem execPowerStateD1_keeps {s0 r s} (hs : Keeps s0 s) : KeepsOut s0 (execPowerStateD1 r s) := by
  unfold execPowerStateD1
  exact settle_keeps (fun x1 x2 => doOdPut_keeps x2) hs

theorem execPowerStateD2_keeps {s0 r s} (hs : Keeps s0 s) : KeepsOut s0 (execPowerStateD2 r s) := by
  unfold execPowerStateD2
  exact settle_keeps (fun x1 x2 => doOdPut_keeps x2) hs

theorem execBoot_keeps {s0 r source s} (hs : Keeps s0 s) : KeepsOut s0 (execBoot r source s) := by
  unfold execBoot
  exact settle_keeps (fun x1 x2 => doOdPut_keeps x2) hs

theorem execKnotGrantsWrite_keeps {s0 r panel data s} (hs : Keeps s0 s) :
    KeepsOut s0 (execKnotGrantsWrite r panel data s) := by
  unfold execKnotGrantsWrite
  exact settle_keeps (fun x1 x2 => doOdWhole_keeps x2) hs

theorem execPowerStateD0_keeps {s0 r s} (hs : Keeps s0 s) : KeepsOut s0 (execPowerStateD0 r s) := by
  unfold execPowerStateD0
  exact settle_keeps (fun x1 x2 => doOdPut_keeps x2) hs

theorem execWrite_keeps {s0 r index sub data s} (hs : Keeps s0 s) : KeepsOut s0 (execWrite r index sub data s) := by
  unfold execWrite
  exact settle_keeps (fun x1 x2 => doOdPut_keeps x2) hs

theorem execKeyEstablish_keeps {s0 r panel data s} (hs : Keeps s0 s) : KeepsOut s0 (execKeyEstablish r panel data s) := by
  unfold execKeyEstablish
  exact settle_keeps (fun x1 x2 => doOdWhole_keeps x2) hs

theorem execPanelOpen_keeps {s0 r panel s} (hs : Keeps s0 s) : KeepsOut s0 (execPanelOpen r panel s) := by
  unfold execPanelOpen
  exact settle_keeps (fun x1 x2 => doOdPut_keeps x2) hs

theorem execFaultAbort_keeps {s0 r panel number s} (hs : Keeps s0 s) : KeepsOut s0 (execFaultAbort r panel number s) := by
  unfold execFaultAbort
  exact settle_keeps (fun x1 x2 => doOdPut_keeps x2) hs

theorem execSchedDecide_keeps {s0 r panel step s} (hs : Keeps s0 s) : KeepsOut s0 (execSchedDecide r panel step s) := by
  unfold execSchedDecide
  exact settle_keeps (fun x1 x2 => doOdPut_keeps x2) hs

theorem execModuleReset_keeps {s0 r s} (hs : Keeps s0 s) : KeepsOut s0 (execModuleReset r s) := by
  unfold execModuleReset
  exact KeepsOut.next (doOdPut_keeps hs)

theorem execCtxRestored_keeps {s0 r panel qp s} (hs : Keeps s0 s) : KeepsOut s0 (execCtxRestored r panel qp s) := by
  unfold execCtxRestored
  exact settle_keeps (fun x1 x2 => doOdPut_keeps x2) hs

theorem execPoolConfigWrite_keeps {s0 r panel entries value s} (hs : Keeps s0 s) :
    KeepsOut s0 (execPoolConfigWrite r panel entries value s) := by
  unfold execPoolConfigWrite
  refine settle_keeps ?_ hs
  intro x1 x2
  split
  · exact doOdPut_keeps x2
  · exact doOdPut_keeps x2

theorem execPowerStateD3_keeps {s0 r s} (hs : Keeps s0 s) : KeepsOut s0 (execPowerStateD3 r s) := by
  unfold execPowerStateD3
  exact settle_keeps (fun x1 x2 => doOdPut_keeps x2) hs

end Sys2Proof.Machine
end

