-- ==== Sys2Proof/Laws/Requests.lean ====
section
/-! SUPPORT. Laws of requests of the object dictionary: what a request that its path takes comes to, and what a write that its
requester may make comes to (R386–R393). -/
namespace Sys2Proof.Machine

theorem length_toLe (n v : Nat) : (toLe n v).length = n := by
  induction n generalizing v with
  | zero => rfl
  | succ k ih => simp [toLe, ih]

/-- A request that its path takes, and that is no repeat, is handled by its handler on the module as it finds it. -/
theorem onPath_takes {s : State} {r : OdReq} {m : OdMsg} (f : State → State) (h : TakesRequest s r m) :
    onPath r m f s = f (heard r s) := by
  obtain ⟨_, hp, hl⟩ := h
  unfold onPath heard
  rw [hp]
  simp only [Bool.not_true, Bool.false_eq_true, if_false]
  by_cases h0 : r.path = 0
  · simp only [h0, if_true]
    have : (pathOf (odCount 4353 1 1 s) 0).last = (pathOf s 0).last := rfl
    rw [this]
    cases hx : (pathOf s 0).last with
    | none => rfl
    | some e =>
      have := hl h0 e hx
      simp [this]
  · simp only [h0, if_false]
    cases hx : (pathOf s r.path).last with
    | none => rfl
    | some e => simp

/-- A write that its requester may make answers with the status of its entry. -/
theorem put_answers {s : State} {r : OdReq} {index sub : Nat} {data : Bytes} (h : MayPut s r index sub data) :
    doOdPut r index sub data s =
      answer r (putMsg index sub data) 0x20 (applyWrite r.path index sub data (wakeD1 (heard r s))).1 0 []
        (applyWrite r.path index sub data (wakeD1 (heard r s))).2 := by
  have h2 := h.2
  rw [doOdPut, doOdWrite]
  refine (onPath_takes (m := putMsg index sub data) _ h.1).trans ?_
  simp only [tryWrite, putMsg]
  rw [h2]
  rfl

theorem put_exec {s : State} {r : OdReq} {index sub : Nat} {data : Bytes} (h : MayPut s r index sub data) {e : Nat × State}
    (he : applyWrite r.path index sub data (wakeD1 (heard r s)) = e) :
    settle (doOdPut r index sub data) s = .next (pumpColls (answer r (putMsg index sub data) 0x20 e.1 0 [] e.2)) := by
  rw [settle_next _ _ h.1.1, put_answers h, he]

/-- A value of its entry's length and range goes where its entry's index says. -/
theorem applyWrite_fits {path index sub : Nat} {data : Bytes} {s : State} {row : OdRow} (hr : odRow index sub = some row)
    (hl : data.length = entryLen s row index sub) (hv : valueOk s row index sub (leNat data) = true) :
    applyWrite path index sub data s =
      if index / 0x1000 = 4 then writePanelBlock (index / 256 % 16) (index % 256) sub (leNat data) data s
      else match entryPanel row index sub with
        | some q => writePerPanel q index sub (leNat data) data s
        | none => writeEffect path index sub (leNat data) data s := by
  unfold applyWrite
  simp only [hr, hl, hv]
  simp <;> rfl

/-- A value out of its entry's range is answered by status 6. -/
theorem applyWrite_range {path index sub : Nat} {data : Bytes} {s : State} {row : OdRow} (hr : odRow index sub = some row)
    (hl : data.length = entryLen s row index sub) (hv : valueOk s row index sub (leNat data) = false) :
    applyWrite path index sub data s = (0x06, s) := by
  unfold applyWrite
  simp only [hr, hl, hv]
  simp

/-- A value of another length is answered by status 7, but at the key entries, which judge the length themselves. -/
theorem applyWrite_length {path index sub : Nat} {data : Bytes} {s : State} {row : OdRow} (hr : odRow index sub = some row)
    (hl : data.length ≠ entryLen s row index sub) (hk : keyEntry index sub = false) : applyWrite path index sub data s = (0x07, s) := by
  unfold applyWrite
  simp only [hr]
  rw [if_pos (by simp [hl, hk])]

end Sys2Proof.Machine
end

