-- ==== Sys2Proof/Machine/Mirror.lean ====
section
/-! DEFINITION. What a host reads at BAR0 (R220, R290, R295, R391; Tables 13.2, 13.4, 13.5, 18.5, 10.2). The table of commands has no
row for a read of BAR0, which changes nothing but the model's free values; a read is this function of the state. -/
namespace Sys2Proof.Machine

/-- Module block (Table 13.2), but for the local time. Energy is at least what an earlier read has shown. -/
def moduleBlock (s : State) (h : Nat) : Bytes × State :=
  let (e, t) := readEnergy s
  let flags := s.pins.ready.toNat + 2 * (fabricSet s).toNat + 4 * (!s.pins.alertN).toNat + 8 * s.startup.fatal.toNat
  let states := (List.range 16).flatMap fun p =>
    if panelLive s p && portSlots (panelWindows s p) h ≠ 0 then toLe 1 (panelStateCode (panelOf s p)) else [0xFF]
  (padTo 256 ([0x47, 0x4A, 0x4D, 0x52, 0xB0] ++ toLe 1 (fabricId s) ++ toLe 1 flags ++ toLe 1 s.power.op ++
    toLe 4 s.startup.fwVersion.toNat ++ toLe 4 0 ++ toLe 8 s.time ++ configDigest s ++ (List.range 16).map Config.serial ++
    e ++ toLe 16 0 ++ states), t)

/-- Port block. -/
def portBlock (s : State) (h : Nat) : Bytes × State :=
  let (b, t) := portStateBytes s h
  let lost := (panelsOn s h).foldl (fun n p => n + (panelOf s p).evLost.toNat) 0
  (padTo 256 (b ++ toLe 4 0 ++ toLe 4 lost), t)

/-- Slot block; without an owner it reads zero. The drop of cached entries is over at once, so BUSY reads 0. -/
def slotBlock (s : State) (h w : Nat) : Bytes :=
  match ownerOfSlot s h w with
  | none => toLe 0x400 0
  | some p =>
    let b := slotOf s h w
    padTo 0x400 (toLe 8 p ++ toLe 8 b.target.toNat ++ toLe 8 b.length.toNat ++ toLe 8 b.tabBase.toNat ++
      toLe 4 b.tabEntries.toNat ++ toLe 4 b.pageSize.toNat ++ toLe 4 0 ++ toLe 20 0 ++ toLe 8 b.evBase.toNat ++
      toLe 4 b.evEntries.toNat ++ toLe 4 b.evCons.toNat ++ toLe 8 b.prodWord.toNat ++ toLe 4 b.evProd.toNat ++
      toLe 2 b.evVec.toNat)

def ringStateCode (x : Ring) : Nat :=
  match x.st with
  | .disabled => 0
  | .running => 1
  | .held => 2
  | .quiesced => 3

/-- Ring block; a ring of a slot without an owner reads zero. The doorbell field shows nothing. -/
def ringBlock (s : State) (h r : Nat) : Bytes :=
  if (ringPanel s h r).isNone then toLe 0x100 0
  else
    let x := ringOf s h r
    padTo 0x100 (toLe 8 x.base.toNat ++ toLe 4 x.entries.toNat ++ toLe 4 (ringStateCode x) ++ toLe 4 0 ++ toLe 4 x.head.toNat ++
      toLe 8 x.tail.toNat ++ toLe 8 x.cBase.toNat ++ toLe 4 x.cEntries.toNat ++ toLe 4 x.cCons.toNat ++ toLe 4 x.cProd.toNat ++
      toLe 4 x.vec.toNat ++ toLe 4 x.cause.toNat ++ toLe 4 x.heldRec.toNat ++ toLe 4 x.stale.toNat)

/-- The mailbox as its host reads it: the response area and sequence (Table 18.5). -/
def mailboxPage (s : State) (h : Nat) : Bytes :=
  let x := pathOf s (h + 1)
  let a := match x.answer with
    | some a => answerBytes s (h + 1) a
    | none => []
  toLe 0x1000 0 ++ padTo 0xFF8 a ++ toLe 8 x.respSeq.toNat

/-- A region-table entry (Table 10.3). -/
def regionEntryBytes (r : Region) : Bytes :=
  let b := if r.raw.isEmpty then
      toLe 8 r.base ++ toLe 8 r.limit ++ toLe 1 r.kind ++ [r.rights, r.world] ++ toLe 1 r.peer ++ [r.rootMode, 0, 0, 0] ++
        toLe 6 r.ctrBase
    else padTo 30 r.raw
  b ++ [r.status] ++ toLe 1 r.valid.toNat

/-- Byte o of panel p's control page as its hosts read it (Table 10.2). -/
def ctlRead (s : State) (p o : Nat) : Byte :=
  if o < 0x2000 then (regionEntryBytes (sget {} (panelOf s p).regions (o / 32))).getD (o % 32) 0
  else if 0x2040 ≤ o && o < 0x2080 then memByte s.mem (statusAddr p + (o - 0x2040))
  else 0

/-- n bytes of a block from offset o. -/
def cut (b : Bytes) (o n : Nat) : Bytes := padTo n ((b.drop o).take n)

/-- Can a read of BAR0 reach the device (R290). -/
def mirrorReached (s : State) (h : Nat) : Bool := powered s && ((portOf s h).st = .up || (portOf s h).st = .hostlost)

/-- A host read of n bytes at offset o of BAR0 of port h. -/
def bar0Read (s : State) (h o n : Nat) : Bytes × State :=
  if !mirrorReached s h then (List.replicate n 0xFF, s)
  else if o < 0x100 then (let (b, t) := moduleBlock s h; (cut b o n, t))
  else if o < 0x200 then (let (b, t) := portBlock s h; (cut b (o - 0x100) n, t))
  else if o < 0x1000 then (toLe n 0, s)
  else if o < 0x2000 then (cut (slotBlock s h ((o - 0x1000) / 0x400)) ((o - 0x1000) % 0x400) n, s)
  else if o < 0x6000 then (cut (ringBlock s h ((o - 0x2000) / 0x100)) ((o - 0x2000) % 0x100) n, s)
  else if o < 0x8000 then (cut (mailboxPage s h) (o - 0x6000) n, s)
  else if o < 0x10_0000 || 0x14_0000 ≤ o then (toLe n 0, s)
  else
    match ownerOfSlot s h ((o - 0x10_0000) / 0x1_0000) with
    | some p => ((List.range n).map fun i => ctlRead s p ((o - 0x10_0000) % 0x1_0000 + i), s)
    | none => (toLe n 0, s)

end Sys2Proof.Machine
end

