-- ==== Sys2Proof/WellFormed.lean ====
section
/-! DEFINITION. Well-formed commands: block numbers within the part's ranges (Table 1.1, R18), record and key sizes, and
lists of the length their rule gives. A command that is not well formed names nothing of the part. -/
namespace Sys2Proof

def coreOk (c : Nat) : Bool := c < 128
def panelOk (p : Nat) : Bool := p < 16
def portOk (h : Nat) : Bool := h < 4
def ringOk (r : Nat) : Bool := r < 64
def linkOk (l : Nat) : Bool := l < 24
def qpOk (q : Nat) : Bool := q < 4096

/-- A requester: the management port or one of four mailboxes; header byte 2 names a panel or 0xFF (R385). -/
def OdReq.ok (r : OdReq) : Bool := r.path < 5 && (r.panel < 16 || r.panel == 255)

/-- The link that brings a packet. Its header and its length are the receiver's to check (R251). -/
def Packet.ok (p : Packet) : Bool := linkOk p.link

/-- Well-formedness of a command. -/
def Instr.wf : Instr → Bool
  | .nop c _ | .endOp c _ | .loop c _ _ _ | .next c _ _ | .seta c _ _ _ | .adda c _ _ _ | .waitq c _ _ => coreOk c
  | .yield c _ | .commit c _ | .phase c _ _ | .stepclose c _ _ | .load c _ _ => coreOk c
  | .pass c _ f m => coreOk c && m.all (· ≤ f.rows1.toNat)
  | .checkRerun c a m => coreOk c && a < 4 && m.all (· < 512)
  | .drain c _ _ | .nhold c _ _ | .nstream c _ _ _ | .ngraft1 c _ _ _ | .ngraft2 c _ _ _ => coreOk c
  | .vbin c _ _ | .vfma c _ _ | .vun c _ _ | .vred c _ _ | .vrow c _ _ | .vcvt c _ _ | .vsoft c _ _ => coreOk c
  | .vmask c _ _ | .vscan c _ _ | .vopt c _ _ _ | .fload c _ _ _ | .feval c _ _ | .fderiv c _ _ => coreOk c
  | .operationRetire c q => coreOk c && q < 13
  | .moveCopy c _ _ | .moveSwatchRead c _ _ | .moveSwatchWrite c _ _ | .moveTable c _ _ | .moveZero c _ _ => coreOk c
  | .moveSend c _ _ | .stream c _ _ _ | .moverRequestIssue c | .mergeWindowExpiry c => coreOk c
  | .chunkComplete c _ | .moveRetire c _ | .hostWindowFault c _ => coreOk c
  | .faultResume r p _ | .faultAbort r p _ | .poolConfigWrite r p _ _ => r.ok && panelOk p
  | .faultTimeout p _ => panelOk p
  | .kadd c _ _ | .kset c _ _ | .kwaitge c _ _ | .kwaiteq c _ _ | .karrive c _ _ => coreOk c
  | .spaceWait c _ _ _ | .dataWait c _ _ _ | .scommit c _ _ _ | .srelease c _ _ _ => coreOk c
  | .spoolOccupancySample p s => panelOk p && s < 64
  | .remoteWaitRetry c => coreOk c
  | .watchdogExpiry c q => coreOk c && q < 13
  | .waitAbort r p _ => r.ok && panelOk p
  | .knotGrantsWrite r p d => r.ok && panelOk p && d.length == 512
  | .kernelStart p | .preempt p | .kernelResume p | .snapshotEntry p | .snapshotTimeout p => panelOk p
  | .kernelEnd _ => true
  | .schedAbort r p _ | .schedDecide r p _ => r.ok && panelOk p
  | .readFailure _ _ | .reconstructionComplete _ | .regenerationComplete _ => true
  | .restoreDone r p _ _ => r.ok && panelOk p
  | .rootPortDown x => x < 4
  | .rootRebuild r _ | .rootModeWrite r _ _ => r.ok
  | .sanitizeComplete x _ | .sanitizeTimeout x => x < 4
  | .directWaysWrite r p _ => r.ok && panelOk p
  | .streamFillStart p | .streamFillComplete p _ => panelOk p
  | .tableGather t | .tableScatterAdd t | .tableUpdate t => t < 4
  | .tableBatchPeriod s | .tableBatchServe s _ _ => s < 256
  | .panelOpen r p | .panelRelease r p => r.ok && panelOk p
  | .panelScrubComplete p _ => panelOk p
  | .regionEntryValidate h w e | .regionEntryRevoke h w e => portOk h && w < 4 && e < 256
  | .seamArm r | .seamDisarm r => r.ok
  | .seamJoin r p | .seamLeave r p => r.ok && panelOk p
  | .depositDense p | .depositNoise p | .depositRowed p | .depositFree p => panelOk p
  | .seamSlotTimeout s | .seamRelease s => s < 256
  | .keyEstablish r p d => r.ok && panelOk p && d.length == 1600
  | .keyInstall r p d => r.ok && panelOk p && d.length == 48
  | .attestNonce r d => r.ok && d.length == 33
  | .quoteReady _ => true
  | .linkPartnerDetect l | .flitData l _ | .flitIdle l _ | .flitNak l _ | .speedReq l _ | .speedAck l _ _ => linkOk l
  | .linkTrainingDone l n | .retrainComplete l n => linkOk l && n ≤ 2
  | .ident l m => linkOk l && m.msg.digest.length == 32
  | .speedRefuse f => linkOk f.link
  | .retrain r => linkOk r.link
  | .linkRetrainTimeout l | .replayTimeout l | .speedRaiseTrigger l => linkOk l
  | .speedLowerWindow l u => linkOk l && u ≤ 100
  | .packetForward l p | .sprayEscapeTimeout l p => linkOk l && p.ok
  | .transmitUnderrun l | .cutThroughStepDown l | .ethFrameReceive l _ | .pfcRepeat l _ | .pfcReceive l _ _ => linkOk l
  | .pfcSend l _ f => linkOk l && f ≤ 196608
  | .lldpTransmit l | .neighborSolicitation l _ => linkOk l
  | .lldpReceive l _ _ d => linkOk l && d.length == 32
  | .ecnRateIncrease q => qpOk q
  | .digestAnnounce => true
  | .digest h ce b a => Packet.ok ⟨h, ce, b, a.tag, a.link, a.intact⟩
  | .qpCreate h r | .qpDestroy h r | .qpReset h r => portOk h && ringOk r
  | .send p | .ack p | .nak p | .knot p | .wake p => p.ok
  | .ackTimer q | .contextRestoreComplete q => qpOk q
  | .nakRetry q _ | .nakLimitExpiry q _ | .retryTimeout q _ => qpOk q
  | .ctxRestored r p _ => r.ok && panelOk p
  | .allReduce h r | .reduceScatter h r | .allGather h r | .permute h r => portOk h && ringOk r
  | .inboundWrite h _ _ _ | .bar2Read h _ => portOk h
  | .doorbell h r _ => portOk h && ringOk r
  | .ringEnable h r | .ringDisable h r | .doorbellGraceExpiry h r => portOk h && ringOk r
  | .nopRecord h r | .kernel h r | .fence h r | .fenceClear h r | .publish h r | .job h r => portOk h && ringOk r
  | .schedule h r | .snapshot h r | .graftRegister h r | .graftRelease h r => portOk h && ringOk r
  | .windowStart h r | .windowStop h r | .tableRegister h r | .tableRelease h r => portOk h && ringOk r
  | .hint h r | .worklist h r | .model h r => portOk h && ringOk r
  | .hintExpiry p => panelOk p
  | .translationInvalidate h w _ | .eventConsumerWrite h w _ => portOk h && w < 4
  | .completionConsumerWrite h r _ => portOk h && ringOk r
  | .irqHoldoffExpiry h v => portOk h && v.toNat < 68
  | .portRetrain x => portOk x.port
  | .portRetrainComplete h | .hostLost h | .attach h | .hostGraceExpiry h => portOk h
  | .opRequestTick | .capUpdate _ | .ceilingStep | .opChange | .pwrbrkAssert | .pwrbrkDeassert => true
  | .droopDetect g | .droopRecover g _ => g < 16
  | .inputUndervoltage _ | .inputVoltageRecover _ | .inputBrownoutExpiry | .inputOvervoltage _ => true
  | .thermalSample t => t.length == 36
  | .powerOn _ | .powerRemoval => true
  | .boot r _ => r.ok
  | .moduleResetAssert | .moduleResetRelease => true
  | .moduleReset r | .warmReset r => r.ok
  | .panelReset r p => r.ok && panelOk p
  | .powerStateD0 r | .powerStateD1 r | .powerStateD2 r | .powerStateD3 r => r.ok
  | .d1IdleExpiry => true
  | .coreRemap c bad => coreOk c && bad.all (· < 959232)
  | .coreHeartbeatProbe c _ => coreOk c
  | .remapGo r p _ => r.ok && panelOk p
  | .hubAdoption t => t < 4
  | .patrolScrub k _ _ _ | .rowRepair k => k < 16
  | .moduleFatal c _ => 1 ≤ c.toNat && c.toNat ≤ 5
  | .assign _ n => 1 ≤ n.node.toNat && n.node.toNat ≤ 8
  | .leave r | .fabricIdWrite r _ | .read r _ _ | .segReadInitiate r _ _ | .segWriteInitiate r _ _ _ => r.ok
  | .write r _ _ d => r.ok && d.length ≤ 8
  | .segment r _ d => r.ok && d.length ≤ 1024
  | .segReq r _ | .abort r | .corRead r _ _ => r.ok
  | .segTimeout p => p < 5
  | .eventAck _ | .eventRetry | .plcaBeaconLoss | .plcaBeaconReturn => true
  | .lossOfSignal l | .laneFailure l | .pfcQuantaExpiry l _ => linkOk l
  | .rootPortUp x n g _ => x < 4 && n ≤ 16 && g ≤ 64
  | .rootRebuildComplete x => x < 4

end Sys2Proof
end

