-- ==== Sys2Proof/Tests/Slice0.lean ====
section
/-! SUPPORT. Tests: terms that WellFormed refuses, and for every statement with hypotheses states and operands that meet them. -/
set_option Elab.async false

namespace Sys2Proof.Tests
open Sys2Proof Sys2Proof.Machine

/-! ### Small states -/

/-- A kernel of panel 0 on logical core 0. -/
def aKernel : Kernel :=
  { kid := 1, panel := 0, phase := .running, tag := 7, port := 0, ring := 0, recIdx := 0, hostTag := 0, cqe := false, rtype := 1
    job := 0, step := 0, prio := 0, serving := false, layer := 0, mask := 0, affinity := 0, header := 0, home := [0], shift := 0
    fallback := false, width := 1, tesh := false, seed := 0, status := 0, event := 0, forKid := 0, since := 0, saved := [] }

/-- A module that is READY in D0, with panel 0 open on core group 0, its stack and window slot 0 of port 0;
fabric ID 0, node 1. -/
def ready : State :=
  odPut 0x1100 1 1 (odPut 0x1100 2 0 (odPut 0x4000 1 3 (odPut 0x4000 2 1 (odPut 0x4000 5 1 { State.reset with
    startup := { State.reset.startup with phase := .step 5, running := true }
    pins := { State.reset.pins with pwrEn := true, modRstN := true, ready := true }
    ports := [(0, { st := .up, lanes := 8 })]
    panels := [(0, { st := .open, regions := [(0, hubEntry 1 3 1 0 fwOffset), (16, hubEntry 3 2 1 hostBase (2 ^ 41))] })] }))))

/-- The same while core 0 runs a program of four operations under the kernel. -/
def bench : State := { ready with cores := [(0, { kid := 1, progLen := 4 })], kernels := [aKernel] }

def free : OpHdr := ⟨15, 0⟩

/-- Bytes b at address a. -/
def put (a : Nat) (b : Bytes) (s : State) : State := { s with mem := memWrite s.mem a b }

/-- Bytes b at offset a of core 0's store. -/
def inStore (a : Nat) (b : Bytes) (s : State) : State := put (coreStore 0 + a) b s

/-! ### Words of operations, laid out as Tables 4.2, 4.5, 4.6 and 9.3 have them -/

/-- The word of opcode o with the fields at their lowest bits; without a dependency. -/
def word (o : Nat) (fs : List (Nat × Nat)) : Nat := fs.foldl (fun w f => w + f.1 * 2 ^ f.2) (o * 2 ^ 120 + 0xF0 * 2 ^ 112)

def flatWord (o : Nat) (f : FlatF) : Nat :=
  word o [(f.subop.toNat, 108), (f.fmt.toNat, 100), (f.n1.toNat, 80), (f.dst.toNat, 56), (f.a.toNat, 32), (f.b.toNat, 8)]
def rowWord (o : Nat) (f : RowF) : Nat :=
  word o [(f.subop.toNat, 108), (f.fmt.toNat, 100), (f.rows1.toNat, 88), (f.len1.toNat, 72), (f.dst.toNat, 48), (f.a.toNat, 24),
    (f.b.toNat, 0)]
def knotWord (o : Nat) (f : KnotF) : Nat :=
  word o [(f.knot.toNat, 80), (f.value.toNat, 32), (f.mode.toNat, 30), (f.reg.toNat, 24), (f.step.toNat, 23)]
def srcFields (f : NSrcF) : List (Nat × Nat) := [(f.channel.toNat, 71), (f.ca.toNat, 47), (f.stride.toNat, 31)]

/-- The word of an operation of core 0, under the header `free`. -/
def wordOf : Instr → Nat
  | .endOp _ _ => word 0x01 []
  | .loop _ _ k n => word 0x02 [(k.toNat, 110), (n.toNat, 86)]
  | .next _ _ k => word 0x03 [(k.toNat, 110)]
  | .seta _ _ r v => word 0x04 [(r.toNat, 108), (v.toNat, 88)]
  | .adda _ _ r v => word 0x05 [(r.toNat, 108), (v.toNat, 88)]
  | .waitq _ _ m => word 0x06 [(m.toNat, 96)]
  | .yield _ _ => word 0x07 []
  | .commit _ _ => word 0x08 []
  | .phase _ _ p => word 0x09 [(p.toNat, 108)]
  | .stepclose _ _ a => word 0x0A [(a.toNat, 64)]
  | .load _ _ f => word 0x10 [(f.target.toNat, 109), (f.sfmt.toNat, 100), (f.tfmt.toNat, 92), (f.elem.toNat, 68), (f.stride.toNat,
    52),
      (f.scale.toNat, 28)]
  | .pass _ _ f _ => word 0x11 [(f.target.toNat, 109), (f.swap.toNat, 108), (f.column.toNat, 107), (f.start.toNat, 106),
      (f.last.toNat, 105), (f.fuse.toNat, 104), (f.sfmt.toNat, 96), (f.tfmt.toNat, 88), (f.rows1.toNat, 78), (f.base.toNat, 69),
      (f.stride.toNat, 53), (f.src.toNat, 29)]
  | .drain _ _ f => word 0x12 [(f.target.toNat, 109), (f.dest.toNat, 107), (f.rows1.toNat, 97), (f.base.toNat, 88), (f.dst.toNat, 64),
      (f.stride.toNat, 48), (f.desc.toNat, 24)]
  | .nhold _ _ f => word 0x18 [(f.rows1.toNat, 108), (f.fmt.toNat, 100), (f.len1.toNat, 88), (f.src.toNat, 64), (f.stride.toNat, 48)]
  | .nstream _ _ f _ => word 0x19 ([(f.array.toNat, 110), (f.start.toNat, 109), (f.final.toNat, 108), (f.fmt.toNat, 100),
      (f.red1.toNat, 88), (f.cols1.toNat, 81), (f.base.toNat, 72)] ++ srcFields f.src)
  | .ngraft1 _ _ f _ => word 0x1A ([(f.fmt.toNat, 100), (f.red1.toNat, 88), (f.rank1.toNat, 82)] ++ srcFields f.src)
  | .ngraft2 _ _ f _ => word 0x1B ([(f.array.toNat, 110), (f.fmt.toNat, 100), (f.rank1.toNat, 94), (f.cols1.toNat, 87),
      (f.base.toNat, 78)] ++ srcFields f.src)
  | .vbin _ _ f => flatWord 0x20 f
  | .vfma _ _ f => flatWord 0x21 f
  | .vun _ _ f => flatWord 0x22 f
  | .vred _ _ f => rowWord 0x23 f
  | .vrow _ _ f => rowWord 0x24 f
  | .vcvt _ _ f => rowWord 0x25 f
  | .vsoft _ _ f => rowWord 0x26 f
  | .vmask _ _ f => rowWord 0x27 f
  | .vscan _ _ f => word 0x28 [(f.fmt.toNat, 100), (f.width1.toNat, 88), (f.steps1.toNat, 72), (f.dst.toNat, 48), (f.src.toNat, 24),
      (f.state.toNat, 0)]
  | .vopt _ _ k d => word 0x29 [(k.toNat, 108), (d.toNat, 84)]
  | .fload _ _ n a => word 0x30 [(n.toNat, 108), (a.toNat, 84)]
  | .feval _ _ f => flatWord 0x31 f
  | .fderiv _ _ f => flatWord 0x32 f
  | .moveCopy _ _ d | .moveSwatchRead _ _ d | .moveSwatchWrite _ _ d | .moveTable _ _ d | .moveZero _ _ d | .moveSend _ _ d =>
    word 0x38 [(d.toNat, 88)]
  | .stream _ _ n d => word 0x39 [(n.toNat, 110), (d.toNat, 84)]
  | .kadd _ _ f => knotWord 0x40 f
  | .kset _ _ f => knotWord 0x41 f
  | .kwaitge _ _ f => knotWord 0x42 f
  | .kwaiteq _ _ f => knotWord 0x43 f
  | .spaceWait _ _ n k => knotWord 0x42 { knot := 0, value := k, mode := 2, reg := n, step := false }
  | .dataWait _ _ n k => knotWord 0x42 { knot := 0, value := k, mode := 3, reg := n, step := false }
  | .karrive _ _ f => word 0x44 [(f.knot.toNat, 80), (f.gen.toNat, 64), (f.mode.toNat, 30), (f.reg.toNat, 24), (f.step.toNat, 23)]
  | .scommit _ _ n k => word 0x48 [(n.toNat, 106), (k.toNat, 82)]
  | .srelease _ _ n k => word 0x49 [(n.toNat, 106), (k.toNat, 82)]
  | _ => word 0x00 []

/-- The program of core 0 with operation i at n. -/
def opAt (n : Nat) (i : Instr) (s : State) : State := inStore (programOffset + 16 * n) (toLe 16 (wordOf i)) s

/-- The program of core 0 begins with i. -/
def op (i : Instr) (s : State) : State := opAt 0 i s

/-- Core 0 has come to i, which can be dispatched, and another operation follows it. -/
def Comes (i : Instr) (s : State) : Prop := CanDispatch s 0 free i ∧ ReadsOp s 0 1

/-- The same with empty queues. -/
def Ready (i : Instr) (s : State) : Prop := OpReady s 0 free i ∧ ReadsOp s 0 1 ∧ kernelOnCore s 0 = some aKernel

/-- The state with i in its queue. -/
def sent (i : Instr) (s : State) : State := enqueued 0 free i s

theorem witness_control : (∀ i ∈ [Instr.nop 0 free, .loop 0 free 0 5, .seta 0 free 15 0xFFFFF, .adda 0 free 1 1, .waitq 0 free 0xFFFF,
    .yield 0 free, .phase 0 free 5, .commit 0 free, .endOp 0 free], Comes i (op i bench)) ∧
    (∀ i ∈ [Instr.nop 0 free, .loop 0 free 0 5, .next 0 free 3, .vbin 0 free ⟨0, 0x21, 0, 4, 1, 2⟩, .moveCopy 0 free 0],
      decodeOp 0 (opWord bench 0 (coreOf bench 0).pc.toNat) ≠ some i.asWord) ∧
    (coreOf bench 0).loops.length ≠ (3 : BitVec 2).toNat ∧ atOp (op (.loop 0 free 3 0) bench) 0 (.loop 0 free 3 0) = true ∧
    atOp (op (.next 0 free 3) bench) 0 (.next 0 free 3) = true := by
  simp only [Comes, CanDispatch, ReadsOp, Alive]; and_intros <;> decide +kernel

/-- Core 0 stands at i in a loop with n iterations left. -/
def looping (n : Nat) (i : Instr) : State := updCore 0 (fun x => { x with pc := 2, loops := [⟨n, 1⟩] }) (opAt 2 i bench)

theorem witness_loops : (∀ n ∈ [1, 2], CanDispatch (looping n (.next 0 free 0)) 0 free (.next 0 free 0) ∧
      (coreOf (looping n (.next 0 free 0)) 0).loops.getLast? = some ⟨n, 1⟩) ∧ ReadsOp (looping 1 (.next 0 free 0)) 0 3 ∧
    atOp (looping 1 (.endOp 0 free)) 0 (.endOp 0 free) = true ∧ (coreOf (looping 1 (.endOp 0 free)) 0).loops ≠ [] ∧
    (let s := updCore 0 (fun x => { x with pc := 3 }) (opAt 3 (.nop 0 free) bench)
     CanDispatch s 0 free (.nop 0 free) ∧ (coreOf s 0).progLen ≤ 3 + 1) := by
  simp only [CanDispatch, ReadsOp, Alive]; and_intros <;> decide +kernel

theorem witness_waits :
    (∀ q < 13, bitOf 0xFFFF q = true → (queueAt (coreOf (op (.waitq 0 free 0xFFFF) bench) 0) q).entries = []) ∧
    queuesEmpty (coreOf (op (.yield 0 free) bench) 0) = true ∧ ownerOfCore (op (.phase 0 free 5) bench) 0 = some 0 ∧
    kernelOnCore (op (.yield 0 free) bench) 0 = some aKernel ∧
    ReadsOp (saveSpools 0 0 (op (.commit 0 free) bench)) 0 1 := by
  simp only [ReadsOp]; and_intros <;> decide +kernel

/-- A queue entry of core 0. -/
def entry (i : Instr) : QEntry :=
  { idx := 0, cmd := i, areg := [], depQ := 15, need := 0, started := true, ready := true, move := 0, expiries := 0, seq := 0 }

/-- The bench with operations in queue q. -/
def queued (q : Nat) (es : List QEntry) : State := updQueue 0 q (fun x => { x with disp := es.length, entries := es }) bench

/-- The bench with operations in queue q as core 0 comes to the word w. -/
def stalled (q n w : Nat) : State :=
  inStore programOffset (toLe 16 w) (queued q (List.replicate n { entry (.nop 0 free) with started := false, ready := false }))

theorem witness_stalls :
    (∃ q < 13, bitOf 0x200 q = true ∧ (queueAt (coreOf (stalled 9 1 (wordOf (.waitq 0 free 0x200))) 0) q).entries ≠ []) ∧
    CanDispatch (stalled 9 1 (wordOf (.waitq 0 free 0x200))) 0 free (.waitq 0 free 0x200) ∧
    (∀ e ∈ [(Instr.yield 0 free), .commit 0 free, .endOp 0 free], CanDispatch (stalled 9 1 (wordOf e)) 0 free e ∧
      queuesEmpty (coreOf (stalled 9 1 (wordOf e)) 0) = false) ∧
    (let s := stalled 9 1 (9 * 2 ^ 116)
     atOp s 0 (.nop 0 ⟨9, 0⟩) = true ∧ staticCause s 0 ⟨9, 0⟩ (.nop 0 ⟨9, 0⟩) = none ∧
       depMet (coreOf s 0) 9 (needOf (coreOf s 0) ⟨9, 0⟩) = false) ∧
    (∀ e ∈ [(9, Instr.vbin 0 free ⟨0, 0x21, 0, 4, 1, 2⟩), (11, .moveCopy 0 free 0)], let s := stalled e.1 16 (wordOf e.2)
     atOp s 0 e.2 = true ∧ staticCause s 0 free e.2 = none ∧ 16 ≤ (queueAt (coreOf s 0) e.1).entries.length) ∧
    panelOnCore (queued 9 [entry (.nop 0 free)]) 0 = some 0 ∧
    (queueAt (coreOf (queued 9 [entry (.nop 0 free)]) 0) 9).entries = [entry (.nop 0 free)] := by
  simp only [CanDispatch, Alive]; and_intros <;> decide +kernel

def aLoad : Instr := .load 0 free ⟨0, 0x10, 0x10, 0, 16, 0⟩

theorem witness_load : Ready aLoad (op aLoad bench) ∧ (pairShape 0x10 0x10).isSome = true ∧
    badOperand [strided (caAddr (coreOf (sent aLoad (op aLoad bench)) 0) 0) 128 128 (codeBytes 0x10 128), (0, 0)] = none := by
  simp only [Ready, ReadsOp, OpReady, CanDispatch, Alive]; and_intros <;> decide +kernel
/-- A buffer of binary16-class rows, loaded. -/
def aBuffer : Buffer := { loaded := true, sfmt := 0x10, tfmt := 0x10, rows := 128, square := true }

/-- The bench with such a buffer in array 0. -/
def loadedBench : State := updArr 0 0 (fun a => { a with buf0 := aBuffer }) bench

def aPass : PassF :=
  { target := 0, swap := false, column := true, start := true, last := true, fuse := true, sfmt := 0x10, tfmt := 0x10, rows1 := 0
    base := 511, stride := 0, src := 0 }

theorem witness_pass : (∀ mis ∈ [[], [0]], Ready (.pass 0 free aPass mis) (op (.pass 0 free aPass mis) loadedBench)) ∧
    pairShape 0x10 0x10 = some (128, 1) ∧
    (let x := coreOf (sent (.pass 0 free aPass [0]) (op (.pass 0 free aPass [0]) loadedBench)) 0
     x.arrays.all (·.2.held == []) = true ∧ aPass.base.toNat + (1 + 1 - 1) / 1 ≤ 512 / 1 ∧ passBufs x aPass false = [(0, aBuffer)] ∧
     badOperand [strided (caAddr x aPass.src) 1 0 (rowBytes 0x10 128)] = none) := by
  simp only [Ready, ReadsOp, OpReady, CanDispatch, Alive]; and_intros <;> decide +kernel

def aHeld : HeldPass := { f := aPass, src := 0, buf := aBuffer, rows := [0], attempts := 1 }
def heldBench : State := updArr 0 0 (fun a => { a with held := [aHeld] }) loadedBench

theorem witness_rerun : panelOnCore heldBench 0 = some 0 ∧ (arrOf (coreOf heldBench 0) 0).held = [aHeld] ∧
    (coreOf heldBench 0).failed = false ∧ (coreOf heldBench 0).awaitHost = false ∧ (coreOf heldBench 0).lost = false ∧
    aHeld.rows.filter [].contains = [] ∧ aHeld.rows.filter [0].contains ≠ [] ∧ aHeld.attempts + 1 < odGet heldBench 0x2100 2 ∧
    odGet heldBench 0x2100 2 ≤ { aHeld with attempts := 2 }.attempts + 1 := by decide +kernel

/-- The bench with one final row, 0, of array 0. -/
def drainBench : State := updArr 0 0 (fun a => { a with rows := [(0, { final := true })] }) (inStore 0 [0x10] bench)

def aDrain (dest : BitVec 2) : DrainF := { target := 0, dest := dest, rows1 := 0, base := 0, dst := 0x100, stride := 64, desc := 0 }

theorem witness_drain : (∀ d ∈ [0, 1, 2], Ready (.drain 0 free (aDrain d)) (op (.drain 0 free (aDrain d)) drainBench)) ∧
    (rowInfo (coreOf drainBench 0) (rowPlace 0 0 0).1 (rowPlace 0 0 0).2) = { width := 128, final := true } ∧
    (rowInfo (coreOf bench 0) (rowPlace 0 0 0).1 (rowPlace 0 0 0).2).final = false ∧
    (let s1 := sent (.drain 0 free (aDrain 0)) (op (.drain 0 free (aDrain 0)) drainBench)
     let x := coreOf s1 0
     badOperand [strided (caAddr x 0x100) 1 512 512] = none ∧
     convGate s1 0 0 x 0 true (convDesc (storeRead s1 0 0 32)) 1 128 = .go ∧
     badOperand (convExtents x (convDesc (storeRead s1 0 0 32)) 0x800 1 128 512 512) = none) := by
  simp only [Ready, ReadsOp, OpReady, CanDispatch, Alive]; and_intros <;> decide +kernel

def aStream : NSrcF := ⟨false, 0, 1⟩
def needles : List Instr :=
  [.nhold 0 free ⟨7, 0x10, 0, 0, 1⟩, .nstream 0 free ⟨0, true, true, 0x10, 0, 0, 511, aStream⟩ 0,
   .nstream 0 free ⟨0, true, true, 0x10, 0, 0, 511, aStream⟩ 2, .ngraft1 0 free ⟨0x10, 0, 0, aStream⟩ 2,
   .ngraft2 0 free ⟨0, 0x10, 0, 0, 511, aStream⟩ 2]

theorem witness_needle : (∀ i ∈ needles, Ready i (op i bench)) ∧ heldOk 0x10 = true ∧
    badOperand [strided 0 8 8 (rowBytes 0x10 1)] = none ∧ needleOk 0x10 = true ∧
    (∀ i ∈ needles, let s1 := sent i (op i bench)
     let x := coreOf s1 0
     x.held.rows = 0 ∧ badOperand (nExtent x 0x10 1 1 aStream) = none ∧ (nTake 0 x 0x10 1 1 aStream s1).isSome = true ∧
       x.arrays = [] ∧ 2 < odGet s1 0x2100 2) ∧
    (let x := coreOf (updCore 0 (fun x => { x with held := { fmt := 0x10, rows := 1, len := 1, data := [0, 0] }
                                                   arrays := [(0, { rows := [(511, { fuse := true })] })] }) bench) 0
     511 + x.held.rows ≤ 512 ∧ (sget {} (arrOf x 0).rows (511 + 0)).fuse = true) := by
  simp only [Ready, ReadsOp, OpReady, CanDispatch, Alive]; and_intros <;> decide +kernel

def aFlat : FlatF := { subop := 0, fmt := 0x21, n1 := 0, dst := 4, a := 1, b := 2 }
def aRow : RowF := { subop := 0, fmt := 0x21, rows1 := 0, len1 := 0, dst := 4, a := 1, b := 8 }
def fromDrain : DrainedRows := ⟨1, 1, [0x3F80_0000]⟩
def vectors : List Instr :=
  [.vbin 0 free aFlat, .vbin 0 free { aFlat with subop := 5, a := drainedCA }, .vfma 0 free aFlat, .vun 0 free aFlat,
    .vred 0 free aRow,
   .vrow 0 free aRow, .vrow 0 free { aRow with subop := 3 }, .vsoft 0 free aRow, .vmask 0 free { aRow with subop := 1 },
   .vscan 0 free ⟨0x21, 0, 0, 4, 1, 8⟩]

theorem witness_vector :
    (∀ i ∈ vectors, Ready i (op i bench) ∧
      (operandA 0 0 (coreOf (sent i (op i bench)) 0) 0x21 1 (.flat 1) (sent i (op i bench))).isSome = true ∧
      (operandA 0 0 (coreOf (sent i (op i bench)) 0) 0x21 1 (.rows 1 1) (sent i (op i bench))).isSome = true) ∧
    badOperand ((32, 4) :: [(16, 4)] ++ extA (coreOf bench 0) 0x21 1 1) = none ∧
    badOperand ([(32, 4), (64, 16)] ++ extA (coreOf bench 0) 0x21 1 1) = none ∧
    badOperand [(32, 4), (8, 8), (64, 4)] = none ∧
    (let s := updCore 0 (fun x => { x with drained := [fromDrain] }) bench
     (operandA 0 0 (coreOf s 0) 0x21 drainedCA (.flat 1) s).isSome = true ∧
     (operandA 0 0 (coreOf s 0) 0x21 drainedCA (.rows 1 1) s).isSome = true) ∧
    storeNat bench 0 64 3 + 1 - 1 ≤ 16777215 := by
  simp only [Ready, ReadsOp, OpReady, CanDispatch, Alive]; and_intros <;> decide +kernel
/-- The bench with a descriptor of a conversion to binary16 at CA 8. -/
def cvtBench : State := inStore 64 [0x10] bench
def aCvt : Instr := .vcvt 0 free { aRow with dst := 0x100 }

theorem witness_convert : Ready aCvt (op aCvt cvtBench) ∧
    (let s1 := sent aCvt (op aCvt cvtBench)
     let x := coreOf s1 0
     let d := convDesc (storeRead s1 0 64 32)
     badOperand [(64, 32)] = none ∧ convGate s1 0 0 x 0 false d 1 1 = .go ∧
     badOperand (extA x 0x21 1 1 ++ convExtents x d 0x800 1 1 2 0) = none ∧ (operandA 0 0 x 0x21 1 (
       .rows 1 1) s1).isSome = true) := by
  simp only [Ready, ReadsOp, OpReady, CanDispatch, Alive]; and_intros <;> decide +kernel

/-- An update descriptor of one row of 32 columns, with its group table at 0x1000. -/
def anUpdate : Bytes :=
  toLe 12 0 ++ toLe 2 1 ++ toLe 2 32 ++ toLe 12 0 ++ toLe 4 0x10 ++ toLe 4 0x1000 ++ toLe 4 0 ++ toLe 4 0x2000 ++ toLe 4 0 ++
    toLe 4 0x3000 ++ toLe 4 0 ++ toLe 8 0 ++ toLe 8 0x1000 ++ toLe 8 0 ++ toLe 8 0x8000

def optBench : State := op (.vopt 0 free 0 0) (put 0x1000 (toLe 4 groupMagic) (inStore 0 anUpdate bench))
def optDesc : UpdDesc := updDesc (storeRead (sent (.vopt 0 free 0 0) optBench) 0 0 128)

theorem witness_update : Ready (.vopt 0 free 0 0) optBench ∧ badOperand [(0, 128)] = none ∧
    (let s1 := sent (.vopt 0 free 0 0) optBench
     let x := coreOf s1 0
     (∀ r ∈ updRegions s1 optDesc, grants s1 0 false r.2.1 r.2.2 = true ∧ (r.1 = true → grants s1 0 true r.2.1 r.2.2 = true)) ∧
     updCause s1 0 0 x 0 optDesc = none ∧ badOperand (updExtents s1 0 x optDesc) = none ∧
     snapHolds s1 0 optDesc.layer 0 = false ∧ optDesc.has 1 = false ∧ optDesc.has 4 = false ∧
     clipRegion s1 0 optDesc.table 0 optDesc.tag = none) := by
  simp only [Ready, ReadsOp, OpReady, CanDispatch, Alive]; and_intros <;> decide +kernel

theorem witness_close : Ready (.stepclose 0 free 0x1000) (op (.stepclose 0 free 0x1000) bench) ∧
    grants (sent (.stepclose 0 free 0x1000) (op (.stepclose 0 free 0x1000) bench)) 0 true 0x1000 32 = true ∧
    layerRecords (sent (.stepclose 0 free 0x1000) (op (.stepclose 0 free 0x1000) bench)) 0 0x1000 = [] := by
  simp only [Ready, ReadsOp, OpReady, CanDispatch, Alive]; and_intros <;> decide +kernel

/-- The bench with a zero image in slot 0. -/
def slotBench : State := updCore 0 (fun x => { x with fslots := [(0, [])] }) bench

theorem witness_functions :
    (∀ i ∈ [Instr.fload 0 free 15 0, .feval 0 free aFlat, .fderiv 0 free aFlat], Ready i (op i slotBench)) ∧
    badOperand [(0, imageSize)] = none ∧ slotImage (coreOf slotBench 0) 0 = some [] ∧ badOperand [(32, 4), (16, 4), (8,
      4)] = none := by
  simp only [Ready, ReadsOp, OpReady, CanDispatch, Alive]; and_intros <;> decide +kernel

/-- Each operation that starts at once goes on to the next one, and its kernel runs on. -/
def goesOn (i : Instr) (s : State) : Bool :=
  match exec i (op i s) with
  | .next t => (coreOf t 0).pc = 1 && t.kernels == [aKernel] && (queueAt (coreOf t 0) (queueOf i)).disp = 1
  | _ => false

theorem test_operations_go_on :
    ∀ e ∈ [(aLoad, bench),
        (.drain 0 free (aDrain 0), drainBench), (.drain 0 free (aDrain 1), drainBench), (.drain 0 free (aDrain 2), drainBench),
        (aCvt, cvtBench), (.stepclose 0 free 0x1000, bench), (.feval 0 free aFlat, slotBench)] ++
        (needles ++ vectors).map fun i => (i, bench), goesOn e.1 e.2 = true := by
  decide +kernel

/-- A descriptor of kind k at CA 0, from address 0 to address 0x100, one byte. -/
def moveBench (k : Nat) : State := inStore 6 (toLe 6 (if k = 3 then 0 else 0x100) ++ toLe 1 k ++ toLe 3 0 ++ toLe 3 (
  if k = 3 then 63 else 0))
  (if k = 5 then { bench with qps := [(0, { st := .ready, owner := 0 })] } else bench)

theorem witness_moves :
    (∀ e ∈ [(Instr.moveCopy 0 free 0, 0), (.moveTable 0 free 0, 3), (.moveZero 0 free 0, 4), (.moveSend 0 free 0, 5)],
      let s := op e.1 (moveBench e.2)
      let s1 := sent e.1 s
      let d := (readDesc s1 0 0).1
      Ready e.1 s ∧ d.kind = e.2 ∧ badOperand [(0, 64)] = none ∧ descCause s1 0 0 d (readDesc s1 0 0).2 false = none) ∧
    (let i := Instr.stream 0 free 0 0
     let s := op i (inStore 6 (toLe 6 0) bench)
     Ready i s ∧ descCause (sent i s) 0 0 (readDesc (sent i s) 0 0).1 (readDesc (sent i s) 0 0).2 true = none) ∧
    (let s1 := sent (.moveSend 0 free 0) (op (.moveSend 0 free 0) (moveBench 5))
     grants s1 0 false (shiftAddrOn s1 0 0x100) 32 = true ∧
       sendCause s1 0 (readDesc s1 0 0).1 (sendRec s1 (shiftAddrOn s1 0 0x100)) = none) := by
  simp only [Ready, ReadsOp, OpReady, CanDispatch, Alive]; and_intros <;> decide +kernel

/-- A swatch of 17,408 bytes opened or sealed by a MOVE of kind k. -/
theorem witness_swatch_moves :
    ∀ e ∈ [(Instr.moveSwatchRead 0 free 0, 1), (.moveSwatchWrite 0 free 0, 2)],
      let s := op e.1 (inStore 6 (toLe 6 0x1000 ++ toLe 1 e.2 ++ toLe 3 0 ++ toLe 3 17407) bench)
      let s1 := sent e.1 s
      let d := (readDesc s1 0 0).1
      Ready e.1 s ∧ d.kind = e.2 ∧ descCause s1 0 0 d (readDesc s1 0 0).2 false = none := by
  simp only [Ready, ReadsOp, OpReady, CanDispatch, Alive]; decide +kernel

/-- A MOVE of 64 bytes from address 0 to address 0x1000. -/
def aMove : Move :=
  { id := 1, kid := 1, ca := 0, d := { n0 := 64, dst := 0x1000 }, channel := none, pos := 0, landed := 0, recorded := 0
    finalRec := true, parked := none, fault := none, faultNo := none, stopped := false, hostlost := false, data := [], handed := false
    done := false }

def aReq : MergeReq := ⟨0, 0, 0x1000, 64, [(1, 64)]⟩

/-- The bench with the move under way, and a merge window of w. -/
def moving (w : Nat) : State := odPut 0x2700 2 w (updCore 0 (fun x => { x with moves := [aMove] }) bench)

theorem witness_requests :
    issuing (coreOf (moving 0) 0) = some aMove ∧ (coreOf (moving 0) 0).merge = none ∧ aMove.request = (0, 0x1000, 64) ∧
    odGet (moving 0) 0x2700 2 = 0 ∧ odGet (moving 8) 0x2700 2 ≠ 0 ∧ panelOnCore (moving 0) 0 = some 0 ∧
    Lands (moving 0) 0 aMove aReq ∧ Lands (moving 8) 0 aMove aReq ∧ aMove.cut = false ∧
    moveOf (updCore 0 (fun x => { x with merge := none }) (updCore 0 (fun x => { x with merge := some aReq }) (moving 8))) 0 1 =
      some aMove := by
  simp only [Lands]; and_intros <;> decide +kernel

/-- Its last byte has landed. -/
def movedAll : Move := { aMove with pos := 64, landed := 64 }

theorem witness_retire :
    moveOf (moving 0) 0 1 = some aMove ∧ moveComplete (coreOf (moving 0) 0) aMove = false ∧
    moveComplete (coreOf (moving 0) 0) movedAll = true ∧ movedAll.done = false := by decide +kernel

/-- A move with completion records into window 0 of port 0, all its chunks delivered. -/
def hostMove : Move :=
  { movedAll with d := { aMove.d with dst := hostBase, records := true }, finalRec := false }

/-- The bench with that move; the records of window 0 lie at offset 0, its page table at 0x2000. -/
def hostBench : State :=
  put 0x2000 (toLe 8 3) (updSlot 0 0 (fun b => { b with tabBase := 0x2000, tabEntries := 16, length := 0x10000 })
    (odPut 0x2705 1 hostBase (updCore 0 (fun x => { x with moves := [hostMove] }) bench)))

theorem witness_chunk :
    let a := recordAddr hostBench 0 hostMove
    hostMove.chunksDone = 1 ∧ grants hostBench 0 true a 16 = true ∧ hostGone hostBench a = false ∧
    (translate (portOfAddr a) (windowOf a).2.1 (windowOf a).2.2 (moverCount 0 1 1 hostBench)).1 = .ok 0 := by decide +kernel

/-- A move that met a bad page, before it has a number. -/
def faultMove : Move := { aMove with fault := some (hostBase, 3) }
def faultBench : State := updCore 0 (fun x => { x with moves := [faultMove] }) bench
def pendingBench : State := updPanel 0 (fun x => { x with faults := [⟨4, 1, 0, 1, hostBase, 1⟩] }) bench

theorem witness_faults :
    moveOf faultBench 0 1 = some faultMove ∧ faultMove.faultNo = none ∧ faultMove.d.records = false ∧
    (faultBy pendingBench 0 4).isSome = true := by decide +kernel

/-- The bench with knot 0 of core 0 at 5, and another core waiting on knot 1. -/
def knotBench : State :=
  { setKnot 0 { value := 5, poisoned := false } (setKnot 1 { poisoned := false } bench) with
    waiters := [⟨1, none, 3, 0x42, 0, 1, 0, 0, 0⟩] }
def knotOps : List Instr :=
  [.kadd 0 free ⟨0, 1, 0, 0, false⟩, .kset 0 free ⟨0, 1, 0, 0, false⟩, .kwaitge 0 free ⟨0, 5, 0, 0, false⟩,
   .kwaiteq 0 free ⟨0, 6, 0, 0, false⟩, .karrive 0 free ⟨0, 0, 0, 0, false⟩]

theorem witness_knots :
    OthersWait knotBench 0 1 ∧ OthersWait knotBench 0 0 ∧ (∀ i ∈ knotOps, Ready i (op i knotBench)) ∧
    (∀ i ∈ knotOps, let s1 := sent i (op i knotBench)
     (∀ r ∈ [48, 49, 50], knotRoute s1 0 (shiftKnotOn s1 0 0) r = .here 0) ∧ (knotOf (taintRestore 0 0 s1) 0).poisoned = false ∧
       knotOperand (coreOf s1 0) 48 1 0 0 false = some 1 ∧ knotOperand (coreOf s1 0) 16 0 0 0 false = some 0) ∧
    (knotOf bench 0).poisoned = true ∧ knotPanel bench 0 = some 0 ∧
    waitMet (knotOf knotBench 0) 0x42 5 = true ∧ waitMet (knotOf knotBench 0) 0x43 6 = false := by
  simp only [Ready, ReadsOp, OpReady, CanDispatch, Alive, OthersWait]; and_intros <;> decide +kernel

/-- What a knot of 3 members with arrivals 1 and 2 holds, and one of a single member. -/
theorem witness_arrivals :
    (BitVec.ofNat 48 (3 * 2 ^ 32 + 1 * 2 ^ 16)).toNat = 3 * 2 ^ 32 + 1 * 2 ^ 16 ∧ 1 + 1 < 3 ∧
    (BitVec.ofNat 48 (1 * 2 ^ 32 + (1 - 1) * 2 ^ 16)).toNat = 1 * 2 ^ 32 + (1 - 1) * 2 ^ 16 ∧
    (BitVec.ofNat 48 (65535 * 2 ^ 32 + 65534 * 2 ^ 16)).toNat = 65535 * 2 ^ 32 + 65534 * 2 ^ 16 := by decide

/-- The bench with a CONTROL queue pair 3 to fabric ID 9. -/
def awayBench : State := { bench with qps := [(3, { st := .ready, control := true, owner := 0, remFab := 9, remQp := 1 })] }
def awayOps : List Instr :=
  [.kadd 0 free ⟨0x0900_0000, 1, 0, 0, false⟩, .kset 0 free ⟨0x0900_0000, 1, 0, 0, false⟩,
   .kwaitge 0 free ⟨0x0900_0000, 1, 0, 0, false⟩, .kwaiteq 0 free ⟨0x0900_0000, 1, 0, 0, false⟩,
   .karrive 0 free ⟨0x0900_0000, 1, 0, 0, false⟩]

theorem witness_away :
    (∀ i ∈ awayOps, let s := op i awayBench
      Ready i s ∧ (qpOf s 3).waiting = [] ∧ (qpOf s 3).unacked.length < 256 ∧ (qpOf s 3).control = true ∧
      sendOpen s 0 0 9 (coreOf s 0).nextMove = false ∧ secure s 0 = false) ∧
    (∀ i ∈ awayOps, let s1 := sent i (op i awayBench)
      ∀ r ∈ [48, 49, 50], knotRoute s1 0 (shiftKnotOn s1 0 0x0900_0000) r = .away 3) := by
  simp only [Ready, ReadsOp, OpReady, CanDispatch, Alive]; and_intros <;> decide +kernel
/-- The bench with spool 0 of panel 0: depth 2 of 64-byte entries in core 0's store, producer core 0, consumer core `k`, its
producer knot 2 and its consumer knot 3. -/
def spoolBench (k : Byte) : State :=
  put 0x3000 (toLe 4 0x5053_4A47 ++ toLe 4 2 ++ toLe 4 64 ++ [0, k, 0, 0] ++ toLe 8 (coreStore 0) ++ toLe 4 2 ++ toLe 4 3)
    (odPut 0x2806 1 0x3000 (setKnot 2 { poisoned := false } (setKnot 3 { poisoned := false } bench)))

theorem witness_spools :
    (∀ e ∈ [(Instr.spaceWait 0 free 0 2, 1), (.scommit 0 free 0 2, 1), (.dataWait 0 free 0 1, 0), (.srelease 0 free 0 2, 0)],
      let s1 := sent e.1 (op e.1 (spoolBench e.2))
      Ready e.1 (op e.1 (spoolBench e.2)) ∧ spoolOk s1 0 0 = true ∧ (spoolRec s1 0 0).producer = 0 ∧
        (spoolRec s1 0 0).consumer = (e.2 : Byte).toNat ∧ (knotOf s1 2).poisoned = false ∧ (knotOf s1 3).poisoned = false) ∧
    OthersWait (spoolBench 1) 0 2 ∧ panelOpen (spoolBench 1) 0 = true := by
  simp only [Ready, ReadsOp, OpReady, CanDispatch, Alive, OthersWait]; and_intros <;> decide +kernel

/-- Core 0 waits on knot 5, for as long as the watchdog allows. -/
def waitBench (mode : Nat) : State :=
  odPut 0x2800 1 mode { setKnot 5 { poisoned := false }
    (queued 12 [{ entry (.kwaitge 0 free ⟨5, 1, 0, 0, false⟩) with ready := false }]) with waiters := [⟨5, none, 0, 0x42, 0, 1, 0,
      0, 0⟩] }

theorem witness_watchdog :
    (waitOf (waitBench 0) 0 12).map (·.pos) = some 0 ∧ kernelOnCore (waitBench 0) 0 = some aKernel ∧
    panelOnCore (waitBench 0) 0 = some aKernel.panel ∧ panelQuiesced (waitBench 0) 0 = false ∧
    ((queueAt (coreOf (waitBench 0) 0) 12).entries[0]?).isSome = true ∧
    odGet (waitBench 0) 0x2800 1 = 0 ∧ odGet (waitBench 1) 0x2800 1 ≠ 0 := by decide +kernel

/-- A packet as it stands unacknowledged, refused by a full core. -/
def aHdr : PktHdr :=
  { ver := 1, cls := 2, op := 4, first := true, last := true, trail := false, enc := false, ece := false, keySlot := 0, panel := 0
    dstFab := 9, srcFab := 0, dstQp := 1, srcQp := 3, len := 32, psn := 0, msg := 0, off := 0, nonce := 0 }
def refused (nak : Nat) : OutPkt :=
  { pkt := ⟨aHdr, false, [], [], 0, true⟩, core := 0, move := 0, kid := 1, resends := 0, nak := nak, backoffUs := 2 }
def refusedBench (nak : Nat) : State :=
  updCore 0 (fun x => { x with remoteWait := some 1 }) { awayBench with qps := [(3, { qpOf awayBench 3 with unacked :=
    [refused nak] })] }

theorem witness_retry :
    ((refusedBench 6).qps.findSome? fun e => (e.2.unacked.find? fun o => o.core = 0 && o.nak = 6 && e.2.st = .ready)) =
      some (refused 6) ∧ stillWaits (refusedBench 6) 0 (refused 6) = true := by decide +kernel

/-- A kernel of prio n that waits for core 0. -/
def waitingKernel (n : Nat) : Kernel := { aKernel with kid := 2, phase := .waiting, prio := n }

/-- Cores free, or held by the kernel of prio 0. -/
def freeBench : State := { ready with kernels := [waitingKernel 3] }
def fullBench : State := odPut 0x3401 1 1 { bench with kernels := [aKernel, waitingKernel 3] }
def savedKernel : Kernel := { aKernel with phase := .preempted, saved := [(0, { progLen := 4 })] }
def endBench : State := { bench with cores := [(0, { kid := 1, progLen := 4, ended := true })] }

theorem witness_kernels :
    (∀ j ∈ waitingOf freeBench 0, lostCoreOf freeBench j = none) ∧
    firstByPrio ((waitingOf freeBench 0).filter fun k => unblocked freeBench k && (chooseBase freeBench k).isSome) =
      some (waitingKernel 3) ∧ chooseBase freeBench (waitingKernel 3) = some 0 ∧
    (∀ j ∈ waitingOf fullBench 0, chooseBase fullBench j = none) ∧
    (kernelBy bench 1).isSome = true ∧ kernelDone bench aKernel = false ∧ kernelDone endBench aKernel = true ∧
    endBench.colls.any (·.kid == 1) = false ∧
    firstByPrio (waitingOf fullBench 0) = some (waitingKernel 3) ∧ odGet fullBench 0x3401 1 ≠ 0 ∧
    (∀ j ∈ fullBench.kernels, j.phase = .stopping → j.forKid ≠ 2) ∧
    (basesOf (waitingKernel 3)).filter (canPreempt fullBench (waitingKernel 3)) = [0] ∧
    firstByPrio ([savedKernel].filter fun k => k.panel == 0 && canResume { ready with kernels := [savedKernel] } k) =
      some savedKernel := by decide +kernel

/-- A snapshot of one tensor of 16 bytes at address 0x4000, its list at 0x3000, due at knot 0 = 0. -/
def aSnap : Snap :=
  { id := 1, step := 0, keySlot := 0, list := 0x3000, count := 1, next := 0, dest := 0x5000, head := [], out := [], written := 0
    chunk := [], chunkNo := 0, stream := [], port := 0, ring := 0, recIdx := 0, hostTag := 0, cqe := false }
def snapBench : State :=
  put 0x3008 (toLe 8 0x4000 ++ toLe 8 16) (updPanel 0 (fun x => { x with snap := some aSnap }) bench)

theorem witness_snapshot :
    HubAwake snapBench ∧ (panelOf snapBench 0).snap = some aSnap ∧ knotFab 0 = fabricId snapBench ∧ knotAddrOk 0 = true ∧
    readNat snapBench 0x3008 8 = 0x4000 ∧ readNat snapBench 0x3010 8 = 16 ∧ readNat snapBench 0x3018 4 = 0 ∧
    (0 : Word32).toNat ≤ (knotOf snapBench 0).value.toNat ∧ hubMeets [(0x4000, 16)] snapBench = (none, snapBench) ∧
    grants snapBench 0 false 0x4000 16 = true := by
  simp only [HubAwake, Alive]; and_intros <;> decide +kernel
/-- A restore of panel 0 under way for the unit at address a. -/
def restoring (a : Nat) : State := { ready with restores := [⟨a, 0, some 0, false, false⟩] }

/-- One Root unit rebuilt from three good ports. -/
def rebuildBench : State :=
  { restoring rootBase with root := { mode := 1, ports := (List.range 4).map fun x => (x, { st := 1, capacity := 2 ^ 40 }) } }

/-- The same unit of Crown, with a regeneration entry for it at 0x3000 whose knot shows its step, 0. -/
def regenBench : State :=
  put 0x3000 (toLe 8 0x4000 ++ toLe 4 1 ++ toLe 4 0 ++ toLe 8 0x10000 ++ toLe 4 1 ++ toLe 4 1 ++ toLe 8 0 ++ toLe 4 0 ++ [0x10, 0])
    (odPut 0x2607 1 0x3000 (odPut 0x2608 1 1 (restoring 0x4000)))

theorem witness_restores :
    HubAwake rebuildBench ∧ rebuildBench.restores.find? (fun r => r.line == unitOf rootBase && !r.host && r.knot.isSome) =
      some ⟨rootBase, 0, some 0, false, false⟩ ∧
    restorePath rebuildBench 0 (unitOf rootBase) false = .rebuild ∧ regenFor (restoring 0x4000) 0 0x4000 = none ∧
    restorePath (restoring 0x4000) 0 0x4000 false = .lost 3 ∧ restorePath regenBench 0 0x4000 false = .regenerate ∧
    (match regenFor regenBench 0 0x4000 with
     | some (e, g, i) => regenRegion regenBench 0 e g i = none ∧ masterFails regenBench e g i = none ∧
         masterFails { regenBench with lostLines := [0x10000] } e g i = some 0x10000
     | none => False) := by
  simp only [HubAwake, Alive]; and_intros <;> decide +kernel

/-- A module whose Root port 0 is in state st. -/
def rootBench (mode : Byte) (st : Nat) : State := { ready with root := { mode := mode, ports := [(0, { st := st, capacity :=
  2 ^ 40 })] } }

theorem witness_root :
    (rootPort (rootBench 0 1) 0).st = 1 ∧ ownerOfRoot (rootBench 0 2) 0 = none ∧ (rootPort (rootBench 1 0) 3).st = 0 ∧
    (rootPort (rootBench 1 4) 0).st = 4 ∧ { (rootBench 1 2).root with rebuilding := some 3 }.rebuilding = some 3 ∧
    ownerOfRoot (odPut 0x4000 4 1 (rootBench 0 2)) 0 = some 0 := by decide +kernel

/-- A streamer of two slots at 0x8000 for four entries of 16 bytes at 0x4000; fill n is the next. -/
def streaming (n done : Nat) : State :=
  put 0x3040 (toLe 8 0x4000 ++ toLe 4 16)
    (updPanel 0 (fun x => { x with streamer := some ⟨0x3000, 4, 0x8000, 64, 2, 0, 1, n, [], done, []⟩ }) ready)

theorem witness_streamer :
    HubAwake (streaming 1 0) ∧
    (panelOf (streaming 1 0) 0).streamer = some ⟨0x3000, 4, 0x8000, 64, 2, 0, 1, 1, [], 0, []⟩ ∧
    (panelOf (streaming 2 0) 0).streamer = some ⟨0x3000, 4, 0x8000, 64, 2, 0, 1, 2, [], 0, []⟩ ∧
    readNat (streaming 1 0) 0x3040 8 = 0x4000 ∧ readNat (streaming 1 0) 0x3048 4 = 16 ∧
    grants (streaming 1 0) 0 false 0x3040 16 = true ∧ grants (streaming 1 0) 0 false 0x4000 16 = true ∧
    grants (streaming 1 0) 0 true 0x8000 16 = true ∧
    readMeets [] [(0x4000, 16)] (streaming 1 0) = (none, streaming 1 0) ∧ badSwatch (streaming 1 0) 0x4000 16 = none := by
  simp only [HubAwake, Alive]; and_intros <;> decide +kernel

/-- A table of four rows of two binary32 elements in slot 0, and a request of operation op for row 1 at the engine of tile 0. -/
def aRequest (op : Byte) : TableReq :=
  ⟨0, 1, 1, 0, 0x3000, toLe 4 0x5254_4A47 ++ [op, 0, if op = 1 then 0x21 else 0, 0] ++ toLe 4 1 ++ toLe 4 0 ++ toLe 8 0x4000 ++
    toLe 8 0x5000 ++
    toLe 8 0x6000 ++ [0]⟩
def aTable : Bytes :=
  toLe 4 0 ++ [0x21, 0] ++ toLe 2 2 ++ toLe 8 0 ++ toLe 8 4 ++ toLe 8 0x10000 ++ toLe 8 0x11000 ++ toLe 8 0x12000 ++ toLe 8 0x13000 ++
    toLe 4 4 ++ toLe 4 0 ++ toLe 4 0 ++ toLe 4 4 ++ [1, 0, 0, 0]
def tableBench (op : Byte) : State :=
  put 0x4000 [1] { bench with tableQ := [(0, aRequest op)], tables := [(0, { owner := some 0, desc := aTable })] }

theorem witness_tables :
    (∀ o ∈ ([1, 2, 3] : List Byte), let s := tableBench o
      let q := aRequest o
      HubReady s ∧ s.tableQ.find? (·.1 == 0) = some (0, q) ∧ (s.kernels.any (·.kid == q.kid)) = true ∧ reqCause s q = none ∧
        grants s q.panel false (tableList q).1 (tableList q).2 = true ∧ waitData q [tableList q] s = none ∧
        listCause s q = none ∧ reqRegion s q = none) ∧
    (∀ o ∈ ([1, 2, 3] : List Byte), let q := aRequest o
      let s := noteRead (tableList q).1 (tableList q).2 (tableBench o)
      let d := tableDesc (tableSlot s (q.f 7 1)).desc
      q.f 4 1 = o.toNat ∧ panelKind s q.panel ≠ 2 ∧
        waitData q [(q.f 24 8, 4 * d.n * q.count), (d.map, 4 * d.rows), (d.grad, 64 + d.slots * d.gradStride)] s = none ∧
        waitData q [rowArea d 1] s = none ∧ lostPartly s (q.f 24 8) 8 = none ∧ lostPartly s d.grad 4 = none ∧
        waitData q [(q.f 32 8, 4), (d.grad, 64 + d.slots * d.gradStride)] s = none ∧ readNat s d.grad 4 = 0 ∧
        (coreOf s 0).suppress = 0 ∧ (o = 2 → (scatterFrom d q q.count 0 s).1 = .done)) := by
  simp only [HubReady, Alive]; and_intros <;> decide +kernel

/-- A scatter that finds no slot, and one that meets a lost unit. -/
theorem witness_scatters :
    (let s := { tableBench 2 with tables := [(0, { owner := some 0, desc := aTable.take 56 ++ toLe 4 0 ++ aTable.drop 60 })] }
     (scatterFrom (tableDesc (tableSlot s 0).desc) (aRequest 2) 1 0 s).1 = .full) ∧
    (let s := { tableBench 2 with lostLines := [unitOf (tableDesc aTable).grad] }
     (scatterFrom (tableDesc (tableSlot s 0).desc) (aRequest 2) 1 0 s).1 = .lost) ∧
    panelKind (odPut 0x4000 1 2 (tableBench 1)) 0 = 2 := by decide +kernel

/-- The table's batch window open or shut, and a batch of one lookup under way to this module. -/
def batchBench (k : Word48) : State :=
  setKnot 0 { value := k, poisoned := false } { tableBench 1 with
    tables := (tableBench 1).tables.map fun e => (e.1, { e.2 with flight := [(0, [⟨0, 1, 0, 1⟩])] }) }

theorem witness_batches :
    windowOpen (batchBench 1) (tableDesc (tableSlot (batchBench 1) 0).desc) = true ∧
    windowOpen (batchBench 0) (tableDesc (tableSlot (batchBench 0) 0).desc) = false ∧ fabricId (batchBench 1) = 0 ∧
    (tableSlot (batchBench 1) 0).flight.find? (fun e => e.1 = 0) = some (0, [⟨0, 1, 0, 1⟩]) ∧
    (let d := tableDesc (tableSlot (batchBench 1) 0).desc
     (([2, 1].eraseDups.foldl (fun l n => placeNat n l) []).filter (rowOk d false)) = [1, 2] ∧
       (∀ g ∈ [1, 2], grants (batchBench 1) 0 false (rowArea d g).1 (rowArea d g).2 = true ∧
         lostIn (batchBench 1) (rowArea d g).1 (rowArea d g).2 = none) ∧
       readMeets [] ([1, 2].map (rowArea d)) (batchBench 1) = (none, batchBench 1)) := by
  and_intros <;> decide +kernel

/-- The seam armed for panels 0 and 1 with two slots, and a dense deposit of two elements from panel 0 at its doorbell. -/
def aDeposit (kind : Byte) (slot : Nat) : Bytes :=
  toLe 4 0x4453_4A47 ++ [kind, 0] ++ toLe 2 slot ++ toLe 4 1 ++ toLe 4 9 ++ toLe 4 2 ++ toLe 2 (if kind = 3 then 1 else 0) ++
    toLe 2 0 ++ toLe 4 0 ++ toLe 4 0
def seamBench (x : SeamSlot) (slot : Nat) : State :=
  odPut 0x3001 3 2 (odPut 0x3001 4 4096 (odPut 0x3001 6 1 { updPanel 0 (fun y => { y with seamIdx := some 0 }) ready with
    seam := { armed := true, owner := 2, members := [(0, 0), (1, 1)], slots := [(0, x)], inbox := [(0, aDeposit 1 slot)] } }))

theorem witness_deposits :
    (seamBench {} 0).seam.inbox.find? (·.1 == 0) = some (0, aDeposit 1 0) ∧ fieldNat (aDeposit 1 0) 4 1 = 1 ∧
    isDuplicate (seamBench {} 0) 0 (depositRec (aDeposit 1 0)) (aDeposit 1 0) = false ∧
    depositCause (seamBench {} 0) 0 (depositRec (aDeposit 1 0)) = none ∧
    depositCause (seamBench {} 2) 0 (depositRec (aDeposit 1 2)) = some 2 ∧
    isDuplicate (seamBench { last := [⟨0, 0, 1, aDeposit 1 0, 0, 0⟩] } 0) 0 (depositRec (aDeposit 1 0)) (aDeposit 1 0) = true := by
  decide +kernel

def oneDone : SeamSlot := { st := .releasing, kind := 1, count := 2, set := [0, 1], deposits := [⟨0, 0, 1, aDeposit 1 0, 0, 0⟩] }
def noisyDone : SeamSlot := { oneDone with deposits := [⟨0, 0, 1, aDeposit 1 0, 0, 0⟩, ⟨0, 0, 2, aDeposit 2 0, 0, 0⟩] }

theorem witness_slots :
    (seamSlot (seamBench { st := .filling } 0) 0).st = .filling ∧ (seamSlot (seamBench oneDone 0) 0).st = .releasing ∧
    minContributors (seamBench oneDone 0) ≤ (doneBy (seamBench oneDone 0) oneDone).length ∧
    (doneBy (seamBench { oneDone with deposits := [] } 0) { oneDone with deposits := [] }).length <
      minContributors (seamBench { oneDone with deposits := [] } 0) ∧
    seamNoise (seamBench oneDone 0) = false ∧ noiseMode (seamBench oneDone 0) ≠ 1 ∧
    noiseMode (odPut 0x3001 9 1 (seamBench oneDone 0)) = 1 ∧
    minContributors (seamBench noisyDone 0) ≤ (doneBy (odPut 0x3001 9 1 (seamBench noisyDone 0)) noisyDone).length := by
  decide +kernel
/-- A module whose link 0 is in state st, of a torus of 2 × 1 × 1. -/
def linkBench (x : Link) : State := odPut 0x3100 2 0x010102 (odPut 0x3100 3 2 { ready with links := [(0, x)] })

/-- The same in Ethernet mode. -/
def etherBench (x : Link) : State := odPut 0x3100 1 1 (linkBench x)

def aFlit (n : Nat) (good : Bool) : FlitHdr :=
  { seq := BitVec.ofNat 12 n, ack := 0, cvc := 0, cpanel := 0, ccount := 0, vc := 1, panel := 0, sub := false, crcOk := good
    fecFixed := 0, fecLost := 0 }

theorem witness_links :
    linksPowered (linkBench {}) = true ∧ linkDisabled (linkBench {}) 0 = false ∧ native (linkBench {}) = true ∧
    native (etherBench {}) = false ∧ (linkOf (linkBench { st := .training }) 0).st = .training ∧
    carrying (linkBench { st := .up, lanes := 2 }) 0 = true ∧ carrying (linkBench { st := .config, lanes := 1 }) 0 = true ∧
    (linkOf (linkBench { st := .retraining }) 0).st = .retraining ∧ linkUp (linkBench { st := .quarantine }) true 0 = true ∧
    (2048 ≤ ((aFlit 4095 true).seq - (linkOf (linkBench { st := .up }) 0).rxExpect).toNat) ∧
    ((aFlit 2047 true).seq - (linkOf (linkBench { st := .up }) 0).rxExpect).toNat < 2048 ∧
    (linkOf (linkBench { replay := [{ type := 0, seq := 0 }] }) 0).replay ≠ [] := by decide +kernel
theorem witness_flits : FlitGood (aFlit 0 true) ∧ ¬ FlitGood (aFlit 0 false) ∧ ¬ FlitGood { aFlit 0 true with fecLost := 1 } ∧
    (aFlit 0 true).seq = (linkOf (linkBench { st := .up }) 0).rxExpect ∧
    (let u (n : Nat) := linkBench { st := .up, rxNaks := n }
     (linkOf (updLink 0 (fun x => { x with rxNaks := x.rxNaks + 1 }) (resendAll 0 56 (takeCredits 0 (aFlit 0 true)
       (flitSeen 0 (aFlit 0 true) (u 0))))) 0).rxNaks < 8 ∧
     8 ≤ (linkOf (updLink 0 (fun x => { x with rxNaks := x.rxNaks + 1 }) (resendAll 0 56 (takeCredits 0 (aFlit 0 true)
       (flitSeen 0 (aFlit 0 true) (u 7))))) 0).rxNaks) := by
  simp only [FlitGood]; decide +kernel

/-- An IDENT of the neighbour on link 0 as the module's own configuration has it. -/
def goodIdent (s : State) : IdentMsg := ⟨1, 1, false, configDigest s⟩

/-- The module with a link in configuration that has taken IDENT m. -/
def agreed (m : IdentMsg) : State :=
  updLink 0 (fun x => { x with nbFab := m.fabric, nbLink := m.link, nbDigest := m.digest })
    (flitTaken 0 (aFlit 0 true) (linkBench { st := .config, lanes := 2 }))

theorem witness_agreement :
    identCause (agreed (goodIdent (linkBench {}))) 0 = none ∧ anyLink (linkBench { st := .up }) = true ∧
    anyLink (agreed (goodIdent (linkBench {}))) = false ∧ identCause (agreed ⟨0, 0, false, []⟩) 0 = some 1 ∧
    identCause (agreed ⟨255, 0, true, []⟩) 0 = some 1 ∧ fabricSet (linkBench { st := .up }) = true ∧ anyLink (linkBench {}) = false ∧
    (linkOf (linkBench { st := .retraining, nbFab := 1, nbLink := 1, nbDigest := [1] }) 0).nbDigest ≠ [] := by decide +kernel

/-- A packet for fabric ID d of class k, its payload n bytes long. -/
def aPacket (k : BitVec 2) (d : BitVec 8) (n : Nat) : Packet :=
  ⟨{ aHdr with cls := k, dstFab := d, len := BitVec.ofNat 16 n }, false, List.replicate n 0, [], 0, true⟩
/-- A packet that link 0 sends or has sent. -/
def aWait (n : Nat) : LinkWait := ⟨aPacket 1 1 8, 1, 0, 0, 0, n, none⟩

theorem witness_forwarding :
    linkUp (linkBench { st := .up }) false 0 = true ∧
    headerBroken (aPacket 1 1 8) = false ∧ headerBroken { aPacket 1 1 8 with payload := [] } = true ∧
    (aPacket 1 1 8).hdr.dstFab.toNat ≠ fabricId (linkBench { st := .up }) ∧
    (linkOf (linkBench { st := .up, rxVc := some 1 }) 0).rxVc ≠ some 0 ∧ (linkOf (linkBench { st := .up, rxVc := some 0 }) 0).rxVc =
      some 0 ∧
    (∀ n ∈ [1, 40], sending (linkOf (linkBench { st := .up, backlog := [aWait n] }) 0) = some (aWait n) ∧
      (aWait n).sent ≤ 32 + (aWait n).pkt.payload.length) ∧
    sending (linkOf (linkBench { st := .up, last := some (aWait 40) }) 0) = some (aWait 40) ∧
    (linkOf (linkBench { ctPackets := 2 ^ 20 }) 0).ctPackets = 2 ^ 20 ∧
    (0, aPacket 1 1 8) ∈ { linkBench {} with sprayWait := [(0, aPacket 1 1 8)] }.sprayWait := by decide +kernel

theorem witness_speed :
    speedLink (linkBench { st := .up, lanes := 2 }) 0 = true ∧
    refuseSpeed (linkBench {}) { st := .up, lanes := 2 } = false ∧ refuseSpeed (linkBench {}) { st := .up, lanes := 1 } = true ∧
    odGet (odPut 0x3100 4 1 (odPut 0x3100 6 50 (linkBench {}))) 0x3100 4 = 1 ∧
    49 < odGet (odPut 0x3100 4 1 (odPut 0x3100 6 50 (linkBench {}))) 0x3100 6 ∧
    (linkOf (linkBench { st := .up, lanes := 2, lowered := 2, speedAsked := some 2 }) 0).speedAsked ≠ some 0 := by decide +kernel

theorem witness_ethernet :
    ethLink (etherBench { st := .up }) 0 = true ∧
    odGet (odPut 0x3100 0xD 3 (odPut 0x3100 0xE 4 (etherBench { st := .up }))) 0x3100 0xE = 4 ∧
    odGet (odPut 0x3100 0xD 3 (odPut 0x3100 0xE 4 (etherBench { st := .up }))) 0x3100 0xD = 3 ∧
    sget 0 (linkOf (etherBench { st := .up, pfcSent := [(0, 1)], rxFill := [(0, 120000)] }) 0).pfcSent 0 = 1 ∧
    192 * 1024 < 2 * sget 0 (linkOf (etherBench { st := .up, pfcSent := [(0, 1)], rxFill := [(0, 120000)] }) 0).rxFill 0 := by
  decide +kernel

/-- A READY queue pair 1 from panel 0 to queue pair 3 of fabric ID 9, its receive ring of one entry at 0x4000 naming region 0 at
0x8000, whose table is at 0x6000; link 0 is up. -/
def aQp (control : Bool) : Qp :=
  { st := .ready, control := control, owner := 0, remFab := 9, remQp := 3, ring := 0x4000, entries := 1, postKnot := 0, doneKnot := 1
    cached := true }
def qpBench (posted : Word48) : State :=
  put 0x4010 (toLe 4 64) (put 0x6000 (toLe 8 0x8000 ++ toLe 8 4096 ++ toLe 2 0 ++ [1, 1]) (odPut 0x3202 1 0x6000 (odPut 0x3203 1 1
    (setKnot 0 { value := posted, poisoned := false } { ready with
      qps := [(1, aQp false), (2, aQp true)], links := [(0, { st := .up, lanes := 2 })] }))))

/-- A SEND of 8 bytes, or a packet of another op, from fabric ID 9 to queue pair q, in at link 0. -/
def inPacket (op : BitVec 8) (q : BitVec 12) (b : Bytes) : Packet :=
  ⟨{ aHdr with op := op, srcFab := 9, dstFab := 0, dstQp := q, srcQp := 3, len := BitVec.ofNat 16 b.length }, false, b, [], 0, true⟩
def eight : Bytes := [1, 2, 3, 4, 5, 6, 7, 8]

theorem witness_send :
    PacketNew (qpBench 1) false (inPacket 1 1 eight) eight ∧
    (∀ k ∈ [0, 1], let t := met (inPacket 1 1 eight) (qpBench (BitVec.ofNat 48 k))
     entryPosted t (qpOf t 1) 0 = decide (k = 1)) ∧
    (let t := met (inPacket 1 1 eight) (qpBench 1)
     attemptOf (qpOf t 1) 0 0 = some ⟨0, 0, 0, none, none⟩ ∧ placeAt t (qpOf t 1) 0x4000 0 8 = some 0x8000 ∧
       placeAt t (qpOf t 1) 0x4000 60 8 = none) ∧
    2 ^ 31 ≤ ((0 : Word32) - { aQp false with rxPrefix := 1 }.rxPrefix).toNat := by
  simp only [PacketNew, PacketGood, HubReady, Alive]; and_intros <;> decide +kernel

/-- A KNOT payload: operation op on knot 7 of core 0 with value 1, from core 2, count 1. -/
def aKnotMsg (op : Byte) : Bytes := toLe 4 7 ++ [op, 0] ++ toLe 6 1 ++ [2, 0, 0, 0] ++ toLe 4 1 ++ toLe 4 0 ++ toLe 8 0

theorem witness_remote :
    (∀ o ∈ ([0x40, 0x41, 0x42, 0x43, 0x44] : List Byte), PacketNew (qpBench 1) true (inPacket 4 2 (aKnotMsg o)) (aKnotMsg o) ∧
      (aKnotMsg o).length = 32 ∧ (knotMsg (aKnotMsg o)).op = o.toNat) ∧
    ((knotMsg (aKnotMsg 0x40)).count - BitVec.ofNat 32 (sget 0 (aQp true).counts 2)).toNat = 1 ∧
    (let t := met (inPacket 4 2 (aKnotMsg 0x40)) (setKnot 7 { poisoned := false } (qpBench 1))
     remoteKnotOk t 0 7 = true ∧ (knotOf t 7).poisoned = false ∧ remoteKnotOk t 0 0x007F_0000 = false ∧ recordsFull t 7 = false ∧
       recordsFull { t with waiters := List.replicate 64 ⟨9, some 9, 2, 0x42, 0, 1, 2, 0, 0⟩ } 7 = true) := by
  simp only [PacketNew, PacketGood, HubReady, Alive]; and_intros <;> decide +kernel

/-- A WAKE with result 0 for the wait of core 0 whose count is 5, and the module as that wait stands. -/
def aWake : Bytes := toLe 4 7 ++ [0, 0, 0, 0] ++ toLe 4 0 ++ [0, 0, 0, 0] ++ toLe 4 5 ++ toLe 8 0
def wakeBench : State :=
  { qpBench 1 with cores := [(0, { kid := 1, progLen := 4, remote := [(2, 5)], remoteWait := some 2 })], kernels := [aKernel] }

theorem witness_wake :
    PacketNew wakeBench true (inPacket 5 2 aWake) aWake ∧ fieldNat aWake 4 1 = 0 ∧ fieldNat aWake 12 1 = 0 ∧
    (let v := noteAck 2 (takePsn 2 0 (met (inPacket 5 2 aWake) wakeBench))
     ownerOfCore v 0 = some 0 ∧ (coreOf v 0).remoteWait.isSome = true ∧ sget 0 (coreOf v 0).remote 2 = fieldNat aWake 16 4) := by
  simp only [PacketNew, PacketGood, HubReady, Alive]; and_intros <;> decide +kernel

def unackedBench (n : Nat) : State :=
  { qpBench 1 with qps := [(1, { aQp false with unacked := [refused n], ackDue := true })] }

theorem witness_answers :
    AnswerNew (unackedBench 1) (inPacket 2 1 (toLe 4 0 ++ toLe 4 1)) (toLe 4 0 ++ toLe 4 1) ∧
    AnswerNew (unackedBench 1) (inPacket 3 1 ([6, 0, 0, 0] ++ toLe 4 0)) ([6, 0, 0, 0] ++ toLe 4 0) ∧
    outPkt (unackedBench 1) 1 0 = some (refused 1) ∧ (refused 1).dead = false ∧
    outPkt (unackedBench 1) 1 1 = none ∧ (qpOf (unackedBench 1) 1).ackDue = true ∧ (qpOf (qpBench 1) 1).ackDue = false ∧
    (refused 1).resends < odGet (unackedBench 1) 0x3200 3 ∧
    odGet (odPut 0x3200 3 0 (unackedBench 1)) 0x3200 3 ≤ (refused 1).resends ∧
    (let x : Qp := { aQp false with cached := false, restoring := true }
     x.byHost = false ∧ x.restoring = true ∧ x.st ≠ .free ∧ x.saved = []) := by
  simp only [AnswerNew, PacketGood, HubReady, Alive]; and_intros <;> decide +kernel
/-- Ring 0 of port 0 runs with room for 16 records and one in it, whose bytes are at 0x7000. -/
def ringBench (type : Byte) (body : Bytes) (s : State) : State :=
  put 0x7000 ([type, 1, 0, 0, 0, 0, 0, 0] ++ body)
    (updRing 0 0 (fun x => { x with base := 0x7000, entries := 16, st := .running, tail := 1 }) s)

/-- The record as the hub reads it. -/
def inRing (type : Byte) (body : Bytes) : Rec :=
  { h := 0, r := 0, p := 0, n := 0, type := type.toNat, cqe := false, tag := 0, body := padTo 64 ([type, 1, 0, 0, 0, 0, 0, 0] ++
    body) }

theorem witness_plain_records :
    (∀ t ∈ ([0x00, 0x02, 0x03, 0x32] : List Byte), headRec (ringBench t [] ready) 0 0 = some (inRing t [])) ∧ HubReady (
      ringBench 0 [] ready) ∧
    (inRing 0x00 []).zeroBut [] = true ∧ (inRing 0x00 [1]).zeroBut [] = false ∧ (inRing 0x32 []).type = 0x32 := by
  simp only [HubReady, Alive]; and_intros <;> decide +kernel

/-- A kernel header at 0x9000 with one core, its program table at 0x9100. -/
def withHeader (s : State) : State :=
  put 0x9000 (toLe 4 0x484B_4A47 ++ toLe 2 1 ++ [0, 1] ++ toLe 4 7 ++ toLe 4 0 ++ toLe 8 0 ++ toLe 8 0x9100)
    (put 0x9100 (toLe 4 0 ++ toLe 4 4 ++ toLe 8 0x9200) s)
def kernelBody : Bytes := toLe 8 0 ++ toLe 8 0x9000
def kernelBench : State := ringBench 0x01 kernelBody (withHeader ready)

theorem witness_kernel_record :
    headRec kernelBench 0 0 = some (inRing 0x01 kernelBody) ∧ (inRing 0x01 kernelBody).zeroBut [(8, 4), (16, 16)] = true ∧
    headerOk kernelBench 0 0x9000 = true ∧ headerOk (ringBench 0x01 kernelBody ready) 0 0x9000 = false ∧
    schedCause kernelBench (inRing 0x01 kernelBody) (newKernel kernelBench (inRing 0x01 kernelBody)) = none ∧
    schedCause kernelBench (inRing 0x01 (kernelBody ++ [4])) (newKernel kernelBench (inRing 0x01 (kernelBody ++ [4]))) = some 1 ∧
    lostCoreOf kernelBench (newKernel kernelBench (inRing 0x01 kernelBody)) = none ∧
    jobCause kernelBench ((inRing 0x04 [7]).body.drop 16 |>.take 32) = none ∧ (inRing 0x04 [7]).field 8 4 ≠ 0 ∧
    (jobCause kernelBench ((inRing 0x04 ([7, 0, 0, 0, 0, 0, 0, 0] ++ [2])).body.drop 16 |>.take 32)).isSome = true := by
  and_intros <;> decide +kernel

/-- A ring that stands at a record of type t with one earlier record open, or none. -/
def fenced (t : Byte) (b : Bytes) (l : List Nat) : State :=
  updRing 0 0 (fun x => { x with st := .running, fence := some (1, t, false, 0), fenceBody := b, open_ := l }) ready

theorem witness_fences :
    (ringOf (fenced 0x02 [] [0]) 0 0).open_ ≠ [] ∧ (ringOf (fenced 0x03 [] []) 0 0).fence = some (1, 0x03, false, 0) ∧
    ringPanel (fenced 0x03 [] []) 0 0 = some 0 ∧ postedAll (tbFlush (tbOfPanel (fenced 0x03 [] []) 0) (fenced 0x03 [] [])) 0 = true ∧
    (let b := (inRing 0x32 ([9, 0, 0, 0, 0, 0, 0, 0] ++ toLe 8 0x3000 ++ toLe 4 0 ++ toLe 2 0 ++ toLe 2 1)).body
     modelCause (fenced 0x32 b []) 0 b = none ∧ (copyImages [] (fenced 0x32 b [])).1 = .done) := by
  and_intros <;> decide +kernel

theorem witness_training :
    (let b := toLe 8 0 ++ toLe 8 0x1000
     let s := ringBench 0x10 b (put 0x1000 (toLe 4 groupMagic) ready)
     headRec s 0 0 = some (inRing 0x10 b) ∧ grants s 0 true 0x1000 8320 = true ∧ readNat s 0x1000 4 = groupMagic ∧
       (inRing 0x10 b).zeroBut [(8, 4), (16, 8), (24, 8), (32, 5), (40, 16)] = true ∧ (inRing 0x10 []).field 16 8 = 0) ∧
    (let b := toLe 8 1 ++ toLe 8 0x3000 ++ toLe 4 1 ++ toLe 4 0 ++ toLe 8 hostBase ++ toLe 8 4096
     let s := ringBench 0x11 b (put 0x3008 (toLe 8 0x4000 ++ toLe 8 16) ready)
     headRec s 0 0 = some (inRing 0x11 b) ∧ (panelOf s 0).snap = none ∧ snapCause s (inRing 0x11 b) = none ∧
       snapCause s (inRing 0x11 (b.take 24)) = some 2) ∧
    (let b := [0, 64, 1, 0, 0, 0, 0, 0] ++ toLe 4 1 ++ toLe 4 1 ++ toLe 8 0x3000 ++ toLe 8 0x4000
     let s := ringBench 0x12 b ready
     headRec s 0 0 = some (inRing 0x12 b) ∧ graftCause s (inRing 0x12 b) = none ∧ graftCause s (inRing 0x12 [0, 65, 1]) = some 2) ∧
    (let b := [1, 0, 0, 0, 0, 0, 0, 0] ++ toLe 8 0x3000
     let s := ringBench 0x20 b (put 0x3000 (toLe 4 0x5753_4A47 ++ toLe 4 1 ++ toLe 8 0x8000 ++ toLe 4 1024 ++ [2]) (put 0x3040 (
       toLe 8 rootBase)
       (updPanel 0 (fun x => { x with regions := x.regions ++ [(48, hubEntry 6 1 1 rootBase 4096)] }) ready)))
     headRec s 0 0 = some (inRing 0x20 b) ∧ windowCause s 0 0x3000 = none ∧ windowCause ready 0 0x3000 = some 1) ∧
    (let b := [0, 1, 0, 0, 0, 0, 0, 0] ++ toLe 8 0x3000
     let d := toLe 4 0x4454_4A47 ++ [0x21, 0] ++ toLe 2 2
     let s := ringBench 0x21 b (put 0x3000 d ready)
     headRec s 0 0 = some (inRing 0x21 b) ∧ tableRegCause s (inRing 0x21 b) = none ∧ tableRegCause ready (inRing 0x21 b) = some 1 ∧
       (tableSlot (tableBench 1) 0).owner = some 0) := by
  and_intros <;> decide +kernel

theorem witness_serving :
    headRec (ringBench 0x30 [7, 1] ready) 0 0 = some (inRing 0x30 [7, 1]) ∧ hintCause (inRing 0x30 [7, 1]) = none ∧
    hintCause (inRing 0x30 [8]) = some 1 ∧
    (let s := odPut 0x3403 1 1 (odPut 0x3405 1 1 (odPut 0x3407 1 1 (odPut 0x3400 1 0 ready)))
     worklistCause s 0 0 = none ∧ worklistCause s 0 1 = some 2 ∧ worklistCause ready 0 1 = some 1) ∧
    (panelOf (updPanel 0 (fun x => { x with hint := some ⟨3, true⟩ }) ready) 0).hint = some ⟨3, true⟩ ∧
    odGet (odPut 0x2000 1 1 ready) 0x2000 1 = 1 ∧ odGet (odPut 0x2000 1 0 ready) 0x2000 1 ≠ 1 := by decide +kernel

/-- A QP record for queue pair 5, whose context at 0x3000 + 5 · 1024 names kind 2 and fabric ID 1. -/
def qpRecBench (op : Byte) : State :=
  ringBench 0x22 [op, 0, 5, 0] (put (0x3000 + 5 * 1024) (toLe 4 0x5051_4A47 ++ [2, 0, 0, 0, 1, 0, 3, 0])
    (odPut 0x3201 1 0x3000 (odPut 0x3100 3 2 ready)))
def collBench : State :=
  ringBench 0x23 ([1, 0, 0, 0, 0, 0, 0, 0] ++ toLe 8 0x3000)
    (put 0x3000 (toLe 4 0x4743_4A47 ++ toLe 2 2 ++ [0, 0] ++ toLe 8 0x4000 ++ toLe 4 0 ++ toLe 4 0x501)
      { ready with qps := [(5, { st := .ready, owner := 0, remFab := 1, remQp := 5 })] })

theorem witness_qp_records :
    (∀ o ∈ ([1, 2, 3] : List Byte), headRec (qpRecBench o) 0 0 = some (inRing 0x22 [o, 0, 5, 0])) ∧
    qpCause (qpRecBench 1) 0 5 (qpSoft (qpRecBench 1) 0 5) = none ∧
    qpCause (qpRecBench 1) 0 4096 (qpSoft (qpRecBench 1) 0 4096) = some 1 ∧ (qpOf (qpRecBench 2) 5).st = .free ∧
    (qpOf collBench 5).st ≠ .free ∧ (qpOf collBench 5).owner = 0 ∧
    (let c := inRing 0x23 ([1, 0, 0, 0, 0, 0, 0, 0] ++ toLe 8 0x3000)
     headRec collBench 0 0 = some c ∧ collCause collBench c = none ∧ lostCoreOf collBench (collKernel collBench c) = none) ∧
    collCause ready (inRing 0x23 [1]) = some 1 := by
  and_intros <;> decide +kernel
/-! ### Ports, power, failures -/

theorem witness_host_registers :
    (portOf ready 0).st = .up ∧ ringPanel ready 0 0 = some 0 ∧ ringPanel ready 0 63 = none ∧ ownerOfSlot ready 0 0 = some 0 ∧
    (panelOf ready 0).st = .open ∧ (sget {} (panelOf ready 0).regions 48).valid = false ∧
    (let s := odPut 0x2606 1 4096 (odPut 0x4000 4 1 (updRegion 0 48
       (fun x => { x with raw := toLe 8 rootBase ++ toLe 8 (rootBase + 4095) ++ [2, 3, 1] }) (rootBench 0 1)))
     regionStatus s 0 48 (padTo 30 (sget {} (panelOf s 0).regions 48).raw) 1 = 0) ∧
    regionStatus ready 0 48 (padTo 30 []) 1 ≠ 0 ∧
    (sget {} (panelOf (updRegion 0 255 (fun x => { x with valid := true }) ready) 0).regions 255).valid = true ∧
    (let s := updSlot 0 0 (fun b => { b with target := 0x4000, length := 8 }) ready
     0 % 2 ^ 36 + 8 ≤ (slotOf s 0 0).length.toNat ∧ grants s 0 true 0x4000 8 = true ∧ lostPartly s 0x4000 8 = none ∧
       s.startup.running = true ∧ s.startup.dstate = 0) ∧
    (let s := updSlot 0 0 (fun b => { b with target := 0x10_0000_0000_0000, length := 8 }) ready
     grants s 0 true 0x10_0000_0000_0000 8 = false) := by
  and_intros <;> decide +kernel

theorem witness_host_ports :
    (portOf (updPort 0 (fun x => { x with st := .retraining }) ready) 0).st = .retraining ∧
    (portOf (updPort 0 (fun x => { x with st := .hostlost, grace := true }) ready) 0).grace = true ∧
    (0x12 : Word16) ∈ (portOf (updPort 0 (fun x => { x with irqBusy := [0x12] }) ready) 0).irqBusy ∧
    (let s := odPut 0x3300 1 0 (ringBench 0x00 [] ready)
     odGet s 0x3300 1 = 0 ∧ taking (ringOf s 0 0) = true ∧ phaseValid (ringOf s 0 0) 0 (recordAt s (ringOf s 0 0) 0) = true) ∧
    (let s := odPut 0x3300 1 0 (put 0x7000 [0, 0] (ringBench 0x00 [] ready))
     phaseValid (ringOf s 0 0) 0 (recordAt s (ringOf s 0 0) 0) = false) := by decide +kernel

theorem witness_power :
    { ready.power with target := some 1 }.target = some 1 ∧ ready.power.op ≠ 1 ∧ ready.power.target = none ∧
    ready.power.ceiling = 16 ∧ ceilingTarget ready.power = 16 ∧ ceilingTarget { ready.power with thermTarget := 4 } = 4 ∧
    ready.pins.pwrbrkN = true ∧ (groupOf (updGroup 15 (fun x => { x with droop := true }) ready) 15).droop = true ∧
    ready.power.underV = false ∧ ready.startup.phase ≠ .step 0 ∧
    hotSensor 115 (List.replicate 36 104) = none ∧ hotSensor 105 (List.replicate 36 104) = none ∧
    hotSensor 105 (List.replicate 36 105) = some 0 ∧ hotSensor 115 (List.replicate 36 105) = none ∧
    hotSensor 115 (List.replicate 19 0 ++ List.replicate 17 115) = some 19 ∧ hotSensor 115 (List.replicate 36 0xD8) = none :=
      by decide +kernel

theorem witness_resets :
    State.reset.startup.phase = .off ∧ State.reset.pins.modRstN = false ∧ ready.startup.phase ≠ .off ∧ ready.pins.modRstN = true ∧
    ready.startup.running = true ∧ odGet (odPut 0x1800 0xA 1 ready) 0x1800 0xA ≠ 0 ∧ moduleIdle (odPut 0x1800 0xA 1 ready) = true ∧
    moduleIdle bench = false ∧ (ready.panels.map (·.1)).Nodup ∧ (powered State.reset = false) := by decide +kernel

theorem witness_failures :
    (let s := updCore 0 (fun x => { x with failed := true }) bench
     (coreOf s 0).lost = false ∧ (coreOf s 0).failed = true ∧ (groupOf s 0).spareUsable = true) ∧
    (let s := updGroup 15 (fun x => { x with spareUsable := false }) (updCore 127 (fun x => { x with failed := true }) bench)
     (coreOf s 127).failed = true ∧ (groupOf s (127 / 8)).spareUsable = false) ∧
    dispatching bench 0 = true ∧ (coreOf (updCore 0 (fun x => { x with missed := 2 }) bench) 0).missed + 1 = 3 ∧
    3 ∉ ready.hubs.dead ∧ nextHub [0] 0 = some 1 ∧ nextHub [0, 1, 2, 3] 3 = none ∧ odGet (odPut 0x1900 2 0 ready) 0x1900 2 ≠ 1 ∧
    (0x4000 : Word48).toNat / stackSize = 0 ∧ (panelOf (updPanel 0 (fun x => { x with st := .releasing }) ready) 0).st = .releasing ∧
    ready.attest.leaf < leafLimit := by decide +kernel

/-- A row that waits for repair, on a module with spare rows in its stack. -/
theorem witness_repair (h : 0 < Config.spareRows 0) :
    let s : State := { ready with startup := { ready.startup with dstate := 1 }, hubs := { ready.hubs with rows := [(0, 1)] } }
    s.startup.dstate = 1 ∧ sget 0 s.hubs.rows 0 ≠ 0 ∧ sget 0 s.hubs.repaired 0 < Config.spareRows 0 :=
  ⟨rfl, by decide, h⟩

/-! ### The object dictionary -/

/-- Requests of the management port, and of the mailbox of port 0 for panel 0. -/
def mgmt : OdReq := ⟨0, 255, 1⟩
def mailbox : OdReq := ⟨1, 0, 1⟩
/-- The code of a write of v to an entry. -/
def codeOf (s : State) (r : OdReq) (index sub v : Nat) : Nat := requestCode (wakeD1 (heard r s)) r.path r.panel index sub true v
/-- The module with panel 0 of kind k, and as it waits for an image. -/
def ofKind (k : Nat) : State := odPut 0x4000 1 k ready
def early : State := { ready with startup := { ready.startup with phase := .step 2, running := false, imgLen := 200, staged := [4] } }

theorem witness_requests_heard :
    TakesRequest ready mgmt (putMsg 0x1800 8 [2]) ∧ TakesRequest ready mailbox (putMsg 0x2706 1 [0, 0]) := by
  simp only [TakesRequest, Alive]; and_intros <;> first | decide +kernel | (intro _ e h; exact absurd h (by decide +kernel)) | (
    intro h; exact absurd h (by decide))


/-- The entries of DictionaryCommands and DictionaryAreas may be written: those of a panel by its mailbox, the module's by the
management port, the seam's by the common panel. -/
theorem witness_writes :
    (∀ e ∈ [(0x2706, 1, 0), (0x2707, 1, 0), (0x2703, 1, 64), (0x2702, 1, 64), (0x2802, 1, 7), (0x3402, 1, 7), (0x3409, 1, 7),
        (0x3205, 1, 0), (0x1906, 1, 0), (0x1801, 1, 1), (0x2602, 1, 16), (0x2605, 1, 248), (0x2805, 1, 0)],
      codeOf ready mailbox e.1 e.2.1 e.2.2 = 0) ∧
    (∀ e ∈ [(panelIdx 15 0, 7, 1), (panelIdx 0 0, 7, 2), (0x1800, 8, 1), (0x1800, 8, 2), (0x1800, 9, 0), (0x1800, 9, 1), (0x1800,
      9, 2),
        (0x1800, 9, 3), (0x2600, 7, 3), (0x2600, 1, 1), (0x2600, 2, 3), (0x1100, 2, 255)], codeOf ready mgmt e.1 e.2.1 e.2.2 = 0) ∧
    codeOf early mgmt 0x1800 4 4 = 0 ∧ TakesRequest early mgmt (putMsg 0x1800 4 [4]) ∧
    (∀ e ∈ [(0x3001, 1, 1), (0x3001, 1, 0), (panelIdx 0 1, 2, 0), (panelIdx 0 1, 4, 0)], codeOf (
      ofKind 1) mailbox e.1 e.2.1 e.2.2 = 0) ∧
    commonPanel (wakeD1 (heard mailbox (ofKind 1))) = some 0 ∧ codeOf ready mgmt 0x3010 1 0 = 0 ∧
    (∀ e ∈ [(panelIdx 0 2, 1, 1), (panelIdx 0 2, 1, 0)], codeOf (ofKind 2) mailbox e.1 e.2.1 e.2.2 = 0) := by
  simp only [TakesRequest, Alive]
  and_intros <;> first | decide +kernel | (intro _ e h; exact absurd h (by decide +kernel))

theorem witness_panels_and_states :
    (panelOf ready 0).st ≠ .free ∧ (panelOf ready 15).st = .free ∧ openCause ready 15 = some 1 ∧
    openCause (odPut (panelIdx 1 0) 1 3 (odPut (panelIdx 1 0) 2 2 ready)) 1 = none ∧ busyForD ready = false ∧ busyForD bench = true ∧
    ready.startup.dstate = 0 ∧ early.startup.imgLen ≠ 0 ∧ 4 ∈ early.startup.staged ∧
    imageCause (readBytes early (fwArea (sourceStack 4)) 200) 0 = some 1 ∧ anyKernel bench = true ∧ anyKernel ready = false := by
  decide +kernel

/-- An image is good once its key and its signature are: both are the module's own constants, which no proof can see. -/
def anImage : Bytes := [0x47, 0x4A, 0x46, 0x57, 1, 0, 0xB0] ++ List.replicate 200 0
theorem witness_image (key : sha256 ((anImage.drop 24).take 60) = Config.rootKeyHash)
    (sig : Config.hssVerify ((anImage.drop 24).take 60) (anImage.take 128) (
      anImage.drop 128) = true) : imageCause anImage 0 = none := by
  unfold imageCause
  rw [if_neg (by decide +kernel), if_neg (by decide +kernel), if_neg (by decide +kernel), if_neg (fun h => h key)]
  rw [show 128 + fieldNat anImage 16 8 = 128 from by decide +kernel, sig]
  decide +kernel

def aSeg (write : Bool) : Seg :=
  { write := write, index := 0x2805, sub := 1, txn := 1, total := 2000, next := 1, data := List.replicate 1024 0, panel := 0 }
def segBench (write : Bool) : State := updPath 1 (fun x => { x with seg := some (aSeg write) }) ready

theorem witness_dictionary :
    requestCode (heard mgmt ready) 0 255 0x1000 0 false 0 = 0 ∧ (readEntry (heard mgmt ready) 0 0x1000 0).1.length = 4 ∧
    requestCode (heard mgmt ready) 0 255 0x9999 0 false 0 ≠ 0 ∧ (corFields ready 0x1101 1).1.length = 1 ∧
    (odRow 0x2805 1).isSome = true ∧ (odRow 0x2805 1).map (fun r => entryLen ready r 0x2805 1) = some 512 ∧
    openSeg (pathOf (heard mailbox (segBench true)) 1) true 1 = some (aSeg true) ∧
    openSeg (pathOf (heard mailbox (segBench false)) 1) false 1 = some { aSeg false with data := List.replicate 1024 0 } ∧
    (1024 * 1 < (aSeg true).total ∧ (aSeg true).total ≤ 1024 * 2) ∧ pathOpen ready 1 = true ∧ pathOpen ready 0 = true ∧
    odGet State.reset 0x1100 1 = 0 ∧ State.reset.pins.enumIn = true ∧ ready.mgmt.sent = [] ∧ ready.startup.phase = .step 5 ∧
    (let x : Restore := ⟨0x4000, 0, some 1, false, true⟩
     { ready with restores := [x] }.restores.find? (fun x => x.panel == 0 && x.knot == some (249 - 248) && x.host) = some x) := by
  and_intros <;> decide +kernel
/-! ### Well-formed commands -/

/-- One command a check of WellFormed refuses: a number beyond its range, or a list of a length that its rule does not give. -/
def illFormed : List Instr :=
  [.nop 128 free, .pass 0 free aPass [1], .checkRerun 0 4 [], .checkRerun 0 0 [512], .operationRetire 0 13, .faultTimeout 16 0,
   .faultResume ⟨5, 0, 0⟩ 0 0, .faultResume ⟨1, 16, 0⟩ 0 0, .spoolOccupancySample 0 64, .watchdogExpiry 0 13,
     .knotGrantsWrite mgmt 0 [],
   .rootPortDown 4, .tableGather 4, .tableBatchPeriod 256, .regionEntryValidate 4 0 48, .regionEntryValidate 0 4 48,
   .regionEntryRevoke 0 0 256, .seamRelease 256, .keyEstablish mgmt 0 [], .keyInstall mgmt 0 [], .attestNonce mgmt [],
   .linkPartnerDetect 24, .linkTrainingDone 0 3, .ident 0 ⟨aFlit 0 true, ⟨0, 0, false, []⟩⟩, .speedLowerWindow 0 101,
     .pfcSend 0 false 196609,
   .lldpReceive 0 0 0 [], .ackTimer 4096, .digest aHdr false [] ⟨[], 24, true⟩, .send ⟨aHdr, false, [], [], 24, true⟩,
     .doorbell 0 64 0, .bar2Read 4 0,
   .irqHoldoffExpiry 0 68, .droopDetect 16, .thermalSample [], .coreRemap 0 [959232], .hubAdoption 4, .rowRepair 16,
   .moduleFatal 0 0, .moduleFatal 6 0, .assign 0 ⟨0, 0⟩, .assign 0 ⟨9, 0⟩, .write mgmt 0 0 (List.replicate 9 0),
   .segment mgmt 0 (List.replicate 1025 0), .segTimeout 5, .rootPortUp 0 17 0 0, .rootPortUp 0 0 65 0]

theorem test_ill_formed : ∀ i ∈ illFormed, i.wf = false := by decide +kernel

/-- The last value that a range admits. -/
theorem test_well_formed :
    ∀ i ∈ [Instr.nop 127 free, .checkRerun 127 3 [511], .operationRetire 127 12, .faultTimeout 15 0, .faultResume ⟨4, 255, 0⟩ 15 0,
      .spoolOccupancySample 15 63, .tableBatchPeriod 255, .regionEntryRevoke 3 3 255, .linkTrainingDone 23 2, .ackTimer 4095,
      .doorbell 3 63 0, .irqHoldoffExpiry 3 67, .thermalSample (List.replicate 36 0), .moduleFatal 5 0, .assign 0 ⟨8, 0⟩,
      .write mgmt 0 0 (List.replicate 8 0), .rootPortUp 3 16 64 0], i.wf = true := by decide +kernel

/-! ### Effects, with values from the rules, or from the standards that they name -/

/-- The state after a command. -/
def after (i : Instr) (s : State) : State :=
  match exec i s with
  | .next t => t
  | _ => s

/-- ADDA adds modulo 2²⁰ (R78). -/
theorem test_adda_wraps :
    aReg (coreOf (after (.adda 0 free 1 2) (updCore 0 (fun x => { x with areg := [(1, 0xFFFFF)] }) (op (.adda 0 free 1 2) bench))) 0)
      1 = 1 := by decide +kernel

/-- NEXT with one iteration left pops its level and goes on (R79). -/
theorem test_next_last :
    let s := looping 1 (.next 0 free 0)
    (coreOf (after (.next 0 free 0) s) 0).loops = [] ∧ (coreOf (after (.next 0 free 0) s) 0).pc = 3 := by decide +kernel

/-- NEXT with more goes back to the operation after its LOOP (R79). -/
theorem test_next_again :
    let s := looping 3 (.next 0 free 0)
    (coreOf (after (.next 0 free 0) s) 0).loops = [⟨2, 1⟩] ∧ (coreOf (after (.next 0 free 0) s) 0).pc = 1 := by decide +kernel

/-- KADD adds modulo 2⁴⁸ and counts the operation (R192). -/
theorem test_kadd_wraps :
    let i := Instr.kadd 0 free ⟨0, 0xFFFF_FFFF_FFFF, 0, 0, false⟩
    let t := after i (op i knotBench)
    (knotOf t 0).value = 4 ∧ (knotOf t 0).ops = 1 ∧ (coreOf t 0).pc = 1 := by decide +kernel

/-- The last arrival of a group clears the count and advances the generation (R194). -/
theorem test_karrive_last :
    let s := op (.karrive 0 free ⟨0, 0, 0, 0, false⟩)
      (setKnot 0 { value := BitVec.ofNat 48 (2 * 2 ^ 32 + 2 ^ 16), poisoned := false } bench)
    (knotOf (after (.karrive 0 free ⟨0, 0, 0, 0, false⟩) s) 0).value = BitVec.ofNat 48 (2 * 2 ^ 32) ∧
      (knotOf (after (.karrive 0 free ⟨0, 0, 0, 0, false⟩) s) 0).gen = 1 := by decide +kernel

/-- VBIN of sub-operation 0 adds binary32: 1.0 + 1.0 = 2.0, at its destination. -/
theorem test_vbin_adds :
    let s := op (.vbin 0 free aFlat) (inStore 16 (toLe 4 0x3F80_0000) (inStore 8 (toLe 4 0x3F80_0000) bench))
    storeNat (after (.vbin 0 free { aFlat with a := 1, b := 2 }) (inStore 8 (toLe 4 0x3F80_0000) s)) 0 32 4 = 0x4000_0000 :=
      by decide +kernel

/-- A MOVE of 64 bytes lands in one request. -/
theorem test_move_lands :
    readBytes (after (.moverRequestIssue 0) (put 0 [1, 2, 3] (moving 0))) 0x1000 4 = [1, 2, 3, 0] := by decide +kernel

/-- A gather answers the binary32 row it was asked for (R165). -/
theorem test_gather :
    readBytes (after (.tableGather 0) (put 0x10008 [7, 0, 0, 0, 9] (tableBench 1))) 0x5000 8 = [7, 0, 0, 0, 9, 0, 0, 0] :=
      by decide +kernel

/-- OP0 is forced while PWRBRK_N is low (R340). -/
theorem test_pwrbrk : (after .opChange (after .pwrbrkAssert { ready with power := { ready.power with op := 5 } })).power.op = 0 :=
  by decide +kernel

/-- READ of 0x1000 answers 0x4D515256 (R400), and an entry that the catalogue lacks answers code 0x01. -/
theorem test_read :
    ((pathOf (after (.read mailbox 0x1000 0) ready) 1).answer.map fun a => (a.status.toNat, a.data)) =
      some (0, [0x56, 0x52, 0x51, 0x4D]) ∧
    ((pathOf (after (.read mailbox 0x1500 0) ready) 1).answer.map (·.status.toNat)) = some 1 := by decide +kernel

/-- A hub entry cannot be written, and a region that overlaps one is refused with status 4 (R221–R223). -/
theorem test_region :
    let s := updRegion 0 48 (fun x => { x with raw := toLe 8 0x4000 ++ toLe 8 0x4FFF ++ [1, 3, 1] }) ready
    (sget {} (panelOf (after (.regionEntryValidate 0 0 48) s) 0).regions 48).status = 4 ∧
      after (.regionEntryRevoke 0 0 0) s = s := by decide +kernel

/-- A rebuilt unit is good again: its restore is gone. -/
theorem test_rebuilt : (after (.reconstructionComplete (BitVec.ofNat 48 rootBase)) rebuildBench).restores = [] := by decide +kernel

/-- binary32: a tie goes to even, a sum beyond the range is infinite, and a product may be subnormal. -/
theorem test_binary32 :
    add32 0x3F80_0000 0x3380_0000 = 0x3F80_0000 ∧ add32 0x3F80_0001 0x3380_0000 = 0x3F80_0002 ∧
    add32 0x7F7F_FFFF 0x7F7F_FFFF = 0x7F80_0000 ∧ mul32 0x0080_0000 0x3F00_0000 = 0x0040_0000 ∧
    fma32 0x3F80_0001 0x3F80_0001 0xBF80_0002 = 0x2880_0000 ∧ div32 0x3F80_0000 0x4040_0000 = 0x3EAA_AAAB ∧
    sqrt32 0x4000_0000 = 0x3FB5_04F3 := by decide +kernel

/-- SHA-256 of "abc" (FIPS 180-4). -/
theorem test_sha256 :
    sha256 [0x61, 0x62, 0x63] =
      [0xBA, 0x78, 0x16, 0xBF, 0x8F, 0x01, 0xCF, 0xEA, 0x41, 0x41, 0x40, 0xDE, 0x5D, 0xAE, 0x22, 0x23, 0xB0, 0x03, 0x61, 0xA3, 0x96,
       0x17, 0x7A, 0x9C, 0xB4, 0x10, 0xFF, 0x61, 0xF2, 0x00, 0x15, 0xAD] := by decide +kernel

/-- The example of FIPS 197 for a key of 256 bits. -/
theorem test_aes :
    aesEnc ((List.range 32).map (BitVec.ofNat 8)) ((List.range 16).map fun i => BitVec.ofNat 8 (17 * i)) =
      [0x8E, 0xA2, 0xB7, 0xCA, 0x51, 0x67, 0x45, 0xBF, 0xEA, 0xFC, 0x49, 0x90, 0x4B, 0x49, 0x60, 0x89] := by decide +kernel

/-- GCM of an empty message under a key of zeros (case 13 of its specification). -/
theorem test_gcm :
    (gcmSeal (List.replicate 32 0) (List.replicate 12 0) [] []).2 =
      [0x53, 0x0F, 0x8A, 0xFB, 0xC7, 0x45, 0x36, 0xB9, 0xA9, 0x63, 0xB4, 0xF1, 0xC4, 0xCB, 0x73, 0x8B] := by decide +kernel

/-- CRC-32 of "123456789" by the reflected polynomial of IEEE 802.3. -/
theorem test_crc32 : crc32 ((List.range 9).map fun i => BitVec.ofNat 8 (0x31 + i)) = 0xCBF4_3926 := by decide +kernel

/-- The invariant of memory holds in the states of these tests. -/
theorem witness_invariant : (tableBench 1).Inv ∧ (batchBench 1).Inv ∧ (segBench true).Inv := by
  simp only [State.Inv]; decide +kernel
/-- A barrier of 2 with a arrivals and e early ones. -/
def barrier (a e : Nat) : State := setKnot 0 { value := BitVec.ofNat 48 (2 * 2 ^ 32 + a * 2 ^ 16 + e), gen := 7, poisoned :=
  false } bench

theorem witness_barrier :
    (∀ w ∈ (barrier 1 1).waiters, w.knot ≠ 0) ∧ (knotOf (barrier 0 0) 0).gen.toNat = 7 ∧ 0 + 1 < 2 ∧ 2 ≤ 1 + 1 ∧
    (knotOf (taintRestore 0 9 bench) 9).poisoned = true ∧ knotRoute bench 0 (shiftKnotOn bench 0 9) 50 = .here 9 ∧
    (knotOf (applyArrive 0 7 0 ⟨0, 0, 0, 0⟩ (barrier 1 1)) 0).value = BitVec.ofNat 48 (2 * 2 ^ 32 + 2 ^ 16) ∧
    (knotOf (applyArrive 0 8 0 ⟨0, 0, 0, 0⟩ (barrier 1 0)) 0).value = BitVec.ofNat 48 (2 * 2 ^ 32 + 2 ^ 16 + 1) := by decide +kernel

theorem witness_doorbells :
    (∀ st ∈ [RState.disabled, .held, .running, .quiesced],
      ringPanel (updRing 0 0 (fun x => { x with st := st, entries := 16, head := 2, tail := 4 }) ready) 0 0 ≠ none) ∧
    ready.startup.dstate = 0 ∧
    ((4 : Word32) - 2).toNat < ((18 : Word32) - 2).toNat ∧ ((18 : Word32) - 2).toNat ≤ (16 : Word32).toNat ∧
    ((3 : Word32) - 2).toNat < ((4 : Word32) - 2).toNat ∧ (16 : Word32).toNat < ((19 : Word32) - 2).toNat ∧
    (16 : Word32).toNat < ((1 : Word32) - 2).toNat := by decide +kernel

theorem witness_choice :
    chooseBase freeBench { waitingKernel 3 with affinity := 5, mask := 1 } = some 0 ∧
    chooseBase fullBench (waitingKernel 3) = none := by decide +kernel

theorem witness_cap : (∀ v ∈ [599, 600, 1500, 1501], codeOf ready mgmt 0x2000 2 v = 0) ∧ TakesRequest ready mgmt (putMsg 0x2000 2 (
  toLe 2 600)) ∧
    (∃ w < 4, ownerOfSlot ready (1 - 1) w = some 0) := by
  simp only [TakesRequest, Alive]
  and_intros <;> first | decide +kernel | (intro _ e h; exact absurd h (by decide +kernel)) | exact ⟨0, by decide, by decide +kernel⟩

/-- A doorbell far beyond the ring holds it with cause 3 and leaves the tail (R299). -/
theorem test_doorbell :
    let s := updRing 0 0 (fun x => { x with st := .running, entries := 16, head := 2, tail := 4 }) ready
    (ringOf (after (.doorbell 0 0 19) s) 0 0).cause = 3 ∧ (ringOf (after (.doorbell 0 0 19) s) 0 0).tail = 4 ∧
      (ringOf (after (.doorbell 0 0 3) s) 0 0).stale = 1 := by decide +kernel

/-- Requests that a wrong length, an attestation limit and a wait refuse (R238, R240). -/
theorem witness_keys :
    (let s := ofKind 1
     secure s 0 = true ∧ (panelOf s 0).st = .open ∧ (sget {} (panelOf s 0).keys 2).purpose = 0 ∧
       fieldNat ([2, 1] : Bytes) 0 1 = 2 ∧ fieldNat ([2, 1] : Bytes) 1 1 = 1 ∧ allZero ((([2, 1] : Bytes).drop 2).take 30) = true ∧
       allZero ((([2, 1] : Bytes).drop 3).take 5) = true) ∧
    keyEntry (panelIdx 3 1) 2 = true ∧ keyEntry (panelIdx 3 1) 4 = true ∧ keyEntry 0x2805 1 = false ∧ keyEntry 0x3010 1 = false ∧
    (let s : State := { ready with attest := { ready.attest with waiting := [0], leaf := leafLimit } }
     s.attest.waiting = 0 :: [] ∧ leafLimit ≤ s.attest.leaf) := by decide +kernel

def firstPass : PassF :=
  { target := 0, swap := true, column := false, start := true, last := false, fuse := false, sfmt := 2, tfmt := 2, rows1 := 255
    base := 0, stride := 17, src := 0x10000 }

/-- The example word of R83 is its PASS, and the words of these tests spell their operations. -/
theorem test_words :
    (∀ i ∈ needles ++ vectors ++ knotOps ++ awayOps ++ [aLoad, aCvt, .drain 0 free (aDrain 1), .vopt 0 free 1 0x100,
      .fload 0 free 15 0,
        .stream 0 free 2 0x40, .spaceWait 0 free 5 2, .dataWait 0 free 63 1, .scommit 0 free 3 2, .srelease 0 free 4 2, .endOp 0 free,
        .yield 0 free, .commit 0 free, .loop 0 free 3 5, .next 0 free 2, .phase 0 free 5, .stepclose 0 free 0x1000],
      decodeOp 0 (wordOf i) = some i.asWord) ∧
    wordOf (.pass 0 free firstPass []) = 0x11F0_1402_023F_C000_0220_2000_0000_0000 := by
  decide +kernel

/-- A wrong length of a key entry posts event 0x3007 and is answered with code 0x07 (R238). -/
theorem test_key_length :
    (writeKeyEstablish 0 [2, 1] (ofKind 1)).1 = 7 ∧ (writeKeyEstablish 0 [2, 1] (ofKind 1)).2 ≠ ofKind 1 := by decide +kernel

/-- An operation whose word does not stand at the program counter changes nothing. -/
theorem test_not_at_op : after (.vbin 0 free aFlat) (op (.vun 0 free aFlat) bench) = op (.vun 0 free aFlat) bench := by decide +kernel
end Sys2Proof.Tests
end

section
/-! SUPPORT. An operation that is dispatched into empty queues: nothing waits before it, so its rows are free; and where it must
wait, it is in its queue and the sequencer goes on. -/
namespace Sys2Proof.Machine

/-! ### An operation alone in its queue -/

theorem mem_sset {α : Type} [DecidableEq α] {d : α} {m : Sparse α} {k : Nat} {v : α} {p : Nat × α} (hp : p ∈ sset d m k v) :
    p = (k, v) ∨ p ∈ m := by
  unfold sset at hp
  split at hp
  · exact .inr (List.mem_filter.1 hp).1
  · exact mem_sput m k v p hp

theorem queues_enqueued (c : Nat) (h : OpHdr) (i : Instr) (s : State) :
    (coreOf (enqueued c h i s) c).queues = sset {} (coreOf s c).queues (queueOf i)
      { queueAt (coreOf s c) (queueOf i) with
        disp := (queueAt (coreOf s c) (queueOf i)).disp + 1
        entries := (queueAt (coreOf s c) (queueOf i)).entries ++ [entryOf s c h i] } := by
  rw [enqueued, updQueue, coreOf_updCore_self]; rfl

theorem areg_enqueued (c : Nat) (h : OpHdr) (i : Instr) (s : State) :
    (coreOf (enqueued c h i s) c).areg = (coreOf s c).areg := by
  rw [enqueued, updQueue, coreOf_updCore_self]

/-- Nothing waits before an operation that has been dispatched into empty queues. -/
theorem waitingBefore_enqueued {c : Nat} {h : OpHdr} {i : Instr} {s : State} (hq : queuesEmpty (coreOf s c) = true) :
    waitingBefore (coreOf (enqueued c h i s) c) (entryOf s c h i).seq = [] := by
  refine List.filter_eq_nil_iff.2 fun e he => ?_
  obtain ⟨q, hmem, hent⟩ := List.mem_flatMap.1 he
  rw [queues_enqueued] at hmem
  rcases mem_sset hmem with rfl | hold
  · simp only [queuesEmpty_entries _ hq, List.nil_append, List.mem_singleton] at hent
    simp [hent]
  · have hempty : q.2.entries = [] := List.isEmpty_iff.1 (List.all_eq_true.1 hq q hold)
    simp [hempty] at hent

section
variable {x : Core} {seq : Nat} (hw : waitingBefore x seq = [])
include hw

theorem undrained_eq_false (n b : Nat) : undrained x seq n b = false := by simp [undrained, hw]

variable (hh : ∀ n, (arrOf x n).held = [])
include hh

theorem unwritten_eq_false (n b : Nat) : unwritten x seq n b = false := by
  simp [unwritten, suppressed, hh, hw]

/-- With no pass held and nothing before it, an operation may read each row that is final. -/
theorem drainable_eq_final (t base r : Nat) :
    drainable x t base seq r = (rowInfo x (rowPlace t base r).1 (rowPlace t base r).2).final := by
  simp [drainable, unwritten_eq_false hw hh]

/-- Rows that a LAST pass has left to the graft wait for nothing else. -/
theorem graftRows_free {a base : Nat} (hfuse : ∀ r < x.held.rows, (sget {} (arrOf x a).rows (base + r)).fuse = true) :
    ((List.range x.held.rows).any fun r => !(rowInfo x a (base + r)).fuse || unwritten x seq a (base + r)) = false :=
  List.any_eq_false.2 fun r hr => by simp [rowInfo, hfuse r (List.mem_range.1 hr), unwritten_eq_false hw hh]

end

theorem find?_range_getD_of_false {M : Nat} {p : Nat → Bool} (h : ∀ r < M, p r = false) :
    ((List.range M).find? p).getD M = M := by
  rw [List.find?_eq_none.2 fun r hr => by simp [h r (List.mem_range.1 hr)], Option.getD_none]

/-! ### Dispatch of an operation that must wait -/

theorem pumpCore_stuck {c : Nat} {s : State} (h : ∀ q < 13, tryStart c q s = s) (n : Nat) : pumpCore c n s = s := by
  have hround : pumpOnce c s = s :=
    List.foldlRecOn (motive := (· = s)) (List.range 13) _ rfl fun t ht q hq => by
      subst ht; exact h q (List.mem_range.1 hq)
  cases n with
  | zero => rfl
  | succ n => simp [pumpCore, hround]

theorem tryStart_hold {c q j : Nat} {s : State} {k : Kernel} {e : QEntry} (hk : kernelOnCore s c = some k)
    (hj : nextToStart q (queueAt (coreOf s c) q).entries = some j) (he : (queueAt (coreOf s c) q).entries[j]? = some e)
    (hst : startOp c k.panel { coreOf s c with areg := e.areg } e s = .hold) : tryStart c q s = s := by
  unfold tryStart
  simp only [hj, hk, he, hst, ite_self]

/-- An operation dispatched into empty queues that must wait stays there, and the sequencer goes on. -/
theorem dispatchOp_held {c : Nat} {h : OpHdr} {i : Instr} {s : State} {k : Kernel} (hr : OpReady s c h i)
    (hk : kernelOnCore s c = some k)
    (hst : startOp c k.panel (coreOf (enqueued c h i s) c) (entryOf s c h i) (enqueued c h i s) = .hold)
    (hn : ReadsOp (enqueued c h i s) c ((coreOf (enqueued c h i s) c).pc.toNat + 1)) :
    dispatchOp c h i s = nextOp c (enqueued c h i s) := by
  obtain ⟨⟨-, hat, hcause, -⟩, hq, -⟩ := hr
  have hempty := queuesEmpty_entries (coreOf s c) hq
  have hstuck : ∀ q < 13, tryStart c q (enqueued c h i s) = enqueued c h i s := by
    intro q _
    by_cases e : q = queueOf i
    · have hent : (queueAt (coreOf (enqueued c h i s) c) q).entries = [entryOf s c h i] := by
        rw [e, enqueued, queueAt_updQueue_self]; simp [hempty]
      refine tryStart_hold (k := k) (j := 0) (e := entryOf s c h i) ?_ ?_ ?_ ?_
      · rw [enqueued, kernelOnCore_updQueue, hk]
      · simp [hent, nextToStart, entryOf]
      · simp [hent]
      · have hareg : (entryOf s c h i).areg = (coreOf (enqueued c h i s) c).areg := (areg_enqueued c h i s).symm
        rw [hareg]; exact hst
    · apply tryStart_idle
      rw [enqueued, queueAt_updQueue_ne _ _ _ _ _ e, hempty]
      rfl
  unfold dispatchOp
  rw [if_neg (by simp [hat])]
  simp only [hcause]
  rw [if_neg (by simp [hempty])]
  change advance c (pumpCore c pumpRounds (enqueued c h i s)) = _
  rw [pumpCore_stuck hstuck, advance_listed c _ hn, nextOp]

end Sys2Proof.Machine
end

section
/-! SUPPORT. LOAD and DRAIN (R21, R24, R31, R83). -/
namespace Sys2Proof.Machine

/-! ### LOAD -/

/-- Settles O10: a LOAD in an empty queue starts at once, and its start refuses neither the pair nor the operands. -/
theorem loadFillsBuffer : Obligations.LoadFillsBuffer := by
  intro c h f s k ks m hk
  dsimp only
  intro hr hp hb
  refine engine_begins trivial rfl hr hk ?_
  simp only [startOp, entryOf, startLoad, hp, hb]

/-! ### DRAIN -/

section
variable {c p : Nat} {x : Core} {f : DrainF} {e : QEntry} {s : State} (hgot : e.got = [])
  (hbase : f.base.toNat + (f.rows1.toNat + 1 + gangOf f.target.toNat - 1) / gangOf f.target.toNat ≤ 512)
include hgot hbase

theorem startDrain_hold (hd : drainable (coreOf s c) f.target.toNat f.base.toNat e.seq 0 = false) :
    startDrain c p x f e s = .hold := by
  simp only [startDrain, hgot, hd, Nat.not_lt.2 hbase]
  simp

variable {w : Nat}
  (hwide : f.base.toNat + (f.rows1.toNat + 1 + gangOf f.target.toNat - 1) / gangOf f.target.toNat ≤ 512 / (w / 128))
  (hrows : ∀ r < f.rows1.toNat + 1, drainable (coreOf s c) f.target.toNat f.base.toNat e.seq r = true ∧
    (rowInfo (coreOf s c) (rowPlace f.target.toNat f.base.toNat r).1 (rowPlace f.target.toNat f.base.toNat r).2).width = w)
include hwide hrows

/-- The rows that a drain reads when all of them are final and as wide as its first. -/
theorem startDrain_reads :
    let M := f.rows1.toNat + 1
    let v := (List.range M).map (drainRow (coreOf s c) f.target.toNat f.base.toNat w)
    let dst := caAddr x f.dst
    let pitch := 8 * f.stride.toNat
    (f.dest = 0 → startDrain c p x f e s =
      convStart c p x true e.idx (caAddr x f.desc) M w none (fun k => convExtents x k dst M w pitch pitch) s
        fun k => .started true (convRun c p x e.idx k v dst w pitch pitch s)) ∧
    (f.dest = 1 → badOperand [strided dst M pitch (4 * w)] = none →
      startDrain c p x f e s = .started true (storeRows c dst pitch (v.map wordsBytes) s)) ∧
    (f.dest = 2 → startDrain c p x f e s =
      .started true (updCore c (fun y => { y with drained := y.drained ++ [⟨M, w, v.flatten⟩] }) s)) := by
  have hfirst := hrows 0 (Nat.succ_pos _)
  have hstop : ((List.range (f.rows1.toNat + 1)).find? fun r =>
      !drainable (coreOf s c) f.target.toNat f.base.toNat e.seq r).getD (f.rows1.toNat + 1) = f.rows1.toNat + 1 :=
    find?_range_getD_of_false fun r hr => by simp [(hrows r hr).1]
  have hmixed : ((List.range (f.rows1.toNat + 1)).any fun r => decide
      ((rowInfo (coreOf s c) (rowPlace f.target.toNat f.base.toNat r).1 (rowPlace f.target.toNat f.base.toNat r).2).width ≠ w)) =
        false :=
    List.any_eq_false.2 fun r hr => by simp [(hrows r (List.mem_range.1 hr)).2]
  have hall : (List.range (f.rows1.toNat + 1)).filter (fun _ => true) = List.range (f.rows1.toNat + 1) :=
    List.filter_eq_self.2 fun _ _ => rfl
  simp only [startDrain, readOn, hgot, List.length_nil, hfirst, if_true, Nat.not_lt.2 hbase, Nat.not_lt.2 hwide, hstop, hmixed,
    Nat.zero_le, decide_true, Bool.true_and, hall, Bool.not_true, Bool.and_false, Bool.false_eq_true, if_false,
    Bool.or_false, decide_false, List.nil_append]
  refine ⟨fun hd => ?_, fun hd hb => ?_, fun hd => ?_⟩
  · simp [hd]
  · simp [hd, hb]
  · simp [hd]

end

/-- A conversion whose descriptor is good and which nothing holds runs. -/
theorem convStart_runs {c p idx da rows len : Nat} {x : Core} {foot : Bool} {ext : ConvDesc → List (Nat × Nat)} {s : State}
    {run : ConvDesc → Start} (hd : badOperand [(da, 32)] = none)
    (hg : convGate s p c x idx foot (convDesc (storeRead s c da 32)) rows len = .go)
    (he : badOperand (ext (convDesc (storeRead s c da 32))) = none) :
    convStart c p x foot idx da rows len none ext s run = run (convDesc (storeRead s c da 32)) := by
  simp only [convStart, hd, hg, he]

/-- Settles O12: with nothing before it and no pass held, a DRAIN may read exactly the rows that are final, so it has all of them
at once or must wait for the first. -/
theorem drainDelivers : Obligations.DrainDelivers := by
  intro c h f s k hk i s1 x t base M g info w v dst pitch d idx hr hbase
  have hw := waitingBefore_enqueued (h := h) (i := i) hr.2.1
  refine ⟨fun hheld hrows hwide => ?_, fun hnot hn => ?_⟩
  · have hread : ∀ r < M, drainable x t base (entryOf s c h i).seq r = true ∧ (info r).width = w :=
      fun r hlt => ⟨(drainable_eq_final hw hheld t base r).trans (hrows r hlt).1, (hrows r hlt).2⟩
    obtain ⟨hconv, hstore, hvector⟩ :=
      startDrain_reads (p := k.panel) (x := x) (e := entryOf s c h i) rfl hbase hwide hread
    refine ⟨fun hdest => ?_, fun hdest hb => ?_, fun hdest hb hgate hext => ?_⟩
    · exact engine_begins trivial rfl hr hk (hvector hdest)
    · exact engine_begins trivial rfl hr hk (hstore hdest hb)
    · exact engine_begins trivial rfl hr hk ((hconv hdest).trans (convStart_runs hb hgate hext))
  · have hwait : drainable x t base (entryOf s c h i).seq 0 = false := by
      rw [drainable, show (rowInfo x (rowPlace t base 0).1 (rowPlace t base 0).2).final = false from hnot, Bool.false_and]
    show alive (dispatchOp c h i) s = _
    rw [alive_next _ _ hr.1.1, dispatchOp_held hr hk (startDrain_hold rfl hbase hwait) hn]

end Sys2Proof.Machine
end

section
/-! SUPPORT. CHECK_RERUN (R35), on a core where a DRAIN waits for the row that a check has held: `rerun` pumps the queues after
`doCheckRerun`, so the landing of the row lets the drain start in the same command. -/
namespace Sys2Proof.Machine

/-- A pass of one row into bank row 0 of array 0. -/
def landingPass : PassF :=
  { target := 0, swap := false, column := false, start := true, last := true, fuse := false, sfmt := 0x10, tfmt := 0x10, rows1 := 0
    base := 0, stride := 0, src := 0 }

/-- The one row of that pass is held for its first rerun. -/
def landingHeld : HeldPass :=
  { f := landingPass, src := 0, buf := { loaded := true, sfmt := 0x10, tfmt := 0x10, rows := 128 }, rows := [0], attempts := 1 }

/-- A drain of that row to the vector engine. -/
def waitingDrain : DrainF := { target := 0, dest := 2, rows1 := 0, base := 0, dst := 0, stride := 0, desc := 0 }

/-- The kernel that core 0 runs. -/
def landingKernel : Kernel :=
  { kid := 1, panel := 0, phase := .running, tag := 7, port := 0, ring := 0, recIdx := 0, hostTag := 0, cqe := false, rtype := 1
    job := 0, step := 0, prio := 0, serving := false, layer := 0, mask := 0, affinity := 0, header := 0, home := [0], shift := 0
    fallback := false, width := 1, tesh := false, seed := 0, status := 0, event := 0, forKid := 0, since := 0, saved := [] }

/-- Operation i of core 0 in its queue, dispatched as number `seq` and depending on nothing. -/
def opEntry (i : Instr) (seq : Nat) (started : Bool) : QEntry :=
  { idx := seq, cmd := i, areg := [], depQ := 15, need := 0, started := started, ready := false, move := 0, expiries := 0
    seq := seq }

/-- Core 0 with the pass held for its rerun, and behind it the drain that waits for the row. -/
def landingCore : Core :=
  { kid := 1
    arrays := [(0, { held := [landingHeld] })]
    queues := [(0, { disp := 1, entries := [opEntry (.pass 0 ⟨15, 0⟩ landingPass [0]) 0 true] }),
      (4, { disp := 1, entries := [opEntry (.drain 0 ⟨15, 0⟩ waitingDrain) 1 false] })] }

/-- A module with power on which only that core is at work, in a secure panel: the NaN blocks of its rows count nowhere (R69), so
the row need not be computed to know that it lands. -/
def landingState : State :=
  odPut 0x4000 1 1 { State.reset with
    startup := { State.reset.startup with phase := .step 5 }
    cores := [(0, landingCore)], kernels := [landingKernel] }

/-- Drains that core 0 has delivered to its vector engine. -/
def drainedCount : Host.Outcome State Fault Refusal → Nat
  | .next t => (coreOf t 0).drained.length
  | _ => 0

/-- The drain that waited for the held row has delivered it once CHECK_RERUN is over. -/
theorem drainedCount_rerun : drainedCount (exec (.checkRerun 0 0 []) landingState) = 1 := by decide +kernel

/-- Refutes O11: its CHECK_RERUN clause names the whole next state, in which only the pass itself has gone on, and does not ask that
nothing else waits; a DRAIN that waited for the row starts as soon as the rerun has landed it. -/
theorem not_passesAndReruns : ¬ Obligations.PassesAndReruns := by
  intro h
  obtain ⟨-, hrerun⟩ := h
  have hclaim := (hrerun 0 0 [] landingState 0 landingHeld [] 128 1 ⟨rfl, rfl⟩ rfl rfl rfl rfl rfl rfl).1 rfl
  have hcount := drainedCount_rerun
  rw [hclaim] at hcount
  exact absurd hcount (by decide +kernel)

end Sys2Proof.Machine
end

section
/-! SUPPORT. The needle (R39–R41). -/
namespace Sys2Proof.Machine

/-- A needle operation whose mismatches do not persist runs once, with each mismatch counted. -/
theorem needleCheck_started {c mis : Nat} {go : State → State} {s : State} (hm : mis = 0 ∨ mis < odGet s 0x2100 2) :
    needleCheck c mis go s = .started true (go (odCount 0x2101 2 mis (odCount 0x2101 1 mis s))) := by
  by_cases h0 : mis = 0
  · simp [needleCheck, odCount, h0]
  · have hlt : ¬odGet s 0x2100 2 ≤ mis := Nat.not_le.2 (hm.resolve_left h0)
    simp only [needleCheck, if_neg h0, if_neg hlt]

/-- Settles O13: nothing stands before the operation on its bank rows, its streamed operand is there, and mismatches that do not
persist only count. -/
theorem needleOperations : Obligations.NeedleOperations := by
  intro c h s k hk
  refine ⟨?nhold, ?nstream, ?ngraft1, ?ngraft2⟩
  case nhold =>
    intro f
    dsimp only
    intro hr hf hb
    refine engine_begins trivial rfl hr hk ?_
    simp [startOp, entryOf, startNHold, hf, hb]
  case nstream =>
    intro f mis d s2
    dsimp only
    intro hr hf hbase hb ht hheld hm
    have hw := waitingBefore_enqueued (h := h) (i := .nstream c h f mis) hr.2.1
    refine engine_begins trivial rfl hr hk ?_
    show startNStream c k.panel _ f mis (entryOf s c h _) _ = _
    simp [startNStream, hf, Nat.not_lt.2 hbase, hb, ht, unwritten_eq_false hw hheld, undrained_eq_false hw,
      needleCheck_started hm]
  case ngraft1 =>
    intro f mis d s2
    dsimp only
    intro hr hf hb ht hm
    refine engine_begins trivial rfl hr hk ?_
    simp [startOp, entryOf, startNGraft1, hf, hb, ht, needleCheck_started hm]
  case ngraft2 =>
    intro f mis d s2
    dsimp only
    intro hr hf hbase hfuse hb ht hheld hm
    have hw := waitingBefore_enqueued (h := h) (i := .ngraft2 c h f mis) hr.2.1
    refine engine_begins trivial rfl hr hk ?_
    show startNGraft2 c k.panel _ f mis (entryOf s c h _) _ = _
    simp only [startNGraft2, hf, Nat.not_lt.2 hbase, hb, ht, graftRows_free hw hheld hfuse, needleCheck_started hm,
      Bool.not_true, Bool.false_eq_true, if_false]

end Sys2Proof.Machine
end

section
/-! SUPPORT. VCVT, VOPT and STEPCLOSE (R52–R63, R87, R118–R122). -/
namespace Sys2Proof.Machine

/-! ### VOPT -/

/-- Where no operand of a list is out of bounds, none of those that a check keeps is. -/
theorem badOperand_filter {l : List (Nat × Nat)} (q : Nat × Nat → Bool) (h : badOperand l = none) :
    badOperand (l.filter q) = none := by
  simp only [badOperand, Option.map_eq_none_iff, List.find?_eq_none] at h ⊢
  exact fun e he => h e (List.mem_filter.1 he).1

section
variable {s : State} {c p idx : Nat} {x : Core} {alg : BitVec 4} {ca : BitVec 24} {d : UpdDesc}

/-- A VOPT waits for a scale, or is refused for its conversion, only where it emits a copy. -/
theorem emitGate_go (hconv : d.has 4 = true →
    convGate s p c x idx false (convDesc (storeRead s c (caAddr x d.conv) 32)) d.rows d.cols = .go) :
    emitGate s c p x idx d = .go := by
  unfold emitGate
  split
  case isTrue h => exact hconv (Bool.and_eq_true_iff.1 h).1
  case isFalse => rfl

variable (hregions : ∀ r ∈ updRegions s d, grants s p false r.2.1 r.2.2 = true ∧
    (r.1 = true → grants s p true r.2.1 r.2.2 = true))
  (hcause : updCause s c p x alg.toNat d = none) (hext : badOperand (updExtents s c x d) = none)
  (hmask : d.has 1 = true → odGet s 0x2400 1 = 1 → maskCause s d = none) (hgate : emitGate s c p x idx d = .go)
  (hclip : clipRegion s p d.table (x.step.toNat % 2) d.tag = none)
include hregions hcause hext hmask hgate hclip

/-- A VOPT whose checks all pass is not refused (R118, R413). -/
theorem voptRefusal_eq_none : voptRefusal s c p x alg ca idx d = none := by
  have hm : (if d.has 1 && odGet s 0x2400 1 = 1 && grants s p false d.mask 32 then maskCause s d else none) = none := by
    split
    case isTrue h =>
      simp only [Bool.and_eq_true, decide_eq_true_eq] at h
      exact hmask h.1.1 h.1.2
    case isFalse => rfl
  have hr : (updRegions s d).find? (fun r => !grants s p false r.2.1 r.2.2 || (r.1 && !grants s p true r.2.1 r.2.2)) =
      none := by
    rw [List.find?_eq_none]
    intro r hmem
    obtain ⟨hread, hwrite⟩ := hregions r hmem
    cases hw : r.1 with
    | false => simp [hread]
    | true => simp [hread, hwrite hw]
  simp only [voptRefusal, hgate, badOperand_filter _ hext, hm, hcause, hr, hclip]

end

/-- A VOPT that its checks do not refuse, and that neither a snapshot nor a scale holds, updates. -/
theorem startVOpt_started {s : State} {c p idx : Nat} {x : Core} {alg : BitVec 4} {ca : BitVec 24}
    (hdesc : badOperand [(caAddr x ca, 128)] = none)
    (hrefusal : voptRefusal s c p x alg ca idx (updDesc (storeRead s c (caAddr x ca) 128)) = none)
    (hsnap : snapHolds s p (updDesc (storeRead s c (caAddr x ca) 128)).layer x.step.toNat = false)
    (hgate : emitGate s c p x idx (updDesc (storeRead s c (caAddr x ca) 128)) = .go) :
    startVOpt c p x alg ca idx s = .started true (runVOpt c p x idx (updDesc (storeRead s c (caAddr x ca) 128)) s) := by
  simp [startVOpt, hdesc, hrefusal, hsnap, hgate]

/-! ### STEPCLOSE -/

/-- A STEPCLOSE whose layer record and scale records the panel may write, each of these valid, closes the step. -/
theorem startStepClose_started {c p y : Nat} {x : Core} {s : State} (hy : grants s p true y 32 = true)
    (hrecs : ∀ a ∈ layerRecords s p y, grants s p true a 320 = true ∧ scaleRecOk s a (recLength s p a) = true) :
    startStepClose c p x y s = .started true (onceEffect c (closeStep p y x.step.toNat (coreBlock s c)) s) := by
  have hwritable : (layerRecords s p y).find? (fun a => !grants s p true a 320) = none :=
    List.find?_eq_none.2 fun a ha => by simp [(hrecs a ha).1]
  have hvalid : (layerRecords s p y).find? (fun a => !scaleRecOk s a (recLength s p a)) = none :=
    List.find?_eq_none.2 fun a ha => by simp [(hrecs a ha).2]
  simp only [startStepClose, hy, hwritable, hvalid, Bool.not_true, Bool.false_eq_true, if_false]

/-- Settles O17: the statement's hypotheses are the checks at the start of each operation, so nothing refuses or holds it. -/
theorem updateOperations : Obligations.UpdateOperations := by
  refine ⟨fun c h s k hk => ⟨?vcvt, ?vopt⟩, ?stepclose⟩
  case vcvt =>
    intro f v s2
    dsimp only
    intro hr hdesc hgate hext ha
    refine engine_begins trivial rfl hr hk ?_
    simp only [startOp, entryOf, startVCvt, convStart_runs hdesc hgate, hext, ha]
  case vopt =>
    intro alg ca
    dsimp only
    intro hr hdesc hregions hcause hext hsnap hmask hconv hclip
    have hgate := emitGate_go hconv
    exact engine_begins trivial rfl hr hk
      (startVOpt_started hdesc (voptRefusal_eq_none hregions hcause hext hmask hgate hclip) hsnap hgate)
  case stepclose =>
    intro c h y s k hk
    dsimp only
    intro hr hy hrecs
    exact engine_begins trivial rfl hr hk (startStepClose_started hy hrecs)

end Sys2Proof.Machine
end

section
/-! SUPPORT. The control operations of the sequencer (R76, R79, R82): what a command does as its word is absent, refused, stalled
or dispatched, and that the sequencer then goes on to the next operation. -/
namespace Sys2Proof.Machine

/-! ### States that agree on what the sequencer reads -/

@[simp] theorem coreOf_nextOp_self (c : Nat) (s : State) :
    coreOf (nextOp c s) c = { coreOf s c with pc := (coreOf s c).pc + 1 } :=
  coreOf_updCore_self c _ s

theorem coreOf_nextOp_ne {c d : Nat} (s : State) (h : d ≠ c) : coreOf (nextOp c s) d = coreOf s d :=
  coreOf_updCore_ne c d _ s h

@[simp] theorem odCount_cores (i k n : Nat) (s : State) : (odCount i k n s).cores = s.cores := by
  unfold odCount
  split <;> rfl

@[simp] theorem odCount_kernels (i k n : Nat) (s : State) : (odCount i k n s).kernels = s.kernels := by
  unfold odCount
  split <;> rfl

@[simp] theorem coreOf_odCount (i k n c : Nat) (s : State) : coreOf (odCount i k n s) c = coreOf s c := by
  rw [coreOf, coreOf, odCount_cores]

theorem kernelOnCore_congr {s t : State} {c : Nat} (hkid : (coreOf t c).kid = (coreOf s c).kid)
    (hkernels : t.kernels = s.kernels) : kernelOnCore t c = kernelOnCore s c := by
  simp only [kernelOnCore, kernelBy, hkid, hkernels]

@[simp] theorem panelOnCore_odCount (i k n c : Nat) (s : State) : panelOnCore (odCount i k n s) c = panelOnCore s c := by
  rw [panelOnCore, panelOnCore, kernelOnCore_congr (by rw [coreOf_odCount]) (odCount_kernels i k n s)]

theorem panelOnCore_of_kernel {s : State} {c : Nat} {k : Kernel} (hk : kernelOnCore s c = some k) :
    panelOnCore s c = some k.panel := by
  rw [panelOnCore, hk, Option.map_some]

theorem readBytes_congr {s t : State} {a n : Nat} (hold : t.rootOld = s.rootOld)
    (hmem : ∀ j, a ≤ j → memByte t.mem j = memByte s.mem j) : readBytes t a n = readBytes s a n := by
  unfold readBytes
  rw [hold, memRead_congr t.mem s.mem a n fun j hj _ => hmem j hj]
  split
  · rfl
  · exact List.map_congr_left fun i _ => by simp only [readByte, oldAt, hold, hmem (a + i) (Nat.le_add_right a i)]

/-- A listed, readable operation stays so while the program window, and what lies above it, and the program's length do. -/
theorem ReadsOp.congr {s t : State} {c n m : Nat} (h : ReadsOp s c n) (hm : m = n)
    (hlen : (coreOf t c).progLen = (coreOf s c).progLen)
    (hmem : ∀ a, coreStore c + programOffset ≤ a → memByte t.mem a = memByte s.mem a) (hold : t.rootOld = s.rootOld)
    (hbad : t.badWords = s.badWords) : ReadsOp t c m := by
  subst hm
  obtain ⟨hlt, hlisted, hgood⟩ := h
  refine ⟨hlen ▸ hlt, ?_, ?_⟩
  · have hcode : opcodeAt t c m = opcodeAt s c m := by
      unfold opcodeAt storeNat readNat
      rw [readBytes_congr hold fun j hj => hmem j (by omega)]
    rw [hcode, hlisted]
  · rw [badIn, hbad]; exact hgood

theorem readsOp_updCore {c : Nat} {f : Core → Core} {s : State} (hpc : (f (coreOf s c)).pc = (coreOf s c).pc)
    (hlen : (f (coreOf s c)).progLen = (coreOf s c).progLen) (h : ReadsOp s c ((coreOf s c).pc.toNat + 1)) :
    ReadsOp (updCore c f s) c ((coreOf (updCore c f s) c).pc.toNat + 1) :=
  h.congr (by rw [coreOf_updCore_self, hpc]) (by rw [coreOf_updCore_self, hlen]) (fun _ _ => rfl) rfl rfl

/-- The sequencer goes on after an effect on its core that leaves the program and its place in it. -/
theorem advance_updCore {c : Nat} {f : Core → Core} {s : State} (hpc : (f (coreOf s c)).pc = (coreOf s c).pc)
    (hlen : (f (coreOf s c)).progLen = (coreOf s c).progLen) (h : ReadsOp s c ((coreOf s c).pc.toNat + 1)) :
    advance c (updCore c f s) = nextOp c (updCore c f s) :=
  advance_listed c _ (readsOp_updCore hpc hlen h)

theorem readsOp_odCount {c i k m : Nat} {s : State} (h : ReadsOp s c ((coreOf s c).pc.toNat + 1)) :
    ReadsOp (odCount i k (m + 1) s) c ((coreOf (odCount i k (m + 1) s) c).pc.toNat + 1) :=
  h.congr (by rw [coreOf_odCount]) (by rw [coreOf_odCount]) (fun _ _ => rfl) rfl rfl

/-- The same of an effect that is then counted. -/
theorem advance_odCount_updCore {c i k m : Nat} {f : Core → Core} {s : State} (hpc : (f (coreOf s c)).pc = (coreOf s c).pc)
    (hlen : (f (coreOf s c)).progLen = (coreOf s c).progLen) (h : ReadsOp s c ((coreOf s c).pc.toNat + 1)) :
    advance c (odCount i k (m + 1) (updCore c f s)) = nextOp c (odCount i k (m + 1) (updCore c f s)) :=
  advance_listed c _ (readsOp_odCount (readsOp_updCore hpc hlen h))

/-! ### Checks before dispatch -/

theorem dispatching_of_atOp {s : State} {c : Nat} {i : Instr} (h : atOp s c i = true) : dispatching s c = true :=
  (Bool.and_eq_true_iff.1 h).1

theorem atOp_eq_false {s : State} {c : Nat} {i : Instr}
    (h : decodeOp c (opWord s c (coreOf s c).pc.toNat) ≠ some i.asWord) : atOp s c i = false := by
  simp [atOp, spells, h]

theorem lowerCause_eq_none {a b : Option Nat} (h : lowerCause a b = none) : a = none ∧ b = none := by
  cases a with
  | none => exact ⟨rfl, h⟩
  | some x => cases b <;> exact nomatch h

/-- An operation that passes the checks has good fields in a kernel of some width. -/
theorem fieldCause_of_staticCause {s : State} {c : Nat} {h : OpHdr} {i : Instr} (hs : staticCause s c h i = none) :
    ∃ w, fieldCause w i = none :=
  ⟨_, (lowerCause_eq_none hs).1⟩

/-- A breach of the loop structure is refused with cause 2, whatever the header holds. -/
theorem staticCause_of_loopCause {s : State} {c : Nat} {h : OpHdr} {i : Instr} (hfield : ∀ w, fieldCause w i = none)
    (hloop : loopCause (coreOf s c) i = some 2) : staticCause s c h i = some 2 := by
  simp only [staticCause, hfield, hloop]
  cases depBad h <;> rfl

/-! ### Control operations -/

section
variable {c : Nat} {h : OpHdr} {i : Instr} {effect : Core → Nat → State → State} {s : State}

theorem controlOp_absent (hat : atOp s c i = false) : controlOp c h i effect s = s := by
  simp [controlOp, hat]

theorem controlOp_refused {cause : Nat} (hat : atOp s c i = true) (hcause : staticCause s c h i = some cause) :
    controlOp c h i effect s = opRefuse c (coreOf s c).pc.toNat (opcodeOf i) cause s := by
  simp [controlOp, hat, hcause]

theorem controlOp_stalled (hat : atOp s c i = true) (hcause : staticCause s c h i = none)
    (hdep : depMet (coreOf s c) h.dep.toNat (needOf (coreOf s c) h) = false) :
    controlOp c h i effect s = odCount 0x2301 3 1 s := by
  simp [controlOp, hat, hcause, hdep]

theorem controlOp_dispatched (hd : CanDispatch s c h i) :
    controlOp c h i effect s = effect (coreOf s c) (coreOf s c).pc.toNat s := by
  obtain ⟨-, hat, hcause, hdep⟩ := hd
  simp [controlOp, hat, hcause, hdep]

theorem dispatchOp_absent (hat : atOp s c i = false) : dispatchOp c h i s = s := by
  simp [dispatchOp, hat]

/-- A full queue stalls dispatch (R76). -/
theorem dispatchOp_full (hat : atOp s c i = true) (hcause : staticCause s c h i = none)
    (hfull : 16 ≤ (queueAt (coreOf s c) (queueOf i)).entries.length) : dispatchOp c h i s = odCount 0x2301 3 1 s := by
  simp [dispatchOp, hat, hcause, hfull]

theorem alive_fixed {f : State → State} (hf : f s = s) : alive f s = .next s := by
  simp [alive, hf]

theorem exec_control (he : exec i s = alive (controlOp c h i effect) s) (hd : CanDispatch s c h i) :
    exec i s = .next (effect (coreOf s c) (coreOf s c).pc.toNat s) := by
  rw [he, alive_next _ _ hd.1, controlOp_dispatched hd]

theorem exec_settledControl (he : exec i s = settle (controlOp c h i effect) s) (hd : CanDispatch s c h i) :
    exec i s = .next (pumpColls (effect (coreOf s c) (coreOf s c).pc.toNat s)) := by
  rw [he, settle_next _ _ hd.1, controlOp_dispatched hd]

theorem exec_controlAbsent (he : exec i s = alive (controlOp c h i effect) s)
    (hword : decodeOp c (opWord s c (coreOf s c).pc.toNat) ≠ some i.asWord) : exec i s = .next s := by
  rw [he, alive_fixed (controlOp_absent (atOp_eq_false hword))]

theorem exec_queuedAbsent (he : exec i s = alive (dispatchOp c h i) s)
    (hword : decodeOp c (opWord s c (coreOf s c).pc.toNat) ≠ some i.asWord) : exec i s = .next s := by
  rw [he, alive_fixed (dispatchOp_absent (atOp_eq_false hword))]

theorem exec_controlStalled (he : exec i s = alive (controlOp c h i effect) s) (hs : Alive s) (hat : atOp s c i = true)
    (hcause : staticCause s c h i = none) (hdep : depMet (coreOf s c) h.dep.toNat (needOf (coreOf s c) h) = false) :
    exec i s = .next (odCount 0x2301 3 1 s) := by
  rw [he, alive_next _ _ hs, controlOp_stalled hat hcause hdep]

theorem exec_queueFull (he : exec i s = alive (dispatchOp c h i) s) (hs : Alive s) (hat : atOp s c i = true)
    (hcause : staticCause s c h i = none) (hfull : 16 ≤ (queueAt (coreOf s c) (queueOf i)).entries.length) :
    exec i s = .next (odCount 0x2301 3 1 s) := by
  rw [he, alive_next _ _ hs, dispatchOp_full hat hcause hfull]

/-- A breach of the loop structure is refused with cause 2 (R79). -/
theorem controlOp_loopRefused (hfield : ∀ w, fieldCause w i = none) (hat : atOp s c i = true)
    (hloop : loopCause (coreOf s c) i = some 2) :
    controlOp c h i effect s = opRefuse c (coreOf s c).pc.toNat (opcodeOf i) 2 s :=
  controlOp_refused hat (staticCause_of_loopCause hfield hloop)

theorem exec_loopRefused (he : exec i s = alive (controlOp c h i effect) s) (hs : Alive s)
    (hfield : ∀ w, fieldCause w i = none) (hat : atOp s c i = true) (hloop : loopCause (coreOf s c) i = some 2) :
    exec i s = .next (opRefuse c (coreOf s c).pc.toNat (opcodeOf i) 2 s) := by
  rw [he, alive_next _ _ hs, controlOp_loopRefused hfield hat hloop]

theorem exec_settledLoopRefused (he : exec i s = settle (controlOp c h i effect) s) (hs : Alive s)
    (hfield : ∀ w, fieldCause w i = none) (hat : atOp s c i = true) (hloop : loopCause (coreOf s c) i = some 2) :
    exec i s = .next (pumpColls (opRefuse c (coreOf s c).pc.toNat (opcodeOf i) 2 s)) := by
  rw [he, settle_next _ _ hs, controlOp_loopRefused hfield hat hloop]

end

end Sys2Proof.Machine
end

section
/-! SUPPORT. SETA, ADDA, NOP, LOOP and NEXT, and the words that spell no operation (R78, R79, R82, R83). -/
namespace Sys2Proof.Machine

/-! ### Address registers -/

theorem aReg_zero (x : Core) : aReg x 0 = 0 := rfl

theorem aReg_sset_self (x : Core) {r : Nat} (v : BitVec 20) (hr : r ≠ 0) :
    aReg { x with areg := sset 0 x.areg r v } r = v.toNat := by
  simp [aReg, hr]

theorem aReg_sset_ne (x : Core) {r k : Nat} (v : BitVec 20) (hk : k ≠ r) :
    aReg { x with areg := sset 0 x.areg r v } k = aReg x k := by
  simp [aReg, hk]

/-- An operation that is refused for the register A0 names another (R78). -/
theorem register_ne_zero {s : State} {c : Nat} {h : OpHdr} {i : Instr} {r : BitVec 4}
    (hfield : ∀ w, fieldCause w i = if r = 0 then some 4 else none) (hd : CanDispatch s c h i) : r.toNat ≠ 0 := by
  obtain ⟨-, -, hcause, -⟩ := hd
  obtain ⟨w, hw⟩ := fieldCause_of_staticCause hcause
  intro h0
  have hr : r = 0 := BitVec.eq_of_toNat_eq h0
  simp [hfield, hr] at hw

section
variable {c : Nat} {h : OpHdr} {s : State} (hn : ReadsOp s c ((coreOf s c).pc.toNat + 1))
include hn

theorem exec_nop (hd : CanDispatch s c h (.nop c h)) : exec (.nop c h) s = .next (nextOp c s) :=
  (exec_control rfl hd).trans (congrArg _ (advance_listed c s hn))

theorem exec_loop {k : BitVec 2} {n : BitVec 24} (hd : CanDispatch s c h (.loop c h k n)) :
    exec (.loop c h k n) s = .next (nextOp c
      (updCore c (fun x => { x with loops := x.loops ++ [⟨n.toNat + 1, (coreOf s c).pc.toNat + 1⟩] }) s)) :=
  (exec_control rfl hd).trans (congrArg _ (advance_updCore rfl rfl hn))

theorem exec_seta {r : BitVec 4} {v : BitVec 20} (hd : CanDispatch s c h (.seta c h r v)) :
    exec (.seta c h r v) s = .next (nextOp c (updCore c (fun x => { x with areg := sset 0 x.areg r.toNat v }) s)) :=
  (exec_control rfl hd).trans (congrArg _ (advance_updCore rfl rfl hn))

theorem exec_adda {r : BitVec 4} {v : BitVec 20} (hd : CanDispatch s c h (.adda c h r v)) :
    exec (.adda c h r v) s = .next (nextOp c (updCore c
      (fun x => { x with areg := sset 0 x.areg r.toNat (sget 0 (coreOf s c).areg r.toNat + v) }) s)) :=
  (exec_control rfl hd).trans (congrArg _ (advance_updCore rfl rfl hn))

end

/-- What the address registers read once one of them, not A0, has been written and the sequencer has gone on. -/
theorem registers_after_write (c : Nat) {r : Nat} (v : BitVec 20) (s : State) (hr : r ≠ 0) :
    let t := nextOp c (updCore c (fun x => { x with areg := sset 0 x.areg r v }) s)
    aReg (coreOf t c) r = v.toNat ∧ (∀ k, k ≠ r → aReg (coreOf t c) k = aReg (coreOf s c) k) ∧
      ∀ d, d ≠ c → coreOf t d = coreOf s d := by
  intro t
  have hc : coreOf t c =
      { coreOf s c with areg := sset 0 (coreOf s c).areg r v, pc := (coreOf s c).pc + 1 } := by
    rw [coreOf_nextOp_self, coreOf_updCore_self]
  refine ⟨?_, fun k hk => ?_, fun d hd => ?_⟩
  · rw [hc]; exact aReg_sset_self (coreOf s c) v hr
  · rw [hc]; exact aReg_sset_ne (coreOf s c) v hk
  · rw [coreOf_nextOp_ne _ hd, coreOf_updCore_ne _ _ _ _ hd]

/-- Settles O6: the register named is not A0, and the sequencer's going on changes no register. -/
theorem addressRegisters : Obligations.AddressRegisters := by
  intro c h r v s hn
  refine ⟨fun hd => ?_, fun hd => ?_, aReg_zero _⟩
  · exact ⟨_, exec_seta hn hd, registers_after_write c v s (register_ne_zero (fun _ => rfl) hd)⟩
  · have hr := register_ne_zero (fun _ => rfl) hd
    obtain ⟨hself, hother⟩ := registers_after_write c (sget 0 (coreOf s c).areg r.toNat + v) s hr
    refine ⟨_, exec_adda hn hd, hself.trans ?_, hother⟩
    rw [BitVec.toNat_add, aReg, if_neg hr]

/-! ### NEXT -/

section
variable {c : Nat} {h : OpHdr} {s : State} {k : BitVec 2} {l : LoopLevel} (hd : CanDispatch s c h (.next c h k))
  (hlast : (coreOf s c).loops.getLast? = some l)
include hd hlast

theorem exec_next_again (hcount : 1 < l.count) : exec (.next c h k) s =
    .next (updCore c (fun x => { x with pc := BitVec.ofNat 16 l.start })
      (updCore c (fun x => { x with loops := x.loops.dropLast ++ [{ l with count := l.count - 1 }] }) s)) := by
  refine (exec_control rfl hd).trans ?_
  simp only [doNext, hlast, if_pos hcount, jump]

theorem exec_next_close (hcount : l.count ≤ 1) (hn : ReadsOp s c ((coreOf s c).pc.toNat + 1)) : exec (.next c h k) s =
    .next (nextOp c (updCore c (fun x => { x with loops := x.loops.dropLast }) s)) := by
  refine (exec_control rfl hd).trans ?_
  simp only [doNext, hlast, if_neg (Nat.not_lt.2 hcount)]
  rw [advance_updCore rfl rfl hn]

end

/-! ### Refusals -/

/-- A program counter that reaches the program length is refused with cause 5 (R79). -/
theorem advance_past_end {c : Nat} {s : State} (hdisp : dispatching s c = true)
    (hend : (coreOf s c).progLen ≤ (coreOf s c).pc.toNat + 1) :
    advance c s = opRefuse c ((coreOf s c).pc.toNat + 1) 0 5 (nextOp c s) := by
  have hpc : updCore c (fun x => { x with pc := BitVec.ofNat 16 ((coreOf s c).pc.toNat + 1) }) s = nextOp c s := by
    have : BitVec.ofNat 16 ((coreOf s c).pc.toNat + 1) = (coreOf s c).pc + 1 := BitVec.eq_of_toNat_eq (by simp)
    simp only [nextOp, updCore, this]
  have hlen : (coreOf (nextOp c s) c).progLen = (coreOf s c).progLen := by rw [coreOf_nextOp_self]
  have hdisp' : dispatching (nextOp c s) c = true := by
    have hkern : kernelOnCore (nextOp c s) c = kernelOnCore s c := kernelOnCore_congr (by rw [coreOf_nextOp_self]) rfl
    rw [← hdisp, dispatching, dispatching, hkern, coreOf_nextOp_self]
  simp only [advance, hpc, reach, hdisp', hlen, if_pos hend, Bool.not_true, Bool.false_eq_true, if_false]

/-! ### Words -/

/-- A word spells an operation exactly when Table 4.5 lists its opcode. -/
theorem decodeOp_eq_none_iff (c w : Nat) : decodeOp c w = none ↔ w / 2 ^ 120 % 256 ∉ listedOpcodes := by
  unfold decodeOp
  generalize w / 2 ^ 120 % 256 = o
  split
  case h_41 => simp_all [listedOpcodes]
  all_goals simp [listedOpcodes]

/-- The example word of R83. -/
theorem decodeOp_example (c : Nat) : decodeOp c 0x11F01402023FC0000220200000000000 =
    some (.pass c { dep := 15, slack := 0 }
      { target := 0, swap := true, column := false, start := true, last := false, fuse := false, sfmt := 2, tfmt := 2
        rows1 := 255, base := 0, stride := 17, src := 0x10000 } []) := rfl

/-- Each of these thirteen forms changes nothing where its word does not stand at the program counter. -/
theorem exec_of_absent_word (c : Nat) (h : OpHdr) (s : State) (k : BitVec 2) (n : BitVec 24) (r ph : BitVec 4) (v : BitVec 20)
    (m : BitVec 16) (f : FlatF) (l : LoadF) (a : PassF) (d : DrainF) :
    ∀ i ∈ [Instr.nop c h, .loop c h k n, .next c h k, .seta c h r v, .adda c h r v, .waitq c h m, .yield c h, .phase c h ph,
        .vbin c h f, .load c h l, .pass c h a [], .drain c h d, .moveCopy c h n],
      decodeOp c (opWord s c (coreOf s c).pc.toNat) ≠ some i.asWord → exec i s = .next s := by
  simp only [List.forall_mem_cons]
  exact ⟨exec_controlAbsent rfl, exec_controlAbsent rfl, exec_controlAbsent rfl, exec_controlAbsent rfl,
    exec_controlAbsent rfl, exec_controlAbsent rfl, exec_controlAbsent rfl, exec_controlAbsent rfl, exec_queuedAbsent rfl,
    exec_queuedAbsent rfl, exec_queuedAbsent rfl, exec_queuedAbsent rfl, exec_queuedAbsent rfl, List.forall_mem_nil _⟩

/-- Settles O5: each clause is the equation of one operation, or of one check of R79 and R82. -/
theorem controlOperations : Obligations.ControlOperations := by
  refine ⟨fun c h s => ?_, exec_of_absent_word, decodeOp_eq_none_iff, decodeOp_example⟩
  refine ⟨fun hd hn => exec_nop hn hd, fun k n hd hn => exec_loop hn hd, fun k l hd hlast => ?_,
    fun r v hd hn => exec_seta hn hd, fun r v hd hn => exec_adda hn hd, fun hs => ?_, fun hd hend => ?_, fun _ _ _ => rfl⟩
  · exact ⟨exec_next_again hd hlast, exec_next_close hd hlast⟩
  · refine ⟨fun k n hat hlevel => ?_, fun k hat hlevel => ?_, fun hat hopen => ?_⟩
    · exact exec_loopRefused rfl hs (fun _ => rfl) hat (by simp [loopCause, hlevel])
    · exact exec_loopRefused rfl hs (fun _ => rfl) hat (by simp [loopCause, hlevel])
    · exact exec_settledLoopRefused rfl hs (fun _ => rfl) hat (by simp [loopCause, hopen])
  · exact (exec_control rfl hd).trans (congrArg _ (advance_past_end (dispatching_of_atOp hd.2.1) hend))

end Sys2Proof.Machine
end

section
/-! SUPPORT. WAITQ, YIELD, PHASE, COMMIT and END, stalls, and OPERATION_RETIRE (R76–R81, R129). -/
namespace Sys2Proof.Machine

/-! ### WAITQ -/

theorem doWaitq_met {c mask : Nat} {x : Core} {s : State}
    (h : ∀ q < 13, bitOf mask q = true → (queueAt x q).entries = []) : doWaitq c mask x s = advance c s := by
  refine if_neg (Bool.not_eq_true _ ▸ List.any_eq_false.2 fun q hq => ?_)
  by_cases hbit : bitOf mask q = true
  · simp [h q (List.mem_range.1 hq) hbit]
  · simp [hbit]

theorem doWaitq_unmet {c mask : Nat} {x : Core} {s : State}
    (h : ∃ q < 13, bitOf mask q = true ∧ (queueAt x q).entries ≠ []) : doWaitq c mask x s = s := by
  obtain ⟨q, hq, hbit, hne⟩ := h
  refine if_pos (List.any_eq_true.2 ⟨q, List.mem_range.2 hq, ?_⟩)
  simp [hbit, hne]

/-! ### YIELD -/

/-- A core at a yield point: the yield is counted, the function slots are unloaded and the record of the next operation stands
(R80). -/
def atYield (s : State) (c : Nat) : State :=
  odCount 0x2301 5 1 (updCore c (fun x =>
    { x with fslots := [], yieldRec := contextRecord s c ((coreOf s c).pc.toNat + 1) 0 }) s)

section
variable {c : Nat} {s : State}

theorem coreOf_atYield : coreOf (atYield s c) c =
    { coreOf s c with fslots := [], yieldRec := contextRecord s c ((coreOf s c).pc.toNat + 1) 0 } := by
  rw [atYield, coreOf_odCount, coreOf_updCore_self]

theorem kernelOnCore_atYield : kernelOnCore (atYield s c) c = kernelOnCore s c :=
  kernelOnCore_congr (by rw [coreOf_atYield]) rfl

theorem doYield_waits {idx : Nat} (hq : queuesEmpty (coreOf s c) = false) : doYield c (coreOf s c) idx s = s := by
  simp [doYield, hq]

theorem readsOp_atYield (hn : ReadsOp s c ((coreOf s c).pc.toNat + 1)) :
    ReadsOp (atYield s c) c ((coreOf (atYield s c) c).pc.toNat + 1) :=
  hn.congr (by rw [coreOf_atYield]) (by rw [coreOf_atYield]) (fun _ _ => rfl) rfl rfl

variable {k : Kernel} (hk : kernelOnCore s c = some k) (hq : queuesEmpty (coreOf s c) = true)
include hk hq

theorem doYield_empty : doYield c (coreOf s c) (coreOf s c).pc.toNat s =
    if k.phase = .stopping then
      saveIfStopped k.kid (advance c (updCore c (fun x => { x with yielded := true }) (atYield s c)))
    else advance c (atYield s c) := by
  have hk' := kernelOnCore_atYield.trans hk
  simp only [atYield] at hk' ⊢
  simp only [doYield, hq, Bool.not_true, Bool.false_eq_true, if_false, hk']

variable (hn : ReadsOp s c ((coreOf s c).pc.toNat + 1))
include hn

theorem doYield_goes_on (hp : k.phase ≠ .stopping) :
    doYield c (coreOf s c) (coreOf s c).pc.toNat s = nextOp c (atYield s c) := by
  rw [doYield_empty hk hq, if_neg hp, advance_listed c _ (readsOp_atYield hn), nextOp]

theorem doYield_stops (hp : k.phase = .stopping) : doYield c (coreOf s c) (coreOf s c).pc.toNat s =
    saveIfStopped k.kid (nextOp c (updCore c (fun x => { x with yielded := true }) (atYield s c))) := by
  rw [doYield_empty hk hq, if_pos hp, advance_updCore rfl rfl (readsOp_atYield hn)]

end

/-! ### PHASE -/

theorem enterPhase_owned {c ph p : Nat} {s : State} (hp : ownerOfCore s c = some p) :
    let x := coreOf s c
    enterPhase c ph s = updCore c (fun x => { x with phase := ph, phaseSince := s.time }) (updPanel p (fun y =>
      { y with phaseNs := sset 0 y.phaseNs x.phase ((sget 0 y.phaseNs x.phase + (s.time - x.phaseSince)) % 2 ^ 64) }) s) := by
  simp only [enterPhase, hp]
  rfl

/-- Settles O7: each operation's condition is the one that its effect tests, and none of them touches the program. -/
theorem waitYieldPhase : Obligations.WaitYieldPhase := by
  refine ⟨fun c h mask s hd => ⟨fun hmet hn => ?_, fun hwait => ?_⟩, fun c h s k hd hk => ?_, fun c h ph s p hd hn hp => ?_⟩
  · exact (exec_control rfl hd).trans (congrArg _ ((doWaitq_met hmet).trans (advance_listed c s hn)))
  · exact (exec_control rfl hd).trans (congrArg _ (doWaitq_unmet hwait))
  · refine ⟨fun hq => ?_, fun hq hn => ⟨fun hp => ?_, fun hp => ?_⟩⟩
    · exact (exec_control rfl hd).trans (congrArg _ (doYield_waits hq))
    · exact (exec_control rfl hd).trans (congrArg _ (doYield_goes_on hk hq hn hp))
    · exact (exec_control rfl hd).trans (congrArg _ (doYield_stops hk hq hn hp))
  · refine (exec_control rfl hd).trans (congrArg _ ?_)
    rw [enterPhase_owned hp]
    exact advance_updCore rfl rfl (hn.congr rfl rfl (fun _ _ => rfl) rfl rfl)

/-! ### COMMIT and END -/

theorem pc_putCommit (n : Nat) (v : CommitSave) (x : Core) : (putCommit n v x).pc = x.pc := by
  unfold putCommit; dsimp only; split <;> rfl

theorem progLen_putCommit (n : Nat) (v : CommitSave) (x : Core) : (putCommit n v x).progLen = x.progLen := by
  unfold putCommit; dsimp only; split <;> rfl

section
variable {c : Nat} {s : State} {k : Kernel} (hk : kernelOnCore s c = some k)
include hk

theorem doCommit_waits {idx : Nat} (hq : queuesEmpty (coreOf s c) = false) : doCommit c (coreOf s c) idx s = s := by
  simp [doCommit, panelOnCore_of_kernel hk, hq]

theorem doEnd_waits (hq : queuesEmpty (coreOf s c) = false) : doEnd c (coreOf s c) s = s := by
  simp [doEnd, hk, hq]

/-- COMMIT with empty queues: the record and the counts are saved once the spools are (R81, R208). -/
theorem doCommit_saves {idx : Nat} (hq : queuesEmpty (coreOf s c) = true) :
    let t := saveSpools c k.panel s
    let y := coreOf t c
    let v : CommitSave := { record := contextRecord t c (idx + 1) (y.commitSeq + 1), spoolP := y.spoolP
                            spoolC := y.spoolC, remote := y.remote, replay := y.replay }
    ReadsOp t c ((coreOf t c).pc.toNat + 1) → doCommit c (coreOf s c) idx s =
      pumpCores k.panel (nextOp c (odCount 0x2301 6 1 (updCore c (putCommit y.commitSeq v) t))) := by
  intro t y v hn
  simp only [doCommit, panelOnCore_of_kernel hk, hq, Bool.not_true, Bool.false_eq_true, if_false]
  exact congrArg _ (advance_odCount_updCore (pc_putCommit _ _ _) (progLen_putCommit _ _ _) hn)

theorem doEnd_ends (hq : queuesEmpty (coreOf s c) = true) : doEnd c (coreOf s c) s =
    pumpCores k.panel (saveIfStopped k.kid (enterPhase c 5
      (updCore c (fun x => { x with ended := true }) (saveSpools c k.panel s)))) := by
  simp only [doEnd, hk, hq, Bool.not_true, Bool.false_eq_true, if_false]

end

/-- Settles O8: with work in a queue the effect is none; with empty queues it is the one of R81 and R82. -/
theorem commitAndEnd : Obligations.CommitAndEnd := by
  intro c h s k hk
  refine ⟨fun hd hq => ?_, fun hd hq => ?_, fun hd hq => ?_, fun hd hq => ?_⟩
  · rw [exec_settledControl rfl hd, doCommit_waits hk hq]
  · rw [exec_settledControl rfl hd, doEnd_waits hk hq]
  · intro t y v hn
    rw [exec_settledControl rfl hd, doCommit_saves hk hq hn]
  · rw [exec_settledControl rfl hd, doEnd_ends hk hq]

/-! ### Retirement -/

theorem panelOnCore_countRetired (i : Instr) (s : State) (c : Nat) :
    panelOnCore (countRetired i s) c = panelOnCore s c := by
  unfold countRetired
  split
  · unfold countPass
    split <;> simp only [panelOnCore_odCount]
  · dsimp only
    split
    · rw [panelOnCore_odCount]
    · split
      · rw [panelOnCore_odCount]
      · rfl

section
variable {c q : Nat} {s : State} {e : QEntry} {rest : List QEntry} (hhead : (queueAt (coreOf s c) q).entries = e :: rest)
include hhead

theorem retireHead_unfinished (he : (e.started && e.ready) = false) : retireHead c q s = s := by
  simp [retireHead, hhead, he]

/-- A head whose effects are complete is taken off and counted, and what depends on it goes on (R77). -/
theorem retireHead_finished {p : Nat} (hp : panelOnCore s c = some p) (he : (e.started && e.ready) = true) :
    retireHead c q s = pumpCores p (pumpCore c pumpRounds (countRetired e.cmd (updQueue c q popHead s))) := by
  have hp' : panelOnCore (countRetired e.cmd (updQueue c q popHead s)) c = some p := by
    rw [panelOnCore_countRetired, panelOnCore, kernelOnCore_updQueue]
    exact hp
  simp only [retireHead, hhead, he, if_true, hp']

end

/-- Settles O9: a dependency or a queue that stalls dispatch is tested before the operation has any effect, and retirement looks at
the head alone. -/
theorem stallsAndRetirement : Obligations.StallsAndRetirement := by
  refine ⟨fun c h s hs => ⟨fun r v m ph => ?_, fun f hat hcause hfull => ?_, fun d hat hcause hfull => ?_⟩,
    fun c q s e rest p hs hp hhead => ⟨fun he => ?_, fun he => ?_⟩⟩
  · simp only [List.forall_mem_cons]
    exact ⟨exec_controlStalled rfl hs, exec_controlStalled rfl hs, exec_controlStalled rfl hs, exec_controlStalled rfl hs,
      exec_controlStalled rfl hs, exec_controlStalled rfl hs, List.forall_mem_nil _⟩
  · exact exec_queueFull rfl hs hat hcause hfull
  · exact exec_queueFull rfl hs hat hcause hfull
  · exact (settle_next _ s hs).trans (by rw [retireHead_unfinished hhead he])
  · exact (settle_next _ s hs).trans (by rw [retireHead_finished hhead hp he])

end Sys2Proof.Machine
end

section
/-! SUPPORT. The vector engine and the function engine (R85, R86, R88–R92). -/
namespace Sys2Proof.Machine

/-! ### The vector engine -/

/-- An operation of the vector engine whose operands are in bounds and whose operand a is there runs. -/
theorem withA_started {c p : Nat} {x : Core} {fmt : Byte} {a : BitVec 24} {sh : Shape} {ext : List (Nat × Nat)} {s s2 : State}
    {v : List Word32} {go : List Word32 → State → State} (hb : badOperand (ext ++ extA x fmt a sh.count) = none)
    (ha : operandA c p x fmt a sh s = some (v, s2)) : withA c p x fmt a sh ext s go = .started true (go v s2) := by
  simp only [withA, hb, ha]

/-- Settles O14: each operation is `withA` with its own extents and its own effect. -/
theorem vectorOperations : Obligations.VectorOperations := by
  refine ⟨fun c h f s s2 k v hk => ⟨?vbin, ?vfma, ?vun⟩, fun c h f s s2 k v hk => ⟨?vred, ?vrow, ?vsoft⟩⟩
  all_goals
    dsimp only
    intro hr hb ha
    exact engine_begins trivial rfl hr hk (withA_started hb ha)

/-- A mask whose positions fit 24 bits is applied (R90). -/
theorem startVMask_started {c p : Nat} {x : Core} {f : RowF} {s s2 : State} {v : List Word32} :
    let M := f.rows1.toNat + 1
    let len := f.len1.toNat + 1
    let ra := caAddr x f.b
    let pq := storeNat s c ra 3
    let pk := storeNat s c (ra + 4) 3
    let w := storeNat s c (ra + 8) 3
    badOperand ([(ra, 16), (caAddr x f.dst, M * len * vecBytes f.fmt)] ++ extA x f.fmt f.a (M * len)) = none →
      pq + M - 1 ≤ 16777215 → pk + len - 1 ≤ 16777215 → operandA c p x f.fmt f.a (.rows M len) s = some (v, s2) →
      startVMask c p x f s = .started true (vecWrite c f.fmt (caAddr x f.dst) ((List.range M).flatMap fun i =>
        (List.range len).map fun j =>
          if masked (f.subop = 1) pq pk w i j then rne32 (.inf true) else canon32 (v.getD (i * len + j) 0)) s2) := by
  dsimp only
  intro hb hq hk ha
  simp only [startVMask, hb, if_neg (Nat.not_lt.2 hq), if_neg (Nat.not_lt.2 hk), ha]

theorem startVScan_started {c : Nat} {x : Core} {f : ScanF} {s : State} :
    let n := f.width1.toNat + 1
    let T := f.steps1.toNat + 1
    let w := n * vecBytes f.fmt
    let r := scanSteps c f.fmt n (caAddr x f.src) (caAddr x f.dst) T (vecRead s c f.fmt (caAddr x f.state) n) s
    badOperand [(caAddr x f.dst, T * w), (caAddr x f.src, 2 * T * w), (caAddr x f.state, w)] = none →
      startVScan c x f s = .started true (vecWrite c f.fmt (caAddr x f.state) r.1 r.2) := by
  dsimp only
  intro hb
  simp only [startVScan, hb]

/-! ### The function engine -/

theorem startFLoad_started {c : Nat} {x : Core} {slot : BitVec 4} {image : BitVec 24} {s : State}
    (hb : badOperand [(caAddr x image, imageSize)] = none) :
    startFLoad c x slot image s = .started true (updCore c (fun y =>
      { y with fslots := y.fslots.filter (·.1 != slot.toNat) ++ [(slot.toNat, storeRead s c (caAddr x image) imageSize)] })
        s) := by
  simp only [startFLoad, hb]

/-- An operation of the function engine whose operands are in bounds runs. -/
theorem withStored_started {c : Nat} {x : Core} {fmt : Byte} {a : BitVec 24} {n : Nat} {ext : List (Nat × Nat)} {s : State}
    {go : List Word32 → State → State} (hb : badOperand (ext ++ [(caAddr x a, n * vecBytes fmt)]) = none) :
    withStored c x fmt a n ext s go = .started true (go (vecRead s c fmt (caAddr x a) n) s) := by
  simp only [withStored, hb]

section
variable {c idx : Nat} {x : Core} {f : FlatF} {s : State} {b : Bytes} (hslot : slotImage (coreOf s c) f.subop.toNat = some b)
include hslot

theorem startFEval_started :
    let n := f.n1.toNat + 1
    badOperand [(caAddr x f.dst, n * vecBytes f.fmt), (caAddr x f.a, n * vecBytes f.fmt)] = none →
      startFEval c x f idx s = .started true (odCount 0x2301 8 n
        (vecWrite c f.fmt (caAddr x f.dst) ((vecRead s c f.fmt (caAddr x f.a) n).map (evalTable b false)) s)) := by
  intro n hb
  simp only [startFEval, hslot]
  exact withStored_started hb

theorem startFDeriv_started :
    let n := f.n1.toNat + 1
    let w := n * vecBytes f.fmt
    badOperand [(caAddr x f.dst, w), (caAddr x f.b, w), (caAddr x f.a, w)] = none →
      startFDeriv c x f idx s = .started true (odCount 0x2301 8 n (odCount 0x2401 3 n (vecWrite c f.fmt (caAddr x f.dst)
        (List.zipWith (fun a g => mul32 (evalTable b true a) g) (vecRead s c f.fmt (caAddr x f.a) n)
          (vecRead s c f.fmt (caAddr x f.b) n)) s))) := by
  intro n w hb
  simp only [startFDeriv, hslot]
  exact withStored_started hb

end

/-- Settles O15: the statement's hypotheses are the checks at the start of each operation. -/
theorem masksScansFunctions : Obligations.MasksScansFunctions := by
  refine ⟨⟨?vmask, ?vscan⟩, fun c h s k hk => ⟨?fload, ?feval, ?fderiv⟩⟩
  case vmask =>
    intro c h f s s2 k v hk M len i s1 x ra pq pk w hr hb hq hpk ha
    exact engine_begins trivial rfl hr hk (startVMask_started hb hq hpk ha)
  case vscan =>
    intro c h f s k hk i s1 x n T w r hr hb
    exact engine_begins trivial rfl hr hk (startVScan_started hb)
  case fload =>
    intro slot image i s1 a hr hb
    exact engine_begins trivial rfl hr hk (startFLoad_started hb)
  case feval =>
    intro f b i s1 x n hr hslot hb
    exact engine_begins trivial rfl hr hk (startFEval_started hslot hb)
  case fderiv =>
    intro f b i s1 x n w hr hslot hb
    exact engine_begins trivial rfl hr hk (startFDeriv_started hslot hb)

end Sys2Proof.Machine
end

section
/-! SUPPORT. The frame of VBIN, VFMA and VUN (R78, R85). -/
namespace Sys2Proof.Machine

/-! ### Stores below Root -/

/-- No Root line of an earlier key lies below Root (R235). -/
def OldInRoot (s : State) : Prop := ∀ r ∈ s.rootOld, rootBase ≤ r.lo

theorem oldAt_below {s : State} {a : Nat} (hold : OldInRoot s) (ha : a < rootBase) : oldAt s a = none :=
  List.find?_eq_none.2 fun r hr => by simp [Nat.not_le.2 (Nat.lt_of_lt_of_le ha (hold r hr))]

theorem keepLine_below {s : State} {u : Nat} (hold : OldInRoot s) (hu : u < rootBase) : keepLine u s = s := by
  simp [keepLine, oldAt_below hold hu]

theorem cutOld_below {lo hi : Nat} {l : List OldKey} (hl : ∀ r ∈ l, hi ≤ r.lo) : cutOld lo hi l = l := by
  induction l with
  | nil => rfl
  | cons r l ih =>
    have hr : hi ≤ r.lo := hl r List.mem_cons_self
    rw [cutOld, List.flatMap_cons, if_pos (by simp [hr])]
    exact congrArg (r :: ·) (ih fun q hq => hl q (List.mem_cons_of_mem r hq))

/-- A write below Root meets no line under an earlier key. -/
theorem rekeyLines_below {s : State} {a n : Nat} (hold : OldInRoot s) (h : a + n ≤ rootBase) : rekeyLines a n s = s := by
  unfold rekeyLines
  split
  · rfl
  case isFalse hne =>
    have hn : n ≠ 0 := fun h0 => hne (by simp [h0])
    have hlast : (a + n - 1) / 256 * 256 + 256 ≤ rootBase := by
      have hroot : rootBase = 256 * 0x10_0000_0000 := rfl
      omega
    have hfirst : a / 256 * 256 < rootBase := by omega
    have hcut : cutOld (a / 256 * 256) ((a + n - 1) / 256 * 256 + 256) s.rootOld = s.rootOld :=
      cutOld_below fun r hr => Nat.le_trans hlast (hold r hr)
    have hline : (a + n - 1) / 256 * 256 < rootBase := Nat.lt_of_lt_of_le (Nat.lt_add_of_pos_right (by decide)) hlast
    simp only [keepLine_below hold hfirst, keepLine_below hold hline, hcut]

/-- What a store below Root does: the bytes named change, and bad data that it covers whole is good again. -/
theorem storeBytes_below {s : State} {a : Nat} {b : Bytes} (hold : OldInRoot s) (ha : a < rootBase)
    (h : a + b.length ≤ rootBase) : storeBytes a b s = { s with
      mem := memWrite s.mem a b
      lostLines := s.lostLines.filter fun u => !(a ≤ u && u + unitLen u ≤ a + b.length)
      badWords := s.badWords.filter fun u => !(a ≤ u && u + 8 ≤ a + b.length) } := by
  have hcrown : inRoot a = false := by simp [inRoot, Nat.not_le.2 ha]
  unfold storeBytes
  rw [rekeyLines_below hold h, if_neg (by simp [portKeepsNone, portGone, hcrown])]
  simp only [raiseCounters_crown _ _ _ hcrown, heal]

/-! ### What an operation on core c's store leaves alone -/

/-- From s to t, memory changes in [lo, lo + n) alone, no core changes but c, and core c keeps its place, its program, its address
registers and its loops. -/
structure CoreFrame (c lo n : Nat) (s t : State) : Prop where
  bytes : ∀ a, a < lo ∨ lo + n ≤ a → memByte t.mem a = memByte s.mem a
  rootOld : t.rootOld = s.rootOld
  badWords : s.badWords = [] → t.badWords = []
  others : ∀ d, d ≠ c → coreOf t d = coreOf s d
  panels : t.panels = s.panels
  knots : t.knots = s.knots
  od : t.od = s.od
  kernels : t.kernels = s.kernels
  pc : (coreOf t c).pc = (coreOf s c).pc
  progLen : (coreOf t c).progLen = (coreOf s c).progLen
  areg : (coreOf t c).areg = (coreOf s c).areg
  loops : (coreOf t c).loops = (coreOf s c).loops

section
variable {c lo n : Nat} {s t u : State}

theorem CoreFrame.trans (h : CoreFrame c lo n s t) (k : CoreFrame c lo n t u) : CoreFrame c lo n s u where
  bytes a ha := (k.bytes a ha).trans (h.bytes a ha)
  rootOld := k.rootOld.trans h.rootOld
  badWords hb := k.badWords (h.badWords hb)
  others d hd := (k.others d hd).trans (h.others d hd)
  panels := k.panels.trans h.panels
  knots := k.knots.trans h.knots
  od := k.od.trans h.od
  kernels := k.kernels.trans h.kernels
  pc := k.pc.trans h.pc
  progLen := k.progLen.trans h.progLen
  areg := k.areg.trans h.areg
  loops := k.loops.trans h.loops

theorem coreFrame_updCore {f : Core → Core} (hpc : ∀ x, (f x).pc = x.pc) (hlen : ∀ x, (f x).progLen = x.progLen)
    (hareg : ∀ x, (f x).areg = x.areg) (hloops : ∀ x, (f x).loops = x.loops) : CoreFrame c lo n s (updCore c f s) where
  bytes _ _ := rfl
  rootOld := rfl
  badWords := id
  others d hd := coreOf_updCore_ne c d f s hd
  panels := rfl
  knots := rfl
  od := rfl
  kernels := rfl
  pc := by rw [coreOf_updCore_self, hpc]
  progLen := by rw [coreOf_updCore_self, hlen]
  areg := by rw [coreOf_updCore_self, hareg]
  loops := by rw [coreOf_updCore_self, hloops]

theorem coreFrame_updQueue (q : Nat) (f : Queue → Queue) : CoreFrame c lo n s (updQueue c q f s) :=
  coreFrame_updCore (fun _ => rfl) (fun _ => rfl) (fun _ => rfl) fun _ => rfl

theorem coreFrame_taint (p : Nat) : CoreFrame c lo n s (taint p s) :=
  ⟨fun _ _ => rfl, rfl, id, fun _ _ => rfl, rfl, rfl, rfl, rfl, rfl, rfl, rfl, rfl⟩

/-- Operand a is as long as asked for, and taking it is the core's own affair. -/
theorem operandA_frame {p : Nat} {x : Core} {fmt : Byte} {a : BitVec 24} {sh : Shape} {v : List Word32}
    (h : operandA c p x fmt a sh s = some (v, t)) : v.length = sh.count ∧ CoreFrame c lo n s t := by
  unfold operandA at h
  dsimp only at h
  split at h
  · split at h
    · exact nomatch h
    · obtain ⟨rfl, rfl⟩ := Prod.mk.inj (Option.some.inj h)
      refine ⟨by simp, ?_⟩
      have htaken : ∀ rest, CoreFrame c lo n s (updCore c (fun y => { y with drained := rest }) s) := fun rest =>
        coreFrame_updCore (fun _ => rfl) (fun _ => rfl) (fun _ => rfl) fun _ => rfl
      split
      · exact htaken _
      · exact (htaken _).trans (coreFrame_taint p)
  · obtain ⟨rfl, rfl⟩ := Prod.mk.inj (Option.some.inj h)
    exact ⟨by simp [vecRead], fun _ _ => rfl, rfl, id, fun _ _ => rfl, rfl, rfl, rfl, rfl, rfl, rfl, rfl, rfl⟩

theorem coreFrame_storeBytes {a : Nat} {b : Bytes} (hold : OldInRoot s) (ha : a < rootBase)
    (h : a + b.length ≤ rootBase) : CoreFrame c a b.length s (storeBytes a b s) := by
  rw [storeBytes_below hold ha h]
  exact ⟨fun j hj => memByte_memWrite_out s.mem a j b hj, rfl, fun hb => by simp [hb], fun _ _ => rfl, rfl, rfl, rfl, rfl, rfl,
    rfl, rfl, rfl⟩

end

/-! ### Vector results -/

/-- The store of a core of the part lies below Root (R16). -/
theorem coreStore_below {c a : Nat} (hc : c < 128) (ha : a ≤ storeSize) : coreStore c + a < rootBase := by
  unfold coreStore storeBase slotSize rootBase
  unfold storeSize at ha
  omega

theorem vecBytes_pos (fmt : Byte) : 0 < vecBytes fmt := by
  unfold vecBytes
  split <;> decide

/-- A destination that the check of R78 passes ends below the program window. -/
theorem destination_ends {dst w : Nat} {l : List (Nat × Nat)} (hw : 0 < w) (h : badOperand ((dst, w) :: l) = none) :
    dst + w ≤ programOffset := by
  simp only [badOperand, Option.map_eq_none_iff, List.find?_eq_none] at h
  have hok := h (dst, w) List.mem_cons_self
  simp only [caOk, ne_eq, Nat.ne_of_gt hw, not_false_eq_true, decide_true, Bool.true_and, Bool.not_eq_true', Bool.not_eq_false,
    Bool.and_eq_true, decide_eq_true_eq] at hok
  exact hok.1

theorem flatMap_toLe_length {α : Type} (n : Nat) (code : α → Nat) (l : List α) :
    (l.flatMap fun w => toLe n (code w)).length = l.length * n := by
  induction l with
  | nil => rw [List.flatMap_nil, List.length_nil, List.length_nil, Nat.zero_mul]
  | cons w l ih => rw [List.flatMap_cons, List.length_append, toLe_length, ih, List.length_cons, Nat.succ_mul, Nat.add_comm]

theorem vecWrite_frame {c dst : Nat} {fmt : Byte} {l : List Word32} {s : State} (hc : c < 128) (hold : OldInRoot s)
    (hdst : dst + l.length * vecBytes fmt ≤ programOffset) :
    CoreFrame c (coreStore c + dst) (l.length * vecBytes fmt) s (vecWrite c fmt dst l s) := by
  have hlen : (l.flatMap fun w => toLe (vecBytes fmt) (vecPack fmt w)).length = l.length * vecBytes fmt :=
    flatMap_toLe_length (vecBytes fmt) (vecPack fmt) l
  have htop : programOffset ≤ storeSize := by decide
  have hend := coreStore_below hc (Nat.le_trans hdst htop)
  unfold vecWrite storeWrite
  rw [← hlen] at hend ⊢
  exact coreFrame_storeBytes hold (by omega) (by omega)

theorem caAddr_enqueued (c : Nat) (h : OpHdr) (i : Instr) (s : State) (ca : BitVec 24) :
    caAddr (coreOf (enqueued c h i s) c) ca = caAddr (coreOf s c) ca := by
  simp only [caAddr, aReg, areg_enqueued]

theorem extA_enqueued (c : Nat) (h : OpHdr) (i : Instr) (s : State) (fmt : Byte) (a : BitVec 24) (n : Nat) :
    extA (coreOf (enqueued c h i s) c) fmt a n = extA (coreOf s c) fmt a n := by
  simp only [extA, caAddr_enqueued]

section
variable {c : Nat} {h : OpHdr} {f : FlatF} {s s2 : State} {v : List Word32} (hc : c < 128) (hold : OldInRoot s)
include hc hold

/-- A flat operation that begins with one result for each element changes its destination and its core alone. -/
theorem flat_frame {p : Nat} {i : Instr} {l : List Word32} {ext : List (Nat × Nat)} :
    let x := coreOf (enqueued c h i s) c
    let n := f.n1.toNat + 1
    let w := n * vecBytes f.fmt
    let dst := caAddr (coreOf s c) f.dst
    s.badWords = [] → badOperand ((dst, w) :: ext) = none →
      operandA c p x f.fmt f.a (.flat n) (enqueued c h i s) = some (v, s2) → l.length = n →
      ReadsOp s c ((coreOf s c).pc.toNat + 1) → Begins s c i true (vecWrite c f.fmt (caAddr x f.dst) l s2) →
      ∃ u, exec i s = .next (nextOp c u) ∧ CoreFrame c (coreStore c + dst) w s u := by
  intro x n w dst hbad hb ha hlen hn hbegins
  rw [caAddr_enqueued] at hbegins
  have hdst : dst + w ≤ programOffset := destination_ends (Nat.mul_pos (Nat.succ_pos _) (vecBytes_pos f.fmt)) hb
  have htaken : CoreFrame c (coreStore c + dst) w s s2 := (coreFrame_updQueue (queueOf i) _).trans (operandA_frame ha).2
  have hwrite : CoreFrame c (coreStore c + dst) w s (vecWrite c f.fmt dst l s2) := by
    have hold2 : OldInRoot s2 := by rw [OldInRoot, htaken.rootOld]; exact hold
    have hw : w = l.length * vecBytes f.fmt := by rw [hlen]
    rw [hw] at hdst htaken ⊢
    exact htaken.trans (vecWrite_frame hc hold2 hdst)
  have hnext := hn.congr (congrArg (·.toNat + 1) hwrite.pc) hwrite.progLen (fun a ha => hwrite.bytes a (.inr (by omega)))
    hwrite.rootOld ((hwrite.badWords hbad).trans hbad.symm)
  exact ⟨_, hbegins hnext, hwrite.trans (coreFrame_updQueue _ _)⟩

/-- What O16 says holds on a core of the part (Table 1.1) while the lines under keys that are gone all lie in Root. -/
theorem flatOperations_frame {k : Kernel} (hk : kernelOnCore s c = some k) :
    let n := f.n1.toNat + 1
    let w := n * vecBytes f.fmt
    let x := coreOf s c
    let dst := caAddr x f.dst
    ∀ e ∈ [(Instr.vbin c h f, if f.subop = 5 then [] else [(caAddr x f.b, w)]), (.vfma c h f, [(caAddr x f.b, w)]),
        (.vun c h f, [])],
      let s1 := enqueued c h e.1 s
      OpReady s c h e.1 → badOperand ((dst, w) :: e.2 ++ extA x f.fmt f.a n) = none →
        operandA c k.panel (coreOf s1 c) f.fmt f.a (.flat n) s1 = some (v, s2) → ReadsOp s c (x.pc.toNat + 1) →
        ∃ u, exec e.1 s = .next (nextOp c u) ∧ CoreFrame c (coreStore c + dst) w s u := by
  obtain ⟨hbin, hfma, hun⟩ := vectorOperations.1 c h f s s2 k v hk
  simp only [caAddr_enqueued, extA_enqueued] at hbin hfma hun
  have hv : ∀ {i}, operandA c k.panel (coreOf (enqueued c h i s) c) f.fmt f.a (.flat (f.n1.toNat + 1))
      (enqueued c h i s) = some (v, s2) → v.length = f.n1.toNat + 1 := fun ha => (operandA_frame (lo := 0) (n := 0) ha).1
  dsimp only
  simp only [List.forall_mem_cons]
  refine ⟨fun hr hb ha hn => ?vbin, fun hr hb ha hn => ?vfma, fun hr hb ha hn => ?vun, List.forall_mem_nil _⟩
  case vbin =>
    refine flat_frame hc hold hr.2.2 hb ha ?_ hn (by rw [caAddr_enqueued]; exact hbin hr hb ha)
    split <;> simp [hv ha, vecRead]
  case vfma =>
    refine flat_frame hc hold hr.2.2 hb ha ?_ hn (by rw [caAddr_enqueued]; exact hfma hr hb ha)
    simp [hv ha, vecRead]
  case vun =>
    refine flat_frame hc hold hr.2.2 hb ha ?_ hn (by rw [caAddr_enqueued]; exact hun hr hb ha)
    simp [hv ha]

end

/-! ### A core number beyond the part -/

/-- No core of the part: the number whose store the formula of R16 places at the first byte of Root. -/
def strayCore : Nat := 116509

theorem coreStore_strayCore : coreStore strayCore = rootBase := by decide

/-- A ROOT entry in full mode over port 0, whose page counters begin at address 0. -/
def countedRegion : Region :=
  { valid := true, kind := 2, rights := 3, base := rootBase, limit := rootBase + 0x3FF_FFFF_FFFF, rootMode := 1, ctrBase := 0 }

/-- VUN of one binary32 element from the start of the store to the start of the store. -/
def strayOp : FlatF := { subop := 0, fmt := 0x21, n1 := 0, dst := 0, a := 0, b := 0 }

/-- That operation at the front of the stray core's program, in a module with Root port 0 up and that region in panel 0. -/
def strayState : State :=
  { State.reset with
    startup := { State.reset.startup with phase := .step 5 }
    mem := memWrite [] (coreStore strayCore + programOffset) (toLe 16 0x22F00210000000000000000000000000)
    root := { State.reset.root with ports := [(0, { st := 1 })] }
    panels := [(0, { st := .open, regions := [(0, countedRegion)] })]
    cores := [(strayCore, { kid := 1, progLen := 2 })], kernels := [landingKernel] }

def strayHdr : OpHdr := ⟨15, 0⟩

/-- The byte at address 0 of the next state. -/
def firstByte : Host.Outcome State Fault Refusal → Byte
  | .next t => memByte t.mem 0
  | _ => 0

theorem firstByte_stray : firstByte (exec (.vun strayCore strayHdr strayOp) strayState) = 1 := by decide +kernel

theorem opReady_stray : OpReady strayState strayCore strayHdr (.vun strayCore strayHdr strayOp) := by
  simp only [OpReady, CanDispatch, Alive]; and_intros <;> decide +kernel

theorem readsOp_stray : ReadsOp strayState strayCore ((coreOf strayState strayCore).pc.toNat + 1) := by
  simp only [ReadsOp]; and_intros <;> decide +kernel

/-- Refutes O16: its core number has no bound, and a store to the "core store" of a core beyond the part lands in Root, where it
raises the page counter of its line (R236), which is no byte of the destination. `flatOperations_frame` is what holds. -/
theorem not_vectorFrame : ¬ Obligations.VectorFrame := by
  intro h
  obtain ⟨t, hexec, -, hframe, -⟩ := h strayCore strayHdr strayOp strayState _ landingKernel _ rfl
    (.vun strayCore strayHdr strayOp, []) (by simp) opReady_stray (by decide +kernel) rfl readsOp_stray
  have hbyte := firstByte_stray
  rw [hexec] at hbyte
  have hkept : memByte t.mem 0 = 0 := (hframe 0 (.inl (by decide +kernel))).trans (by decide +kernel)
  exact absurd (hkept.symm.trans hbyte) (by decide)

end Sys2Proof.Machine
end

section
/-! SUPPORT. What a hub does with the record at the head of a ring, and in D0 and D1 at all (R298, R356), and what a read of its
own meets (R134, R157). -/
namespace Sys2Proof.Machine

/-! ### The record at a ring's head -/

theorem atD0_ready {s : State} (hs : HubReady s) (f : State → State) : atD0 f s = f s := by
  obtain ⟨-, hrun, hd⟩ := hs
  simp [atD0, hrun, hd]

theorem atD1_awake {s : State} (hs : HubAwake s) (f : State → State) : atD1 f s = f s := by
  obtain ⟨-, hrun, hd⟩ := hs
  simp [atD1, hrun, hd]

theorem withRec_head {h r : Nat} {s : State} {c : Rec} {pick : Rec → Bool} {f : Rec → State → State}
    (hhead : headRec s h r = some c) (hpick : pick c = true) : withRec h r pick f s = f c s := by
  simp only [withRec, hhead, hpick, if_true]

/-- A record command whose record stands at the head of its ring has that record's effect. -/
theorem exec_atHead {i : Instr} {h r : Nat} {s t : State} {c : Rec} {pick : Rec → Bool} {f : Rec → State → State}
    (he : exec i s = settle (atD0 (withRec h r pick f)) s) (hc : AtHead s h r c) (hpick : pick c = true) (hf : f c s = t) :
    exec i s = .next (pumpColls t) := by
  obtain ⟨hready, hhead⟩ := hc
  rw [he, settle_next _ _ hready.1, atD0_ready hready, withRec_head hhead hpick, hf]

/-- A command of the hubs has its effect in D1 too. -/
theorem exec_hubAwake {i : Instr} {s t : State} {f : State → State} (he : exec i s = settle (atD1 f) s) (hs : HubAwake s)
    (hf : f s = t) : exec i s = .next (pumpColls t) := by
  rw [he, settle_next _ _ hs.1, atD1_awake hs, hf]

/-! ### What counting leaves alone -/

@[simp] theorem odCount_mem (i k n : Nat) (s : State) : (odCount i k n s).mem = s.mem := by
  unfold odCount
  split <;> rfl

@[simp] theorem odCount_rootOld (i k n : Nat) (s : State) : (odCount i k n s).rootOld = s.rootOld := by
  unfold odCount
  split <;> rfl

@[simp] theorem odCount_panels (i k n : Nat) (s : State) : (odCount i k n s).panels = s.panels := by
  unfold odCount
  split <;> rfl

@[simp] theorem panelOf_odCount (i k n p : Nat) (s : State) : panelOf (odCount i k n s) p = panelOf s p := by
  rw [panelOf, panelOf, odCount_panels]

@[simp] theorem readBytes_odCount (i k n a m : Nat) (s : State) : readBytes (odCount i k n s) a m = readBytes s a m :=
  readBytes_congr (odCount_rootOld i k n s) fun _ _ => by rw [odCount_mem]

@[simp] theorem readNat_odCount (i k n a m : Nat) (s : State) : readNat (odCount i k n s) a m = readNat s a m := by
  rw [readNat, readNat, readBytes_odCount]

@[simp] theorem snapEntry_odCount (i k n a : Nat) (s : State) : snapEntry (odCount i k n s) a = snapEntry s a := by
  simp only [snapEntry, readNat_odCount, readBytes_odCount]

/-- The kind of a panel is no counter below the panels' blocks. -/
theorem secure_odCount {i k : Nat} (hi : i < 0x4000) (hk : k < 256) (n p : Nat) (s : State) :
    secure (odCount i k n s) p = secure s p := by
  have hkey : odKey (panelIdx p 0) 1 ≠ odKey i k := by unfold odKey panelIdx; omega
  simp only [secure, panelKind, odGet_odCount_ne i k n _ _ s hkey]

/-! ### What a hub's read meets -/

/-- A hub that meets no bad unit has only counted the lines of ports that are down, which it reconstructed as it read. -/
theorem hubMeets_none {areas : List (Nat × Nat)} {s u : State} (h : hubMeets areas s = (none, u)) :
    ∃ n, u = odCount 0x2601 6 n s := by
  unfold hubMeets at h
  split at h
  · exact nomatch h
  · dsimp only at h
    split at h
    · exact nomatch h
    · exact ⟨_, (Prod.mk.inj h).2.symm⟩

end Sys2Proof.Machine
end

section
/-! SUPPORT. Snapshots (R132–R135) and the ring records of training (R116, R132, R136, R156, R163). -/
namespace Sys2Proof.Machine

/-- Settles O29: the read of the tensor can only raise a counter of Root before the entry is formed, so that the panel's key and
kind and the bytes of the entry are those of the state before it. -/
theorem snapshots : Obligations.Snapshots := by
  intro p s n hs hsnap
  refine ⟨?entry, ?timeout⟩
  case entry =>
    dsimp only
    intro hout hmore hfab hknot hstep hread u hmeets
    obtain ⟨lines, rfl⟩ := hubMeets_none hmeets
    refine exec_hubAwake rfl hs ?_
    simp [doSnapEntry, hsnap, hout, Nat.not_le.2 hmore, hfab, hknot, Nat.not_lt.2 hstep, hread, hmeets, secure_odCount]
  case timeout =>
    refine exec_hubAwake rfl hs ?_
    simp only [abandonSnap, hsnap]

/-- Settles O45: each command's record is the one at the head of its ring, and the branches of its meaning are the statement's
cases. -/
theorem trainingRecords : Obligations.TrainingRecords := by
  intro h r s c hc
  refine ⟨?schedule, ?scheduleNull, ?snapshot, ?graft, ?graftRelease, ?window, ?windowStop, ?table, ?tableRelease⟩
  case schedule =>
    intro ht
    dsimp only
    intro hnull hgrants hmagic hzero
    exact exec_atHead rfl hc (by simp [ht]) (by simp [hnull, hgrants, hmagic, hzero])
  case scheduleNull =>
    intro ht hnull
    exact exec_atHead rfl hc (by simp [ht]) (by simp [hnull])
  case snapshot =>
    intro ht hidle
    refine ⟨fun hgood => ?_, fun cause hbad => ?_⟩
    · exact exec_atHead rfl hc (by simp [ht]) (by simp [hidle, hgood])
    · exact exec_atHead rfl hc (by simp [ht]) (by simp [hidle, hbad])
  case graft =>
    intro ht hop
    refine ⟨fun hgood => ?_, fun cause hbad => ?_⟩
    · exact exec_atHead rfl hc (by simp [ht, hop]) (by simp [hop, hgood])
    · exact exec_atHead rfl hc (by simp [ht, hop]) (by simp [hop, hbad])
  case graftRelease =>
    intro ht hop
    exact exec_atHead rfl hc (by simp [ht, hop]) rfl
  case window =>
    intro ht hop
    dsimp only
    refine ⟨fun hgood => ?_, fun cause hbad => ?_⟩
    · exact exec_atHead rfl hc (by simp [ht, hop]) (by simp [hop, hgood])
    · exact exec_atHead rfl hc (by simp [ht, hop]) (by simp [hop, hbad])
  case windowStop =>
    intro ht hop
    exact exec_atHead rfl hc (by simp [ht, hop]) rfl
  case table =>
    intro ht hop
    refine ⟨fun hgood => ?_, fun cause hbad => ?_⟩
    · exact exec_atHead rfl hc (by simp [ht, hop]) (by simp [hop, hgood])
    · exact exec_atHead rfl hc (by simp [ht, hop]) (by simp [hop, hbad])
  case tableRelease =>
    intro ht hop
    refine ⟨fun howner => ?_, fun hother => ?_⟩
    · exact exec_atHead rfl hc (by simp [ht, hop]) (if_pos howner)
    · exact exec_atHead rfl hc (by simp [ht, hop]) (if_neg hother)

end Sys2Proof.Machine
end

section
/-! SUPPORT. A MOVE or STREAM that starts (R171–R174, R188, R274). -/
namespace Sys2Proof.Machine

/-- The move that an accepted descriptor at operand ca of core c makes, begun at the run that its cursor names. -/
def acceptedMove (s : State) (c : Nat) (x : Core) (ca : BitVec 24) (channel : Option Nat) : Move :=
  let d := (readDesc s c (caAddr x ca)).1
  let L := (resumeRun s c d (readDesc s c (caAddr x ca)).2).getD 0
  let y := coreOf s c
  { id := y.nextMove, kid := y.kid, ca := ca.toNat, d := d, channel := channel, pos := L * d.n0, landed := L * d.n0
    recorded := max (L / 2 ^ d.chunk) (if y.replaying then sget 0 y.recCounts d.xfer else 0)
    finalRec := !d.records || (y.replaying && d.chunks ≤ sget 0 y.recCounts d.xfer)
    parked := none, fault := none, faultNo := none, stopped := false, hostlost := false
    send := if d.kind = 5 then some (sendRec s (shiftAddrOn s c d.dst)) else none
    data := [], handed := false, done := false }

/-- A MOVE or STREAM whose descriptor, and whose send record if it is a SEND, pass their checks is its core's next move. -/
theorem startMove_started {c p : Nat} {x : Core} {ca : BitVec 24} {channel : Option Nat} {s : State}
    (hb : badOperand [(caAddr x ca, 64)] = none)
    (hd : descCause s c p (readDesc s c (caAddr x ca)).1 (readDesc s c (caAddr x ca)).2 channel.isSome = none)
    (hsend : (readDesc s c (caAddr x ca)).1.kind = 5 →
      grants s p false (shiftAddrOn s c (readDesc s c (caAddr x ca)).1.dst) 32 = true ∧
      sendCause s p (readDesc s c (caAddr x ca)).1 (sendRec s (shiftAddrOn s c (readDesc s c (caAddr x ca)).1.dst)) = none) :
    startMove c p x ca channel s = .started false (updCore c
      (fun y => { y with moves := y.moves ++ [acceptedMove s c x ca channel], nextMove := y.nextMove + 1 }) s) := by
  by_cases hk : (readDesc s c (caAddr x ca)).1.kind = 5
  · obtain ⟨hread, hcause⟩ := hsend hk
    simp only [startMove, hb, hd, if_pos hk, hread, hcause, acceptedMove, Bool.not_true, Bool.false_eq_true, if_false]
  · simp only [startMove, hb, hd, if_neg hk, acceptedMove]

/-- Each MOVE and STREAM is an operation of the mover, and starts with its descriptor; a STREAM names a channel of the needle. -/
theorem moveOps_start (c : Nat) (h : OpHdr) (ca : BitVec 24) (ch : BitVec 2) :
    ∀ i ∈ [Instr.moveCopy c h ca, .moveSwatchRead c h ca, .moveSwatchWrite c h ca, .moveTable c h ca, .moveZero c h ca,
      .moveSend c h ca, .stream c h ch ca],
      onEngine i ∧ (∀ s, exec i s = alive (dispatchOp c h i) s) ∧ ∀ p x s t, startOp c p x (entryOf s c h i) t =
        startMove c p x ca (if opcodeOf i = 0x39 then some ch.toNat else none) t := by
  simp only [List.forall_mem_cons]
  exact ⟨⟨trivial, fun _ => rfl, fun _ _ _ _ => rfl⟩, ⟨trivial, fun _ => rfl, fun _ _ _ _ => rfl⟩,
    ⟨trivial, fun _ => rfl, fun _ _ _ _ => rfl⟩, ⟨trivial, fun _ => rfl, fun _ _ _ _ => rfl⟩,
    ⟨trivial, fun _ => rfl, fun _ _ _ _ => rfl⟩, ⟨trivial, fun _ => rfl, fun _ _ _ _ => rfl⟩,
    ⟨trivial, fun _ => rfl, fun _ _ _ _ => rfl⟩, List.forall_mem_nil _⟩

/-- Settles O18: the statement's hypotheses are the checks at the start of a move, whatever its kind. -/
theorem moveAccepted : Obligations.MoveAccepted := by
  intro c h ca ch s k hk e he
  dsimp only
  intro hr _ hb hcause hsend
  have hmem : e.1 ∈ [Instr.moveCopy c h ca, .moveSwatchRead c h ca, .moveSwatchWrite c h ca, .moveTable c h ca, .moveZero c h ca,
      .moveSend c h ca, .stream c h ch ca] := by
    have := List.mem_map_of_mem (f := Prod.fst) he
    simpa using this
  obtain ⟨hop, hexec, hstart⟩ := moveOps_start c h ca ch e.1 hmem
  have hchannel : (if opcodeOf e.1 = 0x39 then some ch.toNat else none).isSome = (opcodeOf e.1 == 0x39) := by
    split <;> simp [*]
  exact engine_begins hop (hexec s) hr hk ((hstart ..).trans (startMove_started hb (hchannel ▸ hcause) hsend))

end Sys2Proof.Machine
end

section
/-! SUPPORT. Reads that fail and the ends of restores (R157–R161). -/
namespace Sys2Proof.Machine

section
variable {u : Nat} {r : Restore} {s : State}
  (hr : s.restores.find? (fun r => r.line == u && !r.host && r.knot.isSome) = some r)
include hr

theorem doReconstruct_rebuild (hpath : restorePath s r.panel u r.swatch = .rebuild) : doReconstruct u s =
    finishRestore u r.panel 1 (odCount 0x2601 6 1 { s with lostLines := s.lostLines.filter (· != u) }) := by
  simp only [doReconstruct, hr, hpath]

theorem doReconstruct_regenerate (hpath : restorePath s r.panel u r.swatch = .regenerate) : doReconstruct u s = s := by
  simp only [doReconstruct, hr, hpath]

theorem doReconstruct_lost {cause : Nat} (hpath : restorePath s r.panel u r.swatch = .lost cause) : doReconstruct u s =
    settleRestores r.panel ((loseUnit u r.panel cause s).restores.length + 1) (loseUnit u r.panel cause s) := by
  simp only [doReconstruct, hr, hpath]

theorem doRegenerate_lost {cause : Nat} (hpath : restorePath s r.panel u r.swatch = .lost cause) : doRegenerate u s =
    settleRestores r.panel ((loseUnit u r.panel cause s).restores.length + 1) (loseUnit u r.panel cause s) := by
  simp only [doRegenerate, hr, hpath]

variable {e : Regen} {g : Swatch} {i : Nat} (hpath : restorePath s r.panel u r.swatch = .regenerate)
  (hentry : regenFor s r.panel u = some (e, g, i)) (hregion : regenRegion s r.panel e g i = none)
include hpath hentry hregion

theorem doRegenerate_written (hmaster : masterFails s e g i = none) :
    let areas := masterAreas e g i ++ [annexArea e g i]
    let gone := (areas.flatMap fun a => goneLines s a.1 a.2).eraseDups
    let t := areas.foldl (fun s a => noteRead a.1 a.2 s) (odCount 0x2601 6 gone.length s)
    doRegenerate u s =
      finishRestore u r.panel 1 (odCount 0x2601 7 1 (writeBytes (e.copy + i * g.size) (regenBytes t e g i) t)) := by
  simp only [doRegenerate, hr, hpath, hentry, hregion, hmaster]

theorem doRegenerate_failed {m : Nat} (hmaster : masterFails s e g i = some m) :
    doRegenerate u s = failRegen u r.panel 0x2602 (e.copy + i * g.size) m s := by
  simp only [doRegenerate, hr, hpath, hentry, hregion, hmaster]

end

/-- Settles O30: each clause is the way that is open for the unit under restore. -/
theorem restoresOfUnits : Obligations.RestoresOfUnits := by
  intro a tag s hs
  refine ⟨exec_hubAwake rfl hs rfl, ?_⟩
  intro r
  dsimp only
  intro hr
  refine ⟨fun hpath => ?rebuild, fun hpath => ?wait, fun e g i hpath hentry => ⟨?written, ?failed⟩, fun cause hpath => ?lost⟩
  case rebuild => exact exec_hubAwake rfl hs (doReconstruct_rebuild hr hpath)
  case wait => exact exec_hubAwake rfl hs (doReconstruct_regenerate hr hpath)
  case written =>
    intro hregion hmaster
    exact exec_hubAwake rfl hs (doRegenerate_written hr hpath hentry hregion hmaster)
  case failed =>
    intro m hregion hmaster
    exact exec_hubAwake rfl hs (doRegenerate_failed hr hpath hentry hregion hmaster)
  case lost =>
    simp only [List.forall_mem_cons]
    exact ⟨exec_hubAwake rfl hs (doReconstruct_lost hr hpath), exec_hubAwake rfl hs (doRegenerate_lost hr hpath),
      List.forall_mem_nil _⟩

end Sys2Proof.Machine
end

section
/-! SUPPORT. The Root ports (R147–R150, R162) and the Root streamer's fills (R156). -/
namespace Sys2Proof.Machine

/-! ### Root ports -/

theorem exec_alive {i : Instr} {s t : State} {f : State → State} (he : exec i s = alive f s) (hs : Alive s) (hf : f s = t) :
    exec i s = .next t := by
  rw [he, alive_next _ _ hs, hf]

/-- The Root once port x is down: its link shows nothing, and a rebuild in progress has ended with its target down as well. -/
def portDropped (x : Nat) (s : State) : State :=
  let t := updRootPort x (fun r => { r with st := 2, lanes := 0, gts := 0 }) s
  match s.root.rebuilding with
  | some y => let v := updRootPort y (fun r => { r with st := 2 }) t
    { v with root := { v.root with rebuilding := none } }
  | none => t

/-- The same with the port's contents lost. -/
def portScrubbed (x : Nat) (s : State) : State := scrub (portBase x) 0x0400_0000_0000 (portDropped x s)

/-- The event of a port that is down, to the panel that owns it or to the management port. -/
def tellRootDown (x : Nat) (owner : Option Nat) (s : State) : State :=
  match owner with
  | some p => postBoth p 0x2606 (0x5000 + x) x (grantsOnPort s p x) s
  | none => postMgmt 0xFF 0x2606 (0x5000 + x) x 0 s

@[simp] theorem portDropped_mode (x : Nat) (s : State) : (portDropped x s).root.mode = s.root.mode := by
  unfold portDropped
  dsimp only
  split <;> rfl

theorem updRootPort_congr {x : Nat} {f g : RootPort → RootPort} {s : State} (h : f (rootPort s x) = g (rootPort s x)) :
    updRootPort x f s = updRootPort x g s := by
  unfold rootPort at h
  simp only [updRootPort, smod, h]

section
variable {x : Nat} {s : State} (hx : x < 4)
include hx

/-- A port that is up or rebuilding goes down; in the plain mode its contents are gone too, and its owner is told (R162). -/
theorem doRootDown_held (hst : (rootPort s x).st = 1 ∨ (rootPort s x).st = 3) :
    doRootDown x s = if s.root.mode ≠ 0 then portDropped x s
      else tellRootDown x (ownerOfRoot (portScrubbed x s) x) (portScrubbed x s) := by
  have hup : ¬(4 ≤ x ∨ (rootPort s x).st = 0 ∨ (rootPort s x).st = 2) := by
    rcases hst with h | h <;> simp [h, hx]
  have hclean : (rootPort s x).st ≠ 4 := by
    rcases hst with h | h <;> simp [h]
  unfold doRootDown
  rw [if_neg (by simpa [or_assoc] using hup), if_neg hclean, ← portDropped_mode x s]
  rfl

theorem doRootDown_plain {owner : Option Nat} (hst : (rootPort s x).st = 1 ∨ (rootPort s x).st = 3) (hmode : s.root.mode = 0)
    (howner : ownerOfRoot (portScrubbed x s) x = owner) :
    doRootDown x s = tellRootDown x owner (portScrubbed x s) :=
  (doRootDown_held hx hst).trans ((if_neg (Classical.not_not.2 hmode)).trans (by rw [howner]))

/-- A link that is held again shows its lanes, rate and capacity; in parity mode a port that was down is not up before its rebuild. -/
theorem doRootUp_held {lanes gts cap : Nat} (hst : (rootPort s x).st = 0 ∨ (rootPort s x).st = 2) :
    doRootUp x lanes gts cap s = updRootPort x (fun r => { r with
      lanes := lanes, gts := gts, capacity := cap
      st := if !r.locked && (r.st = 0 || s.root.mode = 0) then 1 else 2 }) s := by
  have hclean : (rootPort s x).st ≠ 4 := by
    rcases hst with h | h <;> simp [h]
  have hdown : ¬(4 ≤ x || !([0, 2, 4].contains (rootPort s x).st)) := by
    rcases hst with h | h <;> simp [h, hx]
  unfold doRootUp
  rw [if_neg hdown]
  exact updRootPort_congr (by simp [hclean])

end

theorem doRebuildDone_target {x : Nat} {s : State} (h : s.root.rebuilding = some x) : doRebuildDone x s =
    let t := updRootPort x (fun r => { r with st := 1, rebuilt := r.capacity / 2 ^ 30 }) s
    { t with root := { t.root with rebuilding := none } } :=
  if_neg (Classical.not_not.2 h)

theorem doSanitized_ok {x : Nat} {s : State} (h : (rootPort s x).st = 4) :
    doSanitized x true s = settleMode (updRootPort x (fun r => { r with st := 1, locked := false }) s) :=
  (if_neg (Classical.not_not.2 h)).trans (if_pos rfl)

theorem doSanitized_failed {x : Nat} {s : State} (h : (rootPort s x).st = 4) : doSanitized x false s = failMode x 1 s :=
  (if_neg (Classical.not_not.2 h)).trans (if_neg Bool.false_ne_true)

theorem doSanitizeTimeout_held {x : Nat} {s : State} (h : (rootPort s x).st = 4) : doSanitizeTimeout x s = failMode x 2 s :=
  if_neg (Classical.not_not.2 h)

/-! ### The Root streamer -/

section
variable {p : Nat} {s : State} {x : Streamer} (hx : (panelOf s p).streamer = some x)
include hx

/-- A fill starts when its slot has been released, or never used, and one is free (R156). -/
theorem doFillStart_released (hslot : x.next < x.n ∨ x.next - x.n + 1 ≤ knotShows s x.relKnot) (hfree : x.next < x.done + x.n) :
    doFillStart p s = updStreamer p (fun x => { x with next := x.next + 1 }) s := by
  simp only [doFillStart, hx]
  rw [if_pos (by simpa [hfree] using hslot)]

theorem doFillStart_full (hfull : x.done + x.n ≤ x.next) : doFillStart p s = s := by
  simp [doFillStart, hx, Nat.not_lt.2 hfull]

/-- A fill whose entry, source and slot the panel may reach, and whose source is good, lands in its slot (R153, R156). -/
theorem doFillComplete_lands {n : Nat} :
    let e := x.table + 64 + 16 * (n % max x.entries 1)
    let src := readNat s e 8
    let len := readNat s (e + 8) 4
    let dst := x.base + n % x.n * x.slot
    n < x.next → x.done ≤ n → n ∉ x.landed → grants s p false e 16 = true → grants s p false src len = true →
      grants s p true dst len = true → readMeets x.served [(src, len)] s = (none, s) → badSwatch s src len = none →
      doFillComplete p n s = pumpCores p (advanceFills p 65
        (updStreamer p (fun x => { x with landed := x.landed ++ [n], served := [] })
          (writeWhole dst (readBytes s src len) (noteRead src len (noteRead e 16 s))))) := by
  dsimp only
  intro hstarted hopen hnew hentry hsrc hdst hmeets hseals
  simp [doFillComplete, hx, Nat.not_le.2 hstarted, Nat.not_lt.2 hopen, hnew, hentry, hsrc, hdst, hmeets, hseals]

end

/-- Settles O31: each command's meaning under the condition of its clause. -/
theorem rootPortsAndStreamer : Obligations.RootPortsAndStreamer := by
  refine ⟨fun x s hs hx => ⟨fun hst => ?down, fun lanes gts cap hst => ?up, fun hrebuild => ?rebuilt, fun hst => ?sanitized⟩,
    fun p n s x hs hstream => ⟨fun hslot hfree => ?start, fun hfull => ?full, ?complete⟩⟩
  case down =>
    exact ⟨fun hmode => exec_alive rfl hs ((doRootDown_held hx hst).trans (if_pos hmode)),
      fun hmode howner => exec_alive rfl hs (doRootDown_plain hx hst hmode howner),
      fun p hmode howner => exec_alive rfl hs (doRootDown_plain hx hst hmode howner)⟩
  case up => exact exec_alive rfl hs (doRootUp_held hx hst)
  case rebuilt => exact exec_alive rfl hs (doRebuildDone_target hrebuild)
  case sanitized =>
    exact ⟨exec_alive rfl hs (doSanitized_ok hst), exec_alive rfl hs (doSanitized_failed hst),
      exec_alive rfl hs (doSanitizeTimeout_held hst)⟩
  case start =>
    exact exec_alive rfl hs.1 ((atD1_awake hs _).trans (doFillStart_released hstream hslot hfree))
  case full => exact exec_alive rfl hs.1 ((atD1_awake hs _).trans (doFillStart_full hstream hfull))
  case complete =>
    dsimp only
    intro hstarted hopen hnew hentry hsrc hdst hmeets hseals
    exact exec_hubAwake rfl hs (doFillComplete_lands hstream hstarted hopen hnew hentry hsrc hdst hmeets hseals)

end Sys2Proof.Machine
end

section
/-! SUPPORT. The table engines: accepted requests, and the batches of member lookups (R163–R168). -/
namespace Sys2Proof.Machine

/-! ### Accepted requests -/

/-- An accepted request is handled once its list has been read (R164). -/
theorem withReq_accepted {t op : Nat} {q : TableReq} {s : State} {f : TableReq → TableDesc → State → State}
    (h : TableAccepted s t q) (hop : q.f 4 1 = op) :
    withReq t op f s = f q (tableDesc (tableSlot s (q.f 7 1)).desc) (noteRead (tableList q).1 (tableList q).2 s) := by
  subst hop
  obtain ⟨-, ⟨i, hfront⟩, hkernel, hcause, hgrant, hlist, hentries, hregion⟩ := h
  unfold tableList at hgrant hlist ⊢
  simp only [withReq, hfront, hkernel, hcause, hgrant, hlist, hentries, hregion, Bool.not_true, Bool.false_eq_true, if_false,
    if_true]

/-- A command that the hubs carry out in D0 has its effect there. -/
theorem exec_hubReady {i : Instr} {s t : State} {f : State → State} (he : exec i s = settle (atD0 f) s) (hs : HubReady s)
    (hf : f s = t) : exec i s = .next (pumpColls t) := by
  rw [he, settle_next _ _ hs.1, atD0_ready hs, hf]

theorem engineWrite_whole {a : Nat} {b : Bytes} {s : State} (h : lostPartly s a b.length = none) :
    engineWrite a b s = some (writeBytes a b s) := by
  simp [engineWrite, h]

section
variable {t : Nat} {q : TableReq} {s : State} (hq : TableAccepted s t q)
include hq

theorem doTableGather_member (hop : q.f 4 1 = 1) :
    let s0 := noteRead (tableList q).1 (tableList q).2 s
    panelKind s0 q.panel = 2 → doTableGather t s = gatherMember t q s0 :=
  fun hmember => (withReq_accepted hq hop).trans (if_pos hmember)

/-- A gather of the owning panel whose rows can be read and whose output merges into no lost unit is written (R165). -/
theorem doTableGather_owner (hop : q.f 4 1 = 1) :
    let d := tableDesc (tableSlot s (q.f 7 1)).desc
    let s0 := noteRead (tableList q).1 (tableList q).2 s
    let areas := (List.range q.count).map fun i => rowArea d (listRow s0 q i)
    let s1 := areas.foldl (fun s e => noteRead e.1 e.2 s) s0
    let out := gatherOut s0 d q fun i => let e := rowArea d (listRow s0 q i); readBytes s0 e.1 e.2
    panelKind s0 q.panel ≠ 2 → waitData q areas s0 = none → lostPartly s1 (q.f 24 8) out.length = none →
      doTableGather t s = pumpCores q.panel (dropReq t (doneReq q (writeBytes (q.f 24 8) out s1))) := by
  dsimp only
  intro hordinary hwait hlost
  refine (withReq_accepted hq hop).trans ((if_neg hordinary).trans ?_)
  simp only [gatherNow, hwait, engineWrite_whole hlost]

/-- A scatter-add whose data can be read ends as its entries do (R167). -/
theorem doTableScatter_ends (hop : q.f 4 1 = 2) :
    let d := tableDesc (tableSlot s (q.f 7 1)).desc
    let s0 := noteRead (tableList q).1 (tableList q).2 s
    let r := scatterFrom d q q.count 0 s0
    waitData q [(q.f 24 8, 4 * d.n * q.count), (d.map, 4 * d.rows), (d.grad, 64 + d.slots * d.gradStride)] s0 = none →
      (coreOf s0 q.core).suppress = 0 →
      (r.1 = .done → doTableScatter t s = pumpCores q.panel (dropReq t (doneReq q (onceEffect q.core id r.2)))) ∧
      (r.1 = .full → doTableScatter t s = dropReq t (refuseReq q t 5 r.2)) ∧
      (r.1 = .lost → doTableScatter t s = dropReq t (loseReq q r.2)) := by
  dsimp only
  intro hwait hplay
  rw [doTableScatter, withReq_accepted hq hop]
  simp only [hwait, hplay, ne_eq, not_true_eq_false, if_false]
  generalize scatterFrom _ q q.count 0 _ = r
  obtain ⟨hend, u⟩ := r
  cases hend <;> simp

/-- An update that is no replay, and whose writes are all performed, empties the gradient slots (R168). -/
theorem doTableUpdate_applied (hop : q.f 4 1 = 3) :
    let d := tableDesc (tableSlot s (q.f 7 1)).desc
    let s0 := noteRead (tableList q).1 (tableList q).2 s
    let used := min (readNat s0 d.grad 4) d.slots
    let rows := (List.range used).map fun k => readNat s0 (d.grad + 64 + k * d.gradStride) 8
    let gt := (panelOf s0 q.panel).groupTable
    let b := q.f 12 4 % 2
    let cf := tableClip q gt b s0
    let e := groupEntry cf.2 gt b (q.f 40 1 % 64)
    let r := (List.range used).foldl (fun st k => updateRow d e cf.1 (coreOf cf.2 q.core).seed st.1 st.2 k)
      (true, noteRead (q.f 32 8) 4 cf.2)
    waitData q ((q.f 32 8, 4) :: (d.grad, 64 + d.slots * d.gradStride) ::
      rows.flatMap fun r => [(d.rowAddr r, d.rowBytes), (d.accum + 4 * r, 4)]) s0 = none →
    (coreOf cf.2 q.core).suppress = 0 → r.1 = true → lostPartly r.2 d.grad 4 = none →
      doTableUpdate t s = pumpCores q.panel (dropReq t (doneReq q (onceEffect q.core id (writeBytes d.grad (toLe 4 0) r.2)))) := by
  dsimp only
  intro hwait hplay hall hlost
  rw [doTableUpdate, withReq_accepted hq hop]
  simp only [hwait, hplay, hall, engineWrite_whole (b := toLe 4 0) hlost, ne_eq, not_true_eq_false, if_false, if_true]

end

/-! ### Batches -/

@[simp] theorem mem_placeNat {a n : Nat} {l : List Nat} : a ∈ placeNat n l ↔ a = n ∨ a ∈ l := by
  induction l with
  | nil => simp [placeNat]
  | cons x xs ih =>
    rw [placeNat]
    split
    · simp only [List.mem_cons, ih, or_left_comm]
    · exact List.mem_cons

theorem mem_foldl_placeNat {a : Nat} {l m : List Nat} :
    a ∈ l.foldl (fun l n => placeNat n l) m ↔ a ∈ l ∨ a ∈ m := by
  induction l generalizing m with
  | nil => simp
  | cons x xs ih => simp only [List.foldl_cons, ih, mem_placeNat, List.mem_cons, or_left_comm, or_assoc]

/-! The reads of a batch count in the tile buffer and in Root only, so that the module keeps its fabric ID. -/

theorem fabricId_odCount_root (k n : Nat) (hk : k < 256) (s : State) : fabricId (odCount 0x2601 k n s) = fabricId s := by
  rw [fabricId, fabricId, odGet_odCount_ne]
  unfold odKey
  omega

theorem fabricId_tbAccess (wr : Bool) (line : Nat) (s : State) : fabricId (tbAccess wr line s) = fabricId s := by
  unfold tbAccess
  dsimp only
  repeat' split
  all_goals simp only [fabricId_odCount_root, Nat.reduceLT]
  all_goals rfl

@[simp] theorem fabricId_noteRead (a n : Nat) (s : State) : fabricId (noteRead a n s) = fabricId s := by
  have htouch : fabricId (tbTouch false a n s) = fabricId s := by
    unfold tbTouch
    split
    · rfl
    · exact List.foldlRecOn (motive := fun t => fabricId t = fabricId s) _ _ rfl
        fun _ ht _ _ => (fabricId_tbAccess ..).trans ht
  unfold noteRead rootTouch
  split
  · rw [fabricId_odCount_root _ _ (by simp), htouch]
  · exact htouch

theorem fabricId_foldl_noteRead (d : TableDesc) (l : List Nat) (s : State) :
    fabricId (l.foldl (fun s g => noteRead (rowArea d g).1 (rowArea d g).2 s) s) = fabricId s :=
  List.foldlRecOn (motive := fun t => fabricId t = fabricId s) _ _ rfl fun _ ht _ _ => (fabricId_noteRead ..).trans ht

section
variable {n : Nat} {s : State} (howned : (tableSlot s n).owner.isSome = true)

include howned in
/-- With its window open, a table takes in the replies that have come and sends a batch to every shard (R166). -/
theorem doBatchPeriod_open :
    let d := tableDesc (tableSlot s n).desc
    windowOpen s d = true → doBatchPeriod n s =
      (List.range (if d.shards = 0 then 256 else d.shards)).foldl (sendBatch n d) (repliesCame n d.rowBytes s) := by
  dsimp only
  intro hopen
  have howner : (tableSlot s n).owner.isNone = false := Option.isNone_eq_false_iff.2 howned
  simp [doBatchPeriod, howner, hopen]

theorem doBatchPeriod_shut (hshut : windowOpen s (tableDesc (tableSlot s n).desc) = false) : doBatchPeriod n s = s := by
  simp [doBatchPeriod, hshut]

end

/-- Row g of a table whose slot is x cannot be had: it is not in the shard, its owner p may not read it, or it is lost. -/
def rowBad (s : State) (x : TableSlot) (p g : Nat) : Bool :=
  let a := rowArea (tableDesc x.desc) g
  !rowOk (tableDesc x.desc) false g || !grants s p false a.1 a.2 || (lostIn s a.1 a.2).any fun u => !x.served.contains u

theorem rowBad_eq_false {s : State} {x : TableSlot} {p g : Nat} (hok : rowOk (tableDesc x.desc) false g = true)
    (hgrant : grants s p false (rowArea (tableDesc x.desc) g).1 (rowArea (tableDesc x.desc) g).2 = true)
    (hlost : lostIn s (rowArea (tableDesc x.desc) g).1 (rowArea (tableDesc x.desc) g).2 = none) : rowBad s x p g = false := by
  simp [rowBad, hok, hgrant, hlost]

section
variable {n src p : Nat} {rows : List Nat} {mine : List Lookup} {s : State} {x : TableSlot} {all : List Nat}
  (hx : tableSlot s n = x) (howner : x.owner = some p) (hsrc : src = fabricId s) (hmine : mine ≠ [])
  (hflight : x.flight.find? (fun e => e.1 = src) = some (src, mine))
  (hall : ((rows ++ mine.map (·.row)).eraseDups.foldl (fun l n => placeNat n l) []).filter (rowOk (tableDesc x.desc) false) = all)
  (hok : ∀ l ∈ mine, rowOk (tableDesc x.desc) false l.row = true)
  (hgood : ∀ g ∈ all, grants s p false (rowArea (tableDesc x.desc) g).1 (rowArea (tableDesc x.desc) g).2 = true ∧
    lostIn s (rowArea (tableDesc x.desc) g).1 (rowArea (tableDesc x.desc) g).2 = none)
include hall

include hgood in
/-- The rows of a batch that the shard has, and that may be read, are all good. -/
theorem rowBad_of_mem : ∀ g ∈ all, rowBad s x p g = false := fun g hg =>
  rowBad_eq_false (by rw [← hall] at hg; exact (List.mem_filter.1 hg).2) (hgood g hg).1 (hgood g hg).2

include hok in
theorem row_mem_of_lookup : ∀ l ∈ mine, l.row ∈ all := fun l hl => by
  rw [← hall]
  exact List.mem_filter.2
    ⟨mem_foldl_placeNat.2 (.inl (List.mem_eraseDups.2 (List.mem_append_right _ (List.mem_map_of_mem hl)))), hok l hl⟩

include hx howner hsrc hmine hflight hok hgood in
/-- This module's own batch, all of whose rows the owner may read and none of which is lost or waits, comes back to its lookups. -/
theorem doBatchServe_own (hmeets : readMeets x.served (all.map (rowArea (tableDesc x.desc))) s = (none, s)) :
    doBatchServe n src rows s =
      mine.foldl (fun s l => rowCame n l (readBytes s (rowArea (tableDesc x.desc) l.row).1 (tableDesc x.desc).rowBytes) s)
        (updTable n (fun x => { x with flight := x.flight.erase (src, mine), served := [] })
          (all.foldl (fun s g => noteRead (rowArea (tableDesc x.desc) g).1 (rowArea (tableDesc x.desc) g).2 s) s)) := by
  have hbad := rowBad_of_mem hall hgood
  have hlookup : ∀ l ∈ mine, rowBad s x p l.row = false := fun l hl => hbad _ (row_mem_of_lookup hall hok l hl)
  have hread : all.filter (fun g => grants s p false (rowArea (tableDesc x.desc) g).1 (rowArea (tableDesc x.desc) g).2 &&
      !(lostIn s (rowArea (tableDesc x.desc) g).1 (rowArea (tableDesc x.desc) g).2).any fun u => !x.served.contains u) = all :=
    List.filter_eq_self.2 fun g hg => by simp [hgood g hg]
  have hgranted : all.find? (fun g =>
      !grants s p false (rowArea (tableDesc x.desc) g).1 (rowArea (tableDesc x.desc) g).2) = none :=
    List.find?_eq_none.2 fun g hg => by simp [hgood g hg]
  have hcounted : all.filter (fun g => !rowBad s x p g) = all := List.filter_eq_self.2 fun g hg => by simp [hbad g hg]
  have hfailed : mine.filter (fun l => rowOk (tableDesc x.desc) false l.row && rowBad s x p l.row) = [] :=
    List.filter_eq_nil_iff.2 fun l hl => by simp [hlookup l hl]
  unfold rowBad at hcounted hfailed
  simp only [doBatchServe, hx, howner, hflight, if_pos hsrc, hall, hread, hmeets, hgranted, hcounted, hfailed,
    fabricId_foldl_noteRead, decide_eq_true hsrc, Bool.true_or, if_true, List.foldl_nil, List.isEmpty_eq_false_iff.2 hmine]
  refine List.foldl_rel (r := fun u v => u = v) rfl fun l hl u _ heq => ?_
  subst heq
  have hhad := hlookup l hl
  unfold rowBad at hhad
  simp only [hhad, Bool.false_eq_true, if_false]

end

/-- Settles O32: an accepted request comes to the engine with its list read, and what its own checks find is the case of the clause;
a batch whose rows are all good is answered row by row. -/
theorem tableEngines : Obligations.TableEngines := by
  refine ⟨fun t q s hq => ⟨fun hop => ?gather, fun hop hwait hplay => ?scatter, fun hop => ?update⟩,
    fun n s hs howned => ⟨?batch, ?shut, ?serve⟩⟩
  case gather =>
    exact ⟨fun hmember => exec_hubReady rfl hq.1 (doTableGather_member hq hop hmember),
      fun hordinary hwait hlost => exec_hubReady rfl hq.1 (doTableGather_owner hq hop hordinary hwait hlost)⟩
  case scatter =>
    obtain ⟨hdone, hfull, hlost⟩ := doTableScatter_ends hq hop hwait hplay
    exact ⟨fun hend => exec_hubReady rfl hq.1 (hdone hend), fun hend => exec_hubReady rfl hq.1 (hfull hend),
      fun hend => exec_hubReady rfl hq.1 (hlost hend)⟩
  case update =>
    intro used rows gt b cf e r hwait hplay hall hlost
    exact exec_hubReady rfl hq.1 (doTableUpdate_applied hq hop hwait hplay hall hlost)
  case batch => exact fun hopen => exec_hubAwake rfl hs (doBatchPeriod_open howned hopen)
  case shut => exact fun hshut => exec_hubAwake rfl hs (doBatchPeriod_shut hshut)
  case serve =>
    intro src rows mine p hsrc hmine howner hflight all hok hgood hmeets
    exact exec_hubAwake rfl hs (doBatchServe_own rfl howner hsrc hmine hflight rfl hok hgood hmeets)

end Sys2Proof.Machine
end

section
/-! SUPPORT. Segmented writes made whole, and the report that a line is restored (R161, R196, R238, R240, R386). -/
namespace Sys2Proof.Machine

/-! ### Writes made whole -/

theorem alive_endSeg {path code : Nat} {s : State} (h : Alive (endSeg path code s)) : Alive s := h

/-- A whole write that its requester may make is answered with the status of its entry; a transfer open on the path has ended. -/
theorem whole_exec {i : Instr} {r : OdReq} {index sub : Nat} {data : Bytes} {s : State} {e : Nat × State}
    (hi : exec i s = settle (doOdWhole r index sub data) s)
    (htakes : TakesRequest (endSeg r.path 0x0C s) r (wholeMsg index sub data))
    (hcode : requestCode (wakeD1 (heard r (endSeg r.path 0x0C s))) r.path r.panel index sub true (leNat data) = 0)
    (he : applyWrite r.path index sub data (wakeD1 (heard r (endSeg r.path 0x0C s))) = e) :
    exec i s = .next (pumpColls (answer r (wholeMsg index sub data) 0x20 e.1 0 [] e.2)) := by
  have hwrite : doOdWhole r index sub data s = answer r (wholeMsg index sub data) 0x20 e.1 0 [] e.2 := by
    rw [doOdWhole, doOdWrite, ← he]
    refine (onPath_takes (m := wholeMsg index sub data) _ htakes).trans ?_
    simp only [tryWrite, wholeMsg, hcode]
  rw [hi, settle_next _ _ (alive_endSeg htakes.1), hwrite]

/-- Where a value that fits goes: to the panel's block, to a panel's subindex, or to the module's entry. -/
def routeWrite (path : Nat) (row : OdRow) (index sub : Nat) (data : Bytes) (s : State) : Nat × State :=
  if index / 0x1000 = 4 then writePanelBlock (index / 256 % 16) (index % 256) sub (leNat data) data s
  else match entryPanel row index sub with
    | some q => writePerPanel q index sub (leNat data) data s
    | none => writeEffect path index sub (leNat data) data s

/-- The entry takes a byte string of len bytes, whose write by a path has the effect f. -/
def DomainEntry (path index sub len : Nat) (f : Bytes → State → Nat × State) : Prop :=
  ∃ row, odRow index sub = some row ∧ (∀ s, entryLen s row index sub = len) ∧ (∀ s v, valueOk s row index sub v = true) ∧
    ∀ data s, routeWrite path row index sub data s = f data s

section
variable {path index sub len : Nat} {f : Bytes → State → Nat × State} (h : DomainEntry path index sub len f) {data : Bytes}
  (s : State)
include h

/-- A value of the entry's length has the entry's effect; the key entries judge the length themselves (R238). -/
theorem applyWrite_domain (hl : data.length = len ∨ keyEntry index sub = true) : applyWrite path index sub data s = f data s := by
  obtain ⟨row, hrow, hlen, hvalue, hroute⟩ := h
  have hfits : ¬(data.length ≠ entryLen s row index sub && !keyEntry index sub) := by
    rw [hlen]
    rcases hl with hl | hl <;> simp [hl]
  rw [← hroute]
  unfold applyWrite
  simp only [hrow, if_neg hfits, hvalue, Bool.not_true, Bool.false_eq_true, if_false]
  rfl

theorem applyWrite_domain_length (hl : data.length ≠ len) (hk : keyEntry index sub = false) :
    applyWrite path index sub data s = (0x07, s) := by
  obtain ⟨row, hrow, hlen, -, -⟩ := h
  exact applyWrite_length hrow (by rwa [hlen]) hk

end

/-- A command that writes a byte string whole is answered by its entry's effect, or with status 7 for another length. -/
theorem exec_domainEntry {i : Instr} {r : OdReq} {index sub len : Nat} {f : Bytes → State → Nat × State} {data : Bytes}
    {s : State} (hi : exec i s = settle (doOdWhole r index sub data) s)
    (hentry : TakesRequest (endSeg r.path 0x0C s) r (wholeMsg index sub data) → DomainEntry r.path index sub len f) :
    let m := wholeMsg index sub data
    let u := wakeD1 (heard r (endSeg r.path 0x0C s))
    TakesRequest (endSeg r.path 0x0C s) r m → requestCode u r.path r.panel index sub true (leNat data) = 0 →
      (data.length = len ∨ keyEntry index sub = true →
        exec i s = .next (pumpColls (answer r m 0x20 (f data u).1 0 [] (f data u).2))) ∧
      (data.length ≠ len → keyEntry index sub = false → exec i s = .next (pumpColls (answer r m 0x20 0x07 0 [] u))) := by
  intro m u htakes hcode
  have hdomain := hentry htakes
  exact ⟨fun hl => whole_exec hi htakes hcode (applyWrite_domain hdomain u hl),
    fun hl hk => whole_exec (e := (0x07, u)) hi htakes hcode (applyWrite_domain_length hdomain u hl hk)⟩

/-! ### The four entries -/

theorem odRow_grants : ∀ p < 16, odRow 0x2805 (p + 1) = some ⟨0x2805, 0x01, 0x10, .domain, .rw, 0, .p, 0, 281474976710655, 1⟩ := by
  decide

theorem odRow_nonce : ∀ n < 5, odRow 0x3010 (n + 1) = some ⟨0x3010, 0x01, 0x05, .domain, .wo, 0, .v, 0, 281474976710655, 1⟩ := by
  decide

theorem odRow_keyEntries : ∀ p < 16,
    odRow (panelIdx p 1) 2 = some ⟨0x4001, 0x02, 0x02, .domain, .rwS, 0, .p, 0, 281474976710655, 1⟩ ∧
    odRow (panelIdx p 1) 4 = some ⟨0x4001, 0x04, 0x04, .domain, .rwS, 0, .p, 0, 281474976710655, 1⟩ := by
  decide

theorem domainEntry_grants (path : Nat) {p : Nat} (hp : p < 16) : DomainEntry path 0x2805 (p + 1) 512 (writeGrants p) :=
  ⟨_, odRow_grants p hp, fun _ => rfl, fun _ _ => rfl, fun _ _ => rfl⟩

theorem domainEntry_nonce {path : Nat} (hp : path < 5) : DomainEntry path 0x3010 (path + 1) 33 (writeNonce path) :=
  ⟨_, odRow_nonce path hp, fun _ => rfl, fun _ _ => rfl, fun _ _ => rfl⟩

/-- The entries of a panel's keys stand on page 1 of its block (R242). -/
theorem panelIdx_keys {p : Nat} (hp : p < 16) :
    panelIdx p 1 / 0x1000 = 4 ∧ panelIdx p 1 / 256 % 16 = p ∧ panelIdx p 1 % 256 = 1 := by
  unfold panelIdx
  omega

/-- An entry of a panel's keys, whose effect is the one that page 1 gives its subindex. -/
theorem domainEntry_keys {path p sub : Nat} {row : OdRow} (hp : p < 16) (hrow : odRow (panelIdx p 1) sub = some row)
    (hdomain : row.ty = .domain) :
    DomainEntry path (panelIdx p 1) sub (if sub = 2 then 1600 else 48) fun data s =>
      writePanelBlock p 1 sub (leNat data) data s := by
  obtain ⟨hblock, hpanel, hpage⟩ := panelIdx_keys hp
  have hindex : ∀ k < 0x4000, panelIdx p 1 ≠ k := by
    unfold panelIdx
    omega
  refine ⟨row, hrow, fun s => ?_, fun s v => ?_, fun data s => ?_⟩
  · rw [entryLen, if_pos hdomain, domainLen, if_neg (hindex _ (by decide)), if_neg (hindex _ (by decide)),
      if_neg (hindex _ (by decide)), if_neg (hindex _ (by decide))]
  · simp [valueOk, hdomain, hindex]
  · rw [routeWrite, if_pos hblock, hpanel, hpage]

theorem domainEntry_keyEstablish (path : Nat) {p : Nat} (hp : p < 16) :
    DomainEntry path (panelIdx p 1) 2 1600 (writeKeyEstablish p) :=
  domainEntry_keys hp (odRow_keyEntries p hp).1 rfl

theorem domainEntry_keyInstall (path : Nat) {p : Nat} (hp : p < 16) :
    DomainEntry path (panelIdx p 1) 4 48 (writeKeyInstall p) :=
  domainEntry_keys hp (odRow_keyEntries p hp).2 rfl

/-- A path that takes a request is the management port or one of the four mailboxes. -/
theorem path_lt_of_takes {s : State} {r : OdReq} {m : OdMsg} (h : TakesRequest s r m) : r.path < 5 := by
  have hopen := h.2.1
  unfold pathOpen at hopen
  by_cases h0 : r.path = 0
  · omega
  · simp only [if_neg h0, Bool.and_eq_true, decide_eq_true_eq] at hopen
    exact hopen.2.1

/-! ### Keys of a wrong length -/

/-- A wrong length is cause 3, once the slot is free and the purpose is good (R238, R413). -/
theorem keyCause_length {s : State} {p slot purpose : Nat} {unwrapOk : Bool}
    (hfree : (sget {} (panelOf s p).keys slot).purpose = 0) (hpurpose : purpose ≠ 0) (hle : purpose ≤ 3) :
    keyCause s p slot purpose false unwrapOk = some (3, 0x07) := by
  unfold keyCause
  rw [if_neg (Classical.not_not.2 hfree), if_neg (by simp [hpurpose, hle])]
  rfl

section
variable {p : Nat} {data : Bytes} {s : State} (hsecure : secure s p = true) (hst : (panelOf s p).st = .open)
  (hslot : fieldNat data 0 1 < 16) (hfree : (sget {} (panelOf s p).keys (fieldNat data 0 1)).purpose = 0)
  (hpurpose : fieldNat data 1 1 ≠ 0) (hle : fieldNat data 1 1 ≤ 3)
include hsecure hst hslot hfree hpurpose hle

theorem writeKeyEstablish_length (hlen : data.length ≠ 1600) (hzero : allZero ((data.drop 2).take 30) = true) :
    writeKeyEstablish p data s = (0x07, postPanel p 0x3007 (secBlock s p) (fieldNat data 0 1 + 2 ^ 8 * fieldNat data 1 1) 3 s) := by
  have hgood : ¬(16 ≤ fieldNat data 0 1 || !allZero ((data.drop 2).take 30)) := by simp [hslot, hzero]
  simp only [writeKeyEstablish, hsecure, hst, hgood, decide_eq_false hlen, keyCause_length hfree hpurpose hle, keyRefuse,
    Bool.not_true, Bool.false_or, ne_eq, not_true_eq_false, decide_false, Bool.false_eq_true, if_false]

theorem writeKeyInstall_length (hlen : data.length ≠ 48) (hzero : allZero ((data.drop 3).take 5) = true) :
    writeKeyInstall p data s = (0x07, postPanel p 0x3007 (secBlock s p) (fieldNat data 0 1 + 2 ^ 8 * fieldNat data 1 1) 3 s) := by
  have hgood : ¬(16 ≤ fieldNat data 0 1 || !allZero ((data.drop 3).take 5)) := by simp [hslot, hzero]
  simp only [writeKeyInstall, hsecure, hst, hgood, decide_eq_false hlen, keyCause_length hfree hpurpose hle, keyRefuse,
    Bool.not_true, Bool.false_or, ne_eq, not_true_eq_false, decide_false, Bool.false_eq_true, if_false]

end

/-! ### RESTORE_DONE -/

theorem writeRestoreDone_below {p knot : Nat} (good : Bool) (s : State) (h : knot < 248) :
    writeRestoreDone p knot good s = (0x06, s) := by
  simp [writeRestoreDone, h]

section
variable {p knot : Nat} {s : State} {x : Restore} (hlow : 248 ≤ knot) (hhigh : knot ≤ 255)
  (hx : s.restores.find? (fun x => x.panel == p && x.knot == some (knot - 248) && x.host) = some x)
include hlow hhigh hx

theorem writeRestoreDone_good : writeRestoreDone p knot true s =
    (0, pumpCores p (finishRestore x.line p 1 { s with lostLines := s.lostLines.filter (· != x.line) })) := by
  simp [writeRestoreDone, Nat.not_lt.2 hlow, Nat.not_lt.2 hhigh, hx]

theorem writeRestoreDone_bad : writeRestoreDone p knot false s =
    (0, postPanel p 0x2604 (unitBlock s x.line) x.line (restoreKnotAddr s p (knot - 248)) s) := by
  simp [writeRestoreDone, Nat.not_lt.2 hlow, Nat.not_lt.2 hhigh, hx]

end

/-- A report that its requester may make is answered with the status of `memory.restore_done`. -/
theorem exec_restoreDone {r : OdReq} {p : Nat} {k : Byte} {good : Bool} {s : State} {e : Nat × State}
    (h : MayPut s r 0x2605 (p + 1) [k]) (he : writeRestoreDone p k.toNat good (wakeD1 (heard r s)) = e) :
    exec (.restoreDone r p k good) s =
      .next (pumpColls (answer r (putMsg 0x2605 (p + 1) [k]) 0x20 e.1 0 [] e.2)) := by
  obtain ⟨htakes, hcode⟩ := h
  have hanswer : doRestoreDone r p k good s = answer r (putMsg 0x2605 (p + 1) [k]) 0x20 e.1 0 [] e.2 := by
    rw [doRestoreDone]
    refine (onPath_takes (m := putMsg 0x2605 (p + 1) [k]) _ htakes).trans ?_
    rw [show leNat [k] = k.toNat from rfl] at hcode
    simp only [hcode, he, putMsg]
  exact (settle_next _ _ htakes.1).trans (by rw [hanswer])

/-- Settles O59: each entry takes a byte string of its own length and has its own effect; below knot 248 and for an open
restore, the report is judged by `writeRestoreDone`. -/
theorem dictionaryAreas : Obligations.DictionaryAreas := by
  intro r p s hp
  refine ⟨fun data => ?areas, ?keys, fun k good hput => ⟨?low, ?report⟩⟩
  case areas =>
    simp only [List.forall_mem_cons]
    exact ⟨exec_domainEntry rfl fun _ => domainEntry_grants r.path hp,
      exec_domainEntry rfl fun _ => domainEntry_keyEstablish r.path hp,
      exec_domainEntry rfl fun _ => domainEntry_keyInstall r.path hp,
      exec_domainEntry rfl fun htakes => domainEntry_nonce (path_lt_of_takes htakes), List.forall_mem_nil _⟩
  case keys =>
    intro data s slot purpose hsecure hst hslot hfree hpurpose hle
    exact ⟨writeKeyEstablish_length hsecure hst hslot hfree hpurpose hle,
      writeKeyInstall_length hsecure hst hslot hfree hpurpose hle⟩
  case low => exact fun hlow => exec_restoreDone (e := (0x06, _)) hput (writeRestoreDone_below good _ hlow)
  case report =>
    intro x hlow hx
    have hhigh : k.toNat ≤ 255 := by have := k.isLt; omega
    refine ⟨?_, ?_⟩
    · rintro rfl
      exact exec_restoreDone (e := (0, _)) hput (writeRestoreDone_good hlow hhigh hx)
    · rintro rfl
      exact exec_restoreDone (e := (0, _)) hput (writeRestoreDone_bad hlow hhigh hx)

end Sys2Proof.Machine
end

section
/-! SUPPORT. The mover: requests and the merge stage, completion records, retirement, and faults in host windows (R175–R186). -/
namespace Sys2Proof.Machine

/-! ### Commands of a core's mover -/

theorem onMover_panel {c p : Nat} {f : Nat → State → State} {s : State} (hp : panelOnCore s c = some p) :
    onMover c f s = pumpCores p (f p s) := by
  simp only [onMover, hp]

theorem withMove_panel {c p id : Nat} {m : Move} {f : Nat → Move → State → State} {s : State} (hp : panelOnCore s c = some p)
    (hm : moveOf s c id = some m) : withMove c id f s = pumpCores p (f p m s) := by
  simp only [withMove, onMover_panel hp, hm]

/-- An effect on a mover, after which collectives that wait go on. -/
theorem exec_settleMover {i : Instr} {c p : Nat} {f : Nat → State → State} {s t : State}
    (he : exec i s = settle (onMover c f) s) (hs : Alive s) (hp : panelOnCore s c = some p) (hf : f p s = t) :
    exec i s = .next (pumpColls (pumpCores p t)) := by
  rw [he, settle_next _ _ hs, onMover_panel hp, hf]

/-- The same of an effect on one move. -/
theorem exec_settleMove {i : Instr} {c p id : Nat} {m : Move} {f : Nat → Move → State → State} {s t : State}
    (he : exec i s = settle (withMove c id f) s) (hs : Alive s) (hp : panelOnCore s c = some p) (hm : moveOf s c id = some m)
    (hf : f p m s = t) : exec i s = .next (pumpColls (pumpCores p t)) := by
  rw [he, settle_next _ _ hs, withMove_panel hp hm, hf]

/-- An effect on one move that no collective waits for. -/
theorem exec_aliveMove {i : Instr} {c p id : Nat} {m : Move} {f : Nat → Move → State → State} {s t : State}
    (he : exec i s = alive (withMove c id f) s) (hs : Alive s) (hp : panelOnCore s c = some p) (hm : moveOf s c id = some m)
    (hf : f p m s = t) : exec i s = .next (pumpCores p t) :=
  exec_alive he hs (by rw [withMove_panel hp hm, hf])

/-! ### Counting -/

@[simp] theorem moverCount_lostLines (p sub n : Nat) (s : State) : (moverCount p sub n s).lostLines = s.lostLines := by
  unfold moverCount odCount
  repeat' split
  all_goals rfl

@[simp] theorem moverCount_ports (p sub n : Nat) (s : State) : (moverCount p sub n s).ports = s.ports := by
  unfold moverCount odCount
  repeat' split
  all_goals rfl

theorem lostPartly_moverCount (p sub n : Nat) (s : State) (a len : Nat) :
    lostPartly (moverCount p sub n s) a len = lostPartly s a len := by
  simp only [lostPartly, moverCount_lostLines]

theorem hostGone_moverCount (p sub n : Nat) (s : State) (a : Nat) : hostGone (moverCount p sub n s) a = hostGone s a := by
  rw [hostGone, hostGone, portOf, portOf, moverCount_ports]

/-! ### Requests -/

/-- A request that lands is counted, delivered, and landed for its moves (R175). -/
theorem issueReq_lands {c p : Nat} {m : Move} {r : MergeReq} {s : State} (h : Lands s p m r) :
    issueReq c p m r s = landed c p m r (deliverReq c m r none (moverCount p 1 1 s)) := by
  obtain ⟨hwrites, hgrant, hread, hbad, hopens, hcheck, hlost, hhost⟩ := h
  have hsrc : (m.reads && (inHost r.src || !grants s p false r.src r.len)) = false := by
    cases hreads : m.reads with
    | false => rfl
    | true => simp [hread hreads]
  have hwhole : (m.opensSwatch && (firstRefused s p r.src m.d.n0).isSome) = false := by
    cases hopen : m.opensSwatch with
    | false => rfl
    | true => simp [hopens hopen]
  have hclean : badIn s r.src r.len = false := by simp [badIn, hbad]
  simp [issueReq, hwrites, hgrant, hsrc, hwhole, hclean, hcheck, lostPartly_moverCount, hlost, hhost]

/-- The next request of move m of core c, as the mover issues it (R175). -/
def nextRequest (s : State) (c : Nat) (m : Move) : MergeReq :=
  ⟨m.d.kind, shiftAddrOn s c m.request.1.toNat, shiftAddrOn s c m.request.2.1.toNat, m.request.2.2, [(m.id, m.request.2.2)]⟩

/-- Is the next request of a move one that may wait in the merge stage (R177). -/
def mergeable (s : State) (m : Move) : Bool :=
  m.request.2.2 < 4096 && (m.d.kind = 0 || m.d.kind = 4) && m.channel.isNone && !m.d.nomerge && odGet s 0x2700 2 ≠ 0

/-- With no request in the merge stage, a request within the address space waits there or is issued at once. -/
theorem issueNext_inside {c p : Nat} {m : Move} {s : State} (hm : issuing (coreOf s c) = some m)
    (hmerge : (coreOf s c).merge = none) (hsrc : 0 ≤ m.request.1) (hdst : 0 ≤ m.request.2.1)
    (hsrcEnd : m.request.1 + m.request.2.2 ≤ 2 ^ 48) (hdstEnd : m.request.2.1 + m.request.2.2 ≤ 2 ^ 48)
    (hrec : m.d.records = false) :
    let t := updMove c m.id (fun v => { v with pos := v.pos + m.request.2.2 }) s
    issueNext c p s = if mergeable s m then updCore c (fun x => { x with merge := some (nextRequest s c m) }) t
      else issueReq c p m (nextRequest s c m) t := by
  have hfree (f : Move → Move) : (coreOf (updMove c m.id f s) c).merge = none := by rw [updMove, coreOf_updCore_self, hmerge]
  simp only [issueNext, hm, hrec, hfree, mergeable, nextRequest, Int.not_lt.2 hsrc, Int.not_lt.2 hdst, Int.not_lt.2 hsrcEnd,
    Int.not_lt.2 hdstEnd, decide_false, Bool.or_self, Bool.and_false, Bool.false_and, Bool.false_eq_true, if_false]
  rfl

/-- The request in the merge stage leaves it, and is issued for the first of its moves unless that one has stopped. -/
theorem flushMerge_issues {c p : Nat} {m : Move} {q : MergeReq} {e : Nat × Nat} {rest : List (Nat × Nat)} {s : State}
    (hq : (coreOf s c).merge = some q) (hmoves : q.moves = e :: rest)
    (hm : moveOf (updCore c (fun x => { x with merge := none }) s) c e.1 = some m) (hcut : m.cut = false) :
    flushMerge c p s = issueReq c p m q (updCore c (fun x => { x with merge := none }) s) := by
  simp only [flushMerge, hq, hmoves, hm, hcut, Bool.false_eq_true, if_false]

/-! ### Completion records -/

/-- A completion record that its panel may write, and whose page translates, goes out by its port (R182). -/
theorem writeRecord_sent {c p n status bus : Nat} {m : Move} {onFault : Nat → Move → Move} {s t : State}
    (hgrant : grants s p true (recordAddr s p m) 16 = true) (hhost : hostGone s (recordAddr s p m) = false)
    (hpage : translate (portOfAddr (recordAddr s p m)) (windowOf (recordAddr s p m)).2.1 (windowOf (recordAddr s p m)).2.2
      (moverCount p 1 1 s) = (.ok bus, t)) :
    writeRecord c p m n status onFault s =
      updCore c (fun x => { x with recCounts := sset 0 x.recCounts m.d.xfer n })
        (updMove c m.id (fun v => { v with recorded := n, finalRec := v.finalRec || status == 1, owed := none })
          (portSend (portOfAddr (recordAddr s p m)) (.write bus (recordBytes t c m n status)) t)) := by
  simp only [writeRecord, hgrant, hostGone_moverCount, hhost, hpage, Bool.not_true, Bool.false_eq_true, if_false]

/-- A move that goes on and has delivered chunks beyond its last record gets a record of them (R181). -/
theorem chunkDone_records {c p : Nat} {m : Move} {s : State} (hrec : m.d.records = true) (hstopped : m.stopped = false)
    (hlost : m.hostlost = false) (hfault : m.fault = none) (hmore : m.recorded < m.chunksDone)
    (hgrant : grants s p true (recordAddr s p m) 16 = true) :
    chunkDone c p m s = writeRecord c p m m.chunksDone (if m.chunksDone = m.d.chunks then 1 else 0)
      (fun cause v => { v with fault := some (recordAddr s p m, cause) }) s := by
  simp [chunkDone, hrec, hstopped, hlost, hfault, Nat.not_le.2 hmore, hgrant]

/-! ### Retirement -/

theorem finishMove_incomplete {c : Nat} {m : Move} {s : State} (h : moveComplete (coreOf s c) m = false) :
    finishMove c m s = s := by
  simp [finishMove, h]

theorem finishMove_complete {c : Nat} {m : Move} {s : State} (h : moveComplete (coreOf s c) m = true) (hdone : m.done = false) :
    finishMove c m s = retireMove c m.id (clearStatus c m.d s) := by
  simp [finishMove, h, hdone]

/-- Settles O19: a request within the address space waits or lands, and records and retirement follow the move's own state. -/
theorem moverProgress : Obligations.MoverProgress := by
  refine ⟨fun c p s m hs hp => ⟨?issue, ?expiry⟩, fun c p id s m hs hp hm => ⟨?chunk, ?stays, ?retires⟩⟩
  case issue =>
    intro hissue hmerge hsrc hdst hsrcEnd hdstEnd hrec
    have hnext := issueNext_inside (p := p) hissue hmerge hsrc hdst hsrcEnd hdstEnd hrec
    exact ⟨fun hshort => exec_settleMover rfl hs hp (hnext.trans (if_pos hshort)),
      fun hlong hlands => exec_settleMover rfl hs hp
        (hnext.trans ((if_neg (Bool.eq_false_iff.1 hlong)).trans (issueReq_lands hlands)))⟩
  case expiry =>
    intro q e rest hq hmoves t hm hcut hlands
    exact exec_settleMover rfl hs hp ((flushMerge_issues hq hmoves hm hcut).trans (issueReq_lands hlands))
  case chunk =>
    intro bus t a hp' n st hrec hstopped hlost hfault hmore hgrant hhost hpage
    exact exec_aliveMove rfl hs hp hm
      ((chunkDone_records hrec hstopped hlost hfault hmore hgrant).trans (writeRecord_sent hgrant hhost hpage))
  case stays => exact fun hrunning => exec_settleMove rfl hs hp hm (finishMove_incomplete hrunning)
  case retires => exact fun hcomplete hdone => exec_settleMove rfl hs hp hm (finishMove_complete hcomplete hdone)

/-! ### Faults in host windows -/

/-- A move found by its number after an update of it is an updated one. -/
theorem moveOf_updMove {c id : Nat} {f : Move → Move} {s : State} (hf : ∀ m, (f m).id = m.id) :
    moveOf (updMove c id f s) c id = (moveOf s c id).map f := by
  rw [moveOf, moveOf, updMove, coreOf_updCore_self]
  induction (coreOf s c).moves with
  | nil => rfl
  | cons m ms ih => by_cases h : m.id == id <;> simp_all

/-- A move to which no record is owed writes none. -/
theorem writeOwed_none {c p id : Nat} {f : Move → Move} {s : State} (hid : ∀ m, (f m).id = m.id) (hf : ∀ m, (f m).owed = none) :
    writeOwed c p id (updMove c id f s) = updMove c id f s := by
  rw [writeOwed, moveOf_updMove hid]
  cases moveOf s c id with
  | none => rfl
  | some m => simp only [Option.map_some, hf]

/-- A move without completion records, stopped at its last whole chunk by its fault of number n (R183). -/
def stoppedAt (c p : Nat) (m : Move) (s : State) : State :=
  let n := (panelOf s p).nextFault
  updMove c m.id (fun v => { v with stopped := true, faultNo := some n, owed := none })
    (moverCount p 5 1 (writeStatus c m.d (stopRun s p m) true false (updPanel p (fun x => { x with nextFault := (n + 1) % 2 ^ 16 }) s)))

/-- What becomes of fault number n of a move that has stopped at run L: the host's, or the pool's while it lasts (R184, R185). -/
def pursueFault (c p : Nat) (m : Move) (L n a cause : Nat) (s : State) : State :=
  if odGet s 0x2700 1 = 1 then referFault c p m n a cause s
  else if cause = 1 then
    match takePool p a s with
    | some s => resumeMove c p m L (moverCount p 6 1 s)
    | none => referFault c p m n a 3 s
  else referFault c p m n a cause s

theorem pursueFault_refers {c p L n a cause : Nat} {m : Move} {s : State} (h : odGet s 0x2700 1 = 1 ∨ cause ≠ 1) :
    pursueFault c p m L n a cause s = referFault c p m n a cause s := by
  rcases h with hmode | hcause
  · exact if_pos hmode
  · rw [pursueFault, if_neg hcause, ite_self]

/-- A new fault of a move without completion records stops it, and no record is owed before the fault is pursued (R183). -/
theorem handleFault_stops {c p a cause : Nat} {m : Move} {s : State} (hfault : m.fault = some (a, cause))
    (hno : m.faultNo = none) (hrec : m.d.records = false) :
    handleFault c p m s =
      pursueFault c p m (stopRun s p m) (panelOf s p).nextFault a cause (stoppedAt c p m s) := by
  have howed : writeOwed c p m.id (stoppedAt c p m s) = stoppedAt c p m s := writeOwed_none (fun _ => rfl) fun _ => rfl
  unfold stoppedAt at howed ⊢
  simp only [handleFault, hfault, hno, hrec, Bool.false_eq_true, if_false, howed, pursueFault] <;> rfl

theorem doFaultTimeout_pending {p number : Nat} {f : PendFault} {s : State} (hf : faultBy s p number = some f) :
    doFaultTimeout p number s = abortFault p number 0x2702
      (postPanel p 0x2702 (coreBlock s f.core) f.addr (number + 2 ^ 32 * tagOnCore s f.core) s) := by
  simp only [doFaultTimeout, hf]

/-- Settles O20: without records none is owed as the move stops, and the host's mode and the cause say who handles the fault. -/
theorem hostWindowFaults : Obligations.HostWindowFaults := by
  intro c p id number s hs
  refine ⟨fun m a cause hp hm hfault hno hrec => ?stop, fun f hf hnumber => ?timeout⟩
  case stop =>
    exact fun hhost => exec_aliveMove rfl hs hp hm
      ((handleFault_stops hfault hno hrec).trans (pursueFault_refers hhost))
  case timeout =>
    have hword : (BitVec.ofNat 16 number).toNat = number := Nat.mod_eq_of_lt hnumber
    rw [show exec (.faultTimeout p (BitVec.ofNat 16 number)) s = settle (doFaultTimeout p (BitVec.ofNat 16 number).toNat) s from rfl,
      settle_next _ _ hs, hword, doFaultTimeout_pending hf]

end Sys2Proof.Machine
end

section
/-! SUPPORT. Writes of the object dictionary that are commands of their own (R161–R383): numbers, by their entries' rows. -/
namespace Sys2Proof.Machine

/-! ### Numbers -/

theorem leNat_toLe_toNat {len : Nat} (n : BitVec (8 * len)) : leNat (toLe len n.toNat) = n.toNat := by
  rw [leNat_toLe, show 256 ^ len = 2 ^ (8 * len) by rw [Nat.pow_mul]]
  exact Nat.mod_eq_of_lt n.isLt

/-- The row of an entry: a number of len bytes from lo to hi, a multiple of step, of a panel or of the module. The entries with
further ranges of their own are none of these. -/
def numberRow (index sub len lo hi step : Nat) (panel : Option Nat) : Bool :=
  index ≠ 0x2000 && index ≠ 0x3100 && !(index = 0x1800 && sub = 0xA) && (odRow index sub).any fun row =>
    (row.ty == .uint len || (row.ty == .bool && (len, lo, hi, step) == (1, 0, 1, 1))) &&
    row.lo == lo && row.hi == hi && row.step == step && entryPanel row index sub == panel

/-- Where a number v that fits goes: to the panel's block, to the panel's subindex, or to the module's entry. -/
def routeNumber (path index sub : Nat) (panel : Option Nat) (v : Nat) (data : Bytes) (s : State) : Nat × State :=
  if index / 0x1000 = 4 then writePanelBlock (index / 256 % 16) (index % 256) sub v data s
  else match panel with
    | some q => writePerPanel q index sub v data s
    | none => writeEffect path index sub v data s

section
variable {path index sub len lo hi step v : Nat} {panel : Option Nat} {data : Bytes}
  (hrow : numberRow index sub len lo hi step panel = true)
include hrow

/-- What the row of a number says of the lengths and values that it takes. -/
theorem numberRow_takes : ∃ row, odRow index sub = some row ∧ entryPanel row index sub = panel ∧
    ∀ s, entryLen s row index sub = len ∧ ∀ v, valueOk s row index sub v = decide (lo ≤ v ∧ v ≤ hi ∧ v % step = 0) := by
  simp only [numberRow, Bool.and_eq_true, Option.any_eq_true, Bool.or_eq_true, beq_iff_eq, decide_eq_true_eq, Prod.mk.injEq,
    Bool.not_eq_true'] at hrow
  obtain ⟨⟨⟨hpower, hlink⟩, hboot⟩, row, hfound, ⟨⟨⟨hty, rfl⟩, rfl⟩, rfl⟩, hpanel⟩ := hrow
  refine ⟨row, hfound, hpanel, fun s => ?_⟩
  rcases hty with hty | ⟨hty, rfl, hlo, hhi, hstep⟩
  · refine ⟨by simp [entryLen, hty, OdType.bytes], fun v => ?_⟩
    simp only [valueOk, hty, hboot, hpower, hlink, decide_false, Bool.false_and, Bool.false_eq_true, if_false, Bool.and_true,
      Bool.decide_and, Bool.and_assoc]
  · exact ⟨by simp [entryLen, hty, OdType.bytes], fun v => by simp [valueOk, hty, hlo, hhi, hstep, Nat.mod_one]⟩

variable (hlen : data.length = len) (hv : leNat data = v)
include hlen hv

/-- A number in its entry's range has the entry's effect. -/
theorem applyWrite_number (s : State) (hrange : lo ≤ v ∧ v ≤ hi ∧ v % step = 0) :
    applyWrite path index sub data s = routeNumber path index sub panel v data s := by
  obtain ⟨row, hfound, hpanel, htakes⟩ := numberRow_takes hrow
  subst hv hpanel
  exact applyWrite_fits hfound (hlen.trans (htakes s).1.symm) (by rw [(htakes s).2, decide_eq_true hrange])

/-- A number out of its entry's range is answered with status 6. -/
theorem applyWrite_numberRange (s : State) (hrange : ¬(lo ≤ v ∧ v ≤ hi ∧ v % step = 0)) :
    applyWrite path index sub data s = (0x06, s) := by
  obtain ⟨row, hfound, -, htakes⟩ := numberRow_takes hrow
  subst hv
  exact applyWrite_range hfound (hlen.trans (htakes s).1.symm) (by rw [(htakes s).2, decide_eq_false hrange])

end

/-! ### Commands that write a number -/

section
variable {i : Instr} {r : OdReq} {index sub p len lo hi step : Nat} {panel : Option Nat} {data : Bytes} {s : State}
  {e : Nat × State}

/-- A command that writes a number in its entry's range is answered by the entry's effect. -/
theorem exec_number {v : Nat} (hexec : exec i s = settle (doOdPut r index sub data) s)
    (hrow : numberRow index sub len lo hi step panel = true) (hlen : data.length = len) (hv : leNat data = v)
    (hrange : lo ≤ v ∧ v ≤ hi ∧ v % step = 0)
    (he : routeNumber r.path index sub panel v data (wakeD1 (heard r s)) = e) (hput : MayPut s r index sub data) :
    exec i s = .next (pumpColls (answer r (putMsg index sub data) 0x20 e.1 0 [] e.2)) := by
  rw [hexec, put_exec hput ((applyWrite_number hrow hlen hv _ hrange).trans he)]

/-- The same of an effect that always succeeds. -/
theorem exec_numberDone {v : Nat} {t : State} (hexec : exec i s = settle (doOdPut r index sub data) s)
    (hrow : numberRow index sub len lo hi step panel = true) (hlen : data.length = len) (hv : leNat data = v)
    (hrange : lo ≤ v ∧ v ≤ hi ∧ v % step = 0)
    (he : routeNumber r.path index sub panel v data (wakeD1 (heard r s)) = (0, t)) (hput : MayPut s r index sub data) :
    exec i s = .next (answered r index sub data t) := by
  rw [exec_number hexec hrow hlen hv hrange he hput, answered]

/-- The same of a whole word, of any value, for panel p. -/
theorem exec_panelWord {n : BitVec (8 * len)} (hp : p < 16)
    (hexec : exec i s = settle (doOdPut r index (p + 1) (toLe len n.toNat)) s)
    (hrow : ∀ p < 16, numberRow index (p + 1) len 0 (2 ^ (8 * len) - 1) 1 (some p) = true)
    (he : routeNumber r.path index (p + 1) (some p) n.toNat (toLe len n.toNat) (wakeD1 (heard r s)) = e)
    (hput : MayPut s r index (p + 1) (toLe len n.toNat)) :
    exec i s = .next (pumpColls (answer r (putMsg index (p + 1) (toLe len n.toNat)) 0x20 e.1 0 [] e.2)) :=
  exec_number hexec (hrow p hp) (length_toLe _ _) (leNat_toLe_toNat n)
    ⟨Nat.zero_le _, Nat.le_sub_one_of_lt n.isLt, Nat.mod_one _⟩ he hput

/-- A command that writes a byte from 0 to hi is answered by its entry's effect, and with status 6 for a byte beyond. -/
theorem exec_byte {x : Byte} (hexec : exec i s = settle (doOdPut r index sub [x]) s)
    (hrow : numberRow index sub 1 0 hi 1 panel = true)
    (he : routeNumber r.path index sub panel x.toNat [x] (wakeD1 (heard r s)) = e) (hput : MayPut s r index sub [x]) :
    let m := putMsg index sub [x]
    (x.toNat ≤ hi → exec i s = .next (pumpColls (answer r m 0x20 e.1 0 [] e.2))) ∧
    (hi < x.toNat → exec i s = .next (pumpColls (answer r m 0x20 0x06 0 [] (wakeD1 (heard r s))))) :=
  ⟨fun hle => exec_number hexec hrow rfl rfl ⟨Nat.zero_le _, hle, Nat.mod_one _⟩ he hput,
    fun hlt => by rw [hexec, put_exec hput (applyWrite_numberRange hrow rfl rfl _ fun h => absurd h.2.1 (Nat.not_le.2 hlt))]⟩

end

/-! ### The entries of the commands -/

/-- The index of a panel's block names the panel and the page (R242). -/
theorem routeNumber_block {p page : Nat} (hp : p < 16) (hpage : page < 256) (path sub : Nat) (panel : Option Nat) (v : Nat)
    (data : Bytes) (s : State) :
    routeNumber path (panelIdx p page) sub panel v data s = writePanelBlock p page sub v data s := by
  have hblock : panelIdx p page / 0x1000 = 4 := by unfold panelIdx; omega
  have hpanel : panelIdx p page / 256 % 16 = p := by unfold panelIdx; omega
  have hpageOf : panelIdx p page % 256 = page := by unfold panelIdx; omega
  exact (if_pos hblock).trans (by rw [hpanel, hpageOf])

theorem numberRow_panelReset : ∀ p < 16, numberRow 0x1801 (p + 1) 1 0 1 1 (some p) = true := by decide
theorem numberRow_remapGo : ∀ p < 16, numberRow 0x1906 (p + 1) 1 0 255 1 (some p) = true := by decide
theorem numberRow_directWays : ∀ p < 16, numberRow 0x2602 (p + 1) 1 0 16 1 (some p) = true := by decide
theorem numberRow_poolBase : ∀ p < 16, numberRow 0x2702 (p + 1) 8 0 (2 ^ 64 - 1) 8 (some p) = true := by decide
theorem numberRow_poolEntries : ∀ p < 16, numberRow 0x2703 (p + 1) 4 0 (2 ^ 32 - 1) 1 (some p) = true := by decide
theorem numberRow_panelState : ∀ p < 16, numberRow (panelIdx p 0) 7 1 1 2 1 (some p) = true := by decide
theorem numberRow_seamJoin : ∀ p < 16, numberRow (panelIdx p 2) 1 1 0 1 1 (some p) = true := by decide

theorem numberRow_fabricId : numberRow 0x1100 2 2 0 255 1 none = true := by decide
theorem numberRow_boot : numberRow 0x1800 4 1 0 4 1 none = true := by decide
theorem numberRow_reset : numberRow 0x1800 8 1 1 2 1 none = true := by decide
theorem numberRow_powerState : numberRow 0x1800 9 1 0 3 1 none = true := by decide
theorem numberRow_rootMode : numberRow 0x2600 1 1 0 1 1 none = true := by decide
theorem numberRow_rootParity : numberRow 0x2600 2 1 0 3 1 none = true := by decide
theorem numberRow_rootRebuild : numberRow 0x2600 7 1 0 3 1 none = true := by decide
theorem numberRow_seamArm : numberRow 0x3001 1 1 0 1 1 none = true := by decide

theorem routeNumber_seamArm {path v q : Nat} {data : Bytes} {s : State} (hq : commonPanel s = some q) :
    routeNumber path 0x3001 1 none v data s = writeArm q v s := by
  simp [routeNumber, writeEffect, hq]

theorem routeNumber_fabricId (path v : Nat) (data : Bytes) (s : State) :
    routeNumber path 0x1100 2 none v data s =
      if anyKernel s then (0x08, s) else (0, digestChanged (odPut 0x1100 2 v s)) := rfl

/-- Settles O56: each command writes a number to its entry; the row says which numbers fit, and the index where they go. -/
theorem dictionaryCommands : Obligations.DictionaryCommands := by
  intro r p s hp
  refine ⟨fun n v tag x => ?commands, fun v hv hput => ?poolBase, fun x => ?bytes, fun v hv hput => ⟨?busy, ?idle⟩,
    fun q hput hq => ?arm, fun q hput hq => ?disarm, fun hput => ?reset⟩
  case commands =>
    have htag : BitVec.ofNat 32 tag.toNat = tag := by simp
    simp only [List.forall_mem_cons]
    exact ⟨exec_panelWord (e := (0, _)) hp rfl (by decide) rfl,
      exec_panelWord (e := (0, _)) hp rfl (by decide) rfl,
      exec_number (e := (0, _)) rfl (numberRow_poolEntries p hp) (length_toLe ..) (leNat_toLe ..)
        ⟨Nat.zero_le _, by omega, Nat.mod_one _⟩ rfl,
      exec_panelWord hp rfl (by decide) (congrArg (writeWaitAbort p · _) htag),
      exec_panelWord (e := (0, _)) hp rfl (by decide) (congrArg (fun t => (0, doSchedAbort p t _)) htag),
      exec_panelWord (e := (0, _)) hp rfl (by decide) (congrArg (fun t => (0, doSchedDecide p t _)) htag),
      exec_panelWord hp rfl (by decide) rfl,
      fun hput => (exec_byte rfl (numberRow_remapGo p hp) rfl hput).1 (Nat.le_of_lt_succ x.isLt),
      exec_number rfl (numberRow_panelReset p hp) rfl rfl (by decide) rfl,
      exec_number rfl (numberRow_panelState p hp) rfl rfl (by decide) (routeNumber_block hp (by decide) ..),
      exec_number rfl (numberRow_panelState p hp) rfl rfl (by decide) (routeNumber_block hp (by decide) ..),
      exec_number rfl (numberRow_seamJoin p hp) rfl rfl (by decide) (routeNumber_block hp (by decide) ..),
      exec_number rfl (numberRow_seamJoin p hp) rfl rfl (by decide) (routeNumber_block hp (by decide) ..),
      exec_number (e := (0, _)) rfl numberRow_reset rfl rfl (by decide) rfl,
      exec_number rfl numberRow_powerState rfl rfl (by decide) rfl,
      exec_number rfl numberRow_powerState rfl rfl (by decide) rfl,
      exec_number rfl numberRow_powerState rfl rfl (by decide) rfl,
      exec_number rfl numberRow_powerState rfl rfl (by decide) rfl, List.forall_mem_nil _⟩
  case poolBase =>
    exact exec_numberDone rfl (numberRow_poolBase p hp) (length_toLe ..) (leNat_toLe_toNat (len := 8) v)
      ⟨Nat.zero_le _, Nat.le_sub_one_of_lt v.isLt, hv⟩ rfl hput
  case bytes =>
    simp only [List.forall_mem_cons]
    exact ⟨exec_byte rfl (numberRow_directWays p hp) rfl, exec_byte rfl numberRow_rootRebuild rfl,
      exec_byte rfl numberRow_rootMode rfl, exec_byte rfl numberRow_rootParity rfl, exec_byte rfl numberRow_boot rfl,
      List.forall_mem_nil _⟩
  case busy =>
    exact fun hbusy => exec_number (e := (0x08, _)) rfl numberRow_fabricId (length_toLe ..) (leNat_toLe_toNat (len := 2) v)
      ⟨Nat.zero_le _, hv, Nat.mod_one _⟩ ((routeNumber_fabricId ..).trans (if_pos hbusy)) hput
  case idle =>
    exact fun hidle => exec_numberDone rfl numberRow_fabricId (length_toLe ..) (leNat_toLe_toNat (len := 2) v)
      ⟨Nat.zero_le _, hv, Nat.mod_one _⟩ ((routeNumber_fabricId ..).trans (if_neg (Bool.eq_false_iff.1 hidle))) hput
  case arm => exact exec_number rfl numberRow_seamArm rfl rfl (by decide) (routeNumber_seamArm hq) hput
  case disarm =>
    exact exec_numberDone rfl numberRow_seamArm rfl rfl (by decide) (routeNumber_seamArm hq) hput
  case reset =>
    have hwrite (path : Nat) (u : State) : applyWrite path 0x1800 8 [1] u = (0, moduleReset u) :=
      applyWrite_number numberRow_reset rfl rfl u (by decide)
    exact congrArg Host.Outcome.next ((put_answers hput).trans (by rw [hwrite]))

end Sys2Proof.Machine
end

section
/-! SUPPORT. Knots: what an operation on a knot leaves there and what it leaves alone, and the arrivals at a barrier (R192, R194,
R202). -/
namespace Sys2Proof.Machine

/-! ### Knots and waiters -/

@[simp] theorem knotOf_setKnot_self (i : Nat) (k : Knot) (s : State) : knotOf (setKnot i k s) i = k :=
  sget_sset_self _ s.knots i k

theorem knotOf_setKnot_ne {i j : Nat} (k : Knot) (s : State) (h : j ≠ i) : knotOf (setKnot i k s) j = knotOf s j :=
  sget_sset_ne _ s.knots i j k h

@[simp] theorem odCount_knots (i k n : Nat) (s : State) : (odCount i k n s).knots = s.knots := by
  unfold odCount
  split <;> rfl

@[simp] theorem odCount_waiters (i k n : Nat) (s : State) : (odCount i k n s).waiters = s.waiters := by
  unfold odCount
  split <;> rfl

@[simp] theorem knotOf_odCount (i k n j : Nat) (s : State) : knotOf (odCount i k n s) j = knotOf s j := by
  rw [knotOf, knotOf, odCount_knots]

/-- A knot on which no one waits has nothing to evaluate. -/
theorem evalWaiters_none {i : Nat} {s : State} (hw : ∀ w ∈ s.waiters, w.knot ≠ i) : evalWaiters i s = s := by
  have hnone : (s.waiters.filter fun w => w.knot == i && waitMet (knotOf s i) w.op w.value) = [] :=
    List.filter_eq_nil_iff.2 fun w hmem => by simp [hw w hmem]
  have hall : (s.waiters.filter fun w => !(w.knot == i && waitMet (knotOf s i) w.op w.value)) = s.waiters :=
    List.filter_eq_self.2 fun w hmem => by simp [hw w hmem]
  simp only [evalWaiters, hnone, hall, List.foldl_nil]

/-- The waits that others of this module hold on a knot are no affair of core c. -/
theorem coreOf_evalWaiters {c i : Nat} {s : State} (hw : OthersWait s c i) : coreOf (evalWaiters i s) c = coreOf s c := by
  refine List.foldlRecOn (motive := fun t => coreOf t c = coreOf s c) _ _ rfl fun t ht w hmem => ?_
  obtain ⟨hin, hmet⟩ := List.mem_filter.1 hmem
  obtain ⟨hfab, hne⟩ := hw w hin (beq_iff_eq.1 (Bool.and_eq_true_iff.1 hmet).1)
  rw [releaseWaiter, hfab]
  exact (coreOf_updCore_ne w.core c knotReady t hne.symm).trans ht

/-! ### KADD and KSET -/

/-- An operation has left k in knot i, and is counted. -/
def knotWritten (i : Nat) (k : Knot) (s : State) : State := odCount 0x2807 1 1 (setKnot i k s)

@[simp] theorem knotOf_knotWritten_self (i : Nat) (k : Knot) (s : State) : knotOf (knotWritten i k s) i = k := by
  simp [knotWritten]

theorem knotOf_knotWritten_ne {i j : Nat} (k : Knot) (s : State) (h : j ≠ i) :
    knotOf (knotWritten i k s) j = knotOf s j := by
  rw [knotWritten, knotOf_odCount, knotOf_setKnot_ne k s h]

@[simp] theorem knotWritten_waiters (i : Nat) (k : Knot) (s : State) : (knotWritten i k s).waiters = s.waiters :=
  odCount_waiters ..

@[simp] theorem knotWritten_cores (i : Nat) (k : Knot) (s : State) : (knotWritten i k s).cores = s.cores :=
  odCount_cores ..

theorem odGet_knotWritten (i : Nat) (k : Knot) (s : State) : odGet (knotWritten i k s) 0x2807 6 = odGet s 0x2807 6 :=
  odGet_odCount_ne 0x2807 1 1 0x2807 6 (setKnot i k s) (by decide)

/-- It changes no other knot, no memory, no core and no panel. -/
theorem knotWritten_frame (i : Nat) (k : Knot) (s : State) : (∀ j, j ≠ i → knotOf (knotWritten i k s) j = knotOf s j) ∧
    (knotWritten i k s).mem = s.mem ∧ (knotWritten i k s).cores = s.cores ∧ (knotWritten i k s).panels = s.panels :=
  ⟨fun _ => knotOf_knotWritten_ne k s, odCount_mem .., odCount_cores .., odCount_panels ..⟩

/-- A knot once KSET has given it value v. -/
def setTo (v : Nat) (g : Signaller) (k : Knot) : Knot :=
  let k' := signKnot g { k with value := BitVec.ofNat 48 v }
  if k.poisoned then { k' with poisoned := false, gen := 0, ops := 0 } else k'

theorem applyKadd_eq (i v : Nat) (g : Signaller) (s : State) :
    applyKadd i v g s = evalWaiters i
      (knotWritten i (signKnot g { knotOf s i with value := (knotOf s i).value + BitVec.ofNat 48 v }) s) := rfl

theorem applyKset_eq (i v : Nat) (g : Signaller) (s : State) :
    applyKset i v g s = evalWaiters i (knotWritten i (setTo v g (knotOf s i)) s) := rfl

theorem setTo_value (v : Nat) (g : Signaller) (k : Knot) : (setTo v g k).value = BitVec.ofNat 48 v := by
  unfold setTo
  split <;> rfl

theorem setTo_poisoned (v : Nat) (g : Signaller) {k : Knot} (h : k.poisoned = true) :
    (setTo v g k).poisoned = false ∧ (setTo v g k).gen = 0 := by
  simp [setTo, h]

/-! ### Arrivals -/

/-- What an arrival of generation g notes of an error: one of a generation that is neither the current nor the next is counted,
and a host-made error taints the panel. -/
def arrivalNoted (i g p : Nat) (s : State) : State :=
  let k := knotOf s i
  let n := k.value.toNat / 2 ^ 32
  let early := g = (k.gen.toNat + 1) % 2 ^ 16
  let bad := g ≠ k.gen.toNat && !early
  let e := k.value.toNat % 2 ^ 16
  let e := if g ≠ k.gen.toNat && early then (e + 1) % 2 ^ 16 else e
  let s := if bad then odCount 0x2807 6 1 s else s
  if bad || n = 0 || n < e then taint p s else s

/-- A knot once an arrival of generation g has reached it. -/
def arrivedAt (g : Nat) (sg : Signaller) (k : Knot) : Knot :=
  let n := k.value.toNat / 2 ^ 32
  let a := k.value.toNat / 2 ^ 16 % 2 ^ 16
  let e := k.value.toNat % 2 ^ 16
  let a := if g = k.gen.toNat then (a + 1) % 2 ^ 16 else a
  let e := if g ≠ k.gen.toNat && g = (k.gen.toNat + 1) % 2 ^ 16 then (e + 1) % 2 ^ 16 else e
  let r := barrierRounds n 3 (a, e, k.gen.toNat)
  signKnot sg { k with value := BitVec.ofNat 48 (n * 2 ^ 32 + r.1 * 2 ^ 16 + r.2.1), gen := BitVec.ofNat 16 r.2.2 }

theorem applyArrive_eq (i g p : Nat) (sg : Signaller) (s : State) :
    applyArrive i g p sg s =
      evalWaiters i (knotWritten i (arrivedAt g sg (knotOf s i)) (arrivalNoted i g p s)) := rfl

/-- Noting an error changes counters and taints alone. -/
theorem arrivalNoted_frame (i g p : Nat) (s : State) :
    (arrivalNoted i g p s).knots = s.knots ∧ (arrivalNoted i g p s).waiters = s.waiters ∧ (arrivalNoted i g p s).mem = s.mem ∧
      (arrivalNoted i g p s).cores = s.cores ∧ (arrivalNoted i g p s).panels = s.panels := by
  have htaint : ∀ (b : Bool) (t : State), (if b then taint p t else t).knots = t.knots ∧
      (if b then taint p t else t).waiters = t.waiters ∧ (if b then taint p t else t).mem = t.mem ∧
      (if b then taint p t else t).cores = t.cores ∧ (if b then taint p t else t).panels = t.panels := fun b t => by
    cases b <;> exact ⟨rfl, rfl, rfl, rfl, rfl⟩
  unfold arrivalNoted
  dsimp only
  obtain ⟨hk, hw, hm, hc, hp⟩ := htaint _ _
  rw [hk, hw, hm, hc, hp]
  split <;> simp

/-- Only an arrival of another generation is counted as an error. -/
theorem odGet_arrivalNoted (i g p : Nat) (s : State) : odGet (arrivalNoted i g p s) 0x2807 6 =
    if g ≠ (knotOf s i).gen.toNat ∧ g ≠ ((knotOf s i).gen + 1).toNat then (odGet s 0x2807 6 + 1) % odModulus 0x2807 6
    else odGet s 0x2807 6 := by
  have htaint : ∀ (b : Bool) (t : State), odGet (if b then taint p t else t) 0x2807 6 = odGet t 0x2807 6 := fun b t => by
    cases b <;> rfl
  have hnext : ((knotOf s i).gen + 1).toNat = ((knotOf s i).gen.toNat + 1) % 2 ^ 16 := by bv_omega
  unfold arrivalNoted
  dsimp only
  rw [htaint, hnext]
  simp only [Bool.and_eq_true, decide_eq_true_eq, Bool.not_eq_true', decide_eq_false_iff_not]
  split
  · exact odGet_odCount_self 0x2807 6 1 s (by decide)
  · rfl

/-! ### Operations on a knot that no one waits on -/

section
variable {i : Nat} {s : State} (hw : ∀ w ∈ s.waiters, w.knot ≠ i)
include hw

theorem applyKadd_alone (v : Nat) (g : Signaller) : applyKadd i v g s =
    knotWritten i (signKnot g { knotOf s i with value := (knotOf s i).value + BitVec.ofNat 48 v }) s := by
  rw [applyKadd_eq, evalWaiters_none (by rwa [knotWritten_waiters])]

theorem applyKset_alone (v : Nat) (g : Signaller) : applyKset i v g s = knotWritten i (setTo v g (knotOf s i)) s := by
  rw [applyKset_eq, evalWaiters_none (by rwa [knotWritten_waiters])]

theorem applyArrive_alone (g p : Nat) (sg : Signaller) : applyArrive i g p sg s =
    knotWritten i (arrivedAt g sg (knotOf s i)) (arrivalNoted i g p s) := by
  obtain ⟨-, hwaiters, -⟩ := arrivalNoted_frame i g p s
  rw [applyArrive_eq, evalWaiters_none (by rwa [knotWritten_waiters, hwaiters])]

/-- An operation on the knot touches no other knot, no memory, no core and no panel (R192). -/
theorem knotOperations_frame (v p : Nat) (g : Signaller) :
    ∀ t ∈ [applyKadd i v g s, applyKset i v g s, applyArrive i v p g s],
      (∀ j, j ≠ i → knotOf t j = knotOf s j) ∧ t.mem = s.mem ∧ t.cores = s.cores ∧ t.panels = s.panels := by
  simp only [List.forall_mem_cons, applyKadd_alone hw, applyKset_alone hw, applyArrive_alone hw]
  refine ⟨knotWritten_frame .., knotWritten_frame .., ?_, List.forall_mem_nil _⟩
  obtain ⟨hknots, -, hmem, hcores, hpanels⟩ := arrivalNoted_frame i v p s
  obtain ⟨hknots', hmem', hcores', hpanels'⟩ := knotWritten_frame i (arrivedAt v g (knotOf s i)) (arrivalNoted i v p s)
  exact ⟨fun j hj => (hknots' j hj).trans (by rw [knotOf, knotOf, hknots]), hmem'.trans hmem, hcores'.trans hcores,
    hpanels'.trans hpanels⟩

end

/-! ### Barriers -/

/-- The knot shows n expected, a arrived and e early, in generation G (R194). -/
def ShowsBarrier (k : Knot) (n a e : Nat) (G : Word16) : Prop :=
  k.value = BitVec.ofNat 48 (n * 2 ^ 32 + a * 2 ^ 16 + e) ∧ k.gen = G

theorem barrierRounds_short {n a : Nat} (h : n = 0 ∨ a < n) (fuel e g : Nat) :
    barrierRounds n fuel (a, e, g) = (a, e, g) := by
  cases fuel with
  | zero => rfl
  | succ fuel =>
    rw [barrierRounds, if_neg]
    simp only [Bool.and_eq_true, decide_eq_true_eq]
    omega

theorem barrierRounds_full {n a : Nat} (h0 : 0 < n) (h : n ≤ a) (fuel e g : Nat) :
    barrierRounds n (fuel + 1) (a, e, g) = barrierRounds n fuel (e, 0, (g + 1) % 2 ^ 16) := by
  rw [barrierRounds, if_pos (by simp [h0, h])]

theorem word16_succ (G : Word16) : BitVec.ofNat 16 ((G.toNat + 1) % 2 ^ 16) = G + 1 := by bv_omega

theorem word16_succ_succ (G : Word16) : BitVec.ofNat 16 (((G.toNat + 1) % 2 ^ 16 + 1) % 2 ^ 16) = G + 2 := by bv_omega

section
variable {k : Knot} {n a e : Nat} (hn : n < 2 ^ 16) (ha : a + 1 < 2 ^ 16) (he : e + 1 < 2 ^ 16)
  (hv : k.value = BitVec.ofNat 48 (n * 2 ^ 32 + a * 2 ^ 16 + e)) (sg : Signaller)
include hn ha he hv

theorem barrier_fields : k.value.toNat / 2 ^ 32 = n ∧ k.value.toNat / 2 ^ 16 % 2 ^ 16 = a ∧ k.value.toNat % 2 ^ 16 = e := by
  rw [hv, BitVec.toNat_ofNat]
  omega

/-- An arrival of the current generation is one more arrived, and completes the rounds that it fills. -/
theorem arrivedAt_current : arrivedAt k.gen.toNat sg k =
    let r := barrierRounds n 3 (a + 1, e, k.gen.toNat)
    signKnot sg { k with value := BitVec.ofNat 48 (n * 2 ^ 32 + r.1 * 2 ^ 16 + r.2.1), gen := BitVec.ofNat 16 r.2.2 } := by
  obtain ⟨hN, hA, hE⟩ := barrier_fields hn ha he hv
  simp only [arrivedAt, hN, hA, hE, Nat.mod_eq_of_lt ha, if_true, ne_eq, not_true, decide_false, Bool.false_and,
    Bool.false_eq_true, if_false]

theorem arrivedAt_current_counts (h : n = 0 ∨ a + 1 < n) : ShowsBarrier (arrivedAt k.gen.toNat sg k) n (a + 1) e k.gen := by
  rw [arrivedAt_current hn ha he hv, barrierRounds_short h]
  exact ⟨rfl, (BitVec.ofNat_toNat ..).trans (BitVec.setWidth_eq ..)⟩

theorem arrivedAt_current_completes (h0 : 0 < n) (h : n ≤ a + 1) (hlt : e < n) :
    ShowsBarrier (arrivedAt k.gen.toNat sg k) n e 0 (k.gen + 1) := by
  rw [arrivedAt_current hn ha he hv, barrierRounds_full h0 h, barrierRounds_short (.inr hlt)]
  exact ⟨rfl, word16_succ _⟩

theorem arrivedAt_current_completes_next (h0 : 0 < n) (h : n ≤ a + 1) (hle : n ≤ e) :
    ShowsBarrier (arrivedAt k.gen.toNat sg k) n 0 0 (k.gen + 2) := by
  rw [arrivedAt_current hn ha he hv, barrierRounds_full h0 h, barrierRounds_full h0 hle, barrierRounds_short (.inr h0)]
  exact ⟨rfl, word16_succ_succ _⟩

/-- An arrival of the next generation is early. -/
theorem arrivedAt_early {g : Nat} (hg : g = (k.gen + 1).toNat) (h : n = 0 ∨ a < n) :
    ShowsBarrier (arrivedAt g sg k) n a (e + 1) k.gen := by
  obtain ⟨hN, hA, hE⟩ := barrier_fields hn ha he hv
  have hne : g ≠ k.gen.toNat := by bv_omega
  have hnext : g = (k.gen.toNat + 1) % 2 ^ 16 := by bv_omega
  simp only [arrivedAt, hN, hA, hE, ne_eq, hne, if_false, not_false_eq_true, decide_true, Bool.true_and, decide_eq_true_eq,
    if_pos hnext, Nat.mod_eq_of_lt he, barrierRounds_short h]
  exact ⟨rfl, (BitVec.ofNat_toNat ..).trans (BitVec.setWidth_eq ..)⟩

/-- One of another generation leaves the knot's counts and its generation. -/
theorem arrivedAt_other {g : Nat} (hg : g ≠ k.gen.toNat) (hg' : g ≠ (k.gen + 1).toNat) (h : n = 0 ∨ a < n) :
    ShowsBarrier (arrivedAt g sg k) n a e k.gen := by
  obtain ⟨hN, hA, hE⟩ := barrier_fields hn ha he hv
  have hnext : g ≠ (k.gen.toNat + 1) % 2 ^ 16 := by bv_omega
  simp only [arrivedAt, hN, hA, hE, if_neg hg, hnext, decide_false, Bool.and_false, Bool.false_eq_true, if_false,
    barrierRounds_short h]
  exact ⟨rfl, (BitVec.ofNat_toNat ..).trans (BitVec.setWidth_eq ..)⟩

end

/-- Settles O22: an arrival where no one waits writes the knot alone, and its generation says which count it raises. -/
theorem barrierArrivals : Obligations.BarrierArrivals := by
  refine ⟨fun c p i x f g s hg hroute hpoisoned => ?orphaned, fun i g p n a e q s hw hn ha he hv => ?arrives⟩
  case orphaned =>
    simp only [startArrive, hg, hroute, hpoisoned, if_true]
  case arrives =>
    dsimp only
    simp only [applyArrive_alone hw, knotOf_knotWritten_self, odGet_knotWritten, odGet_arrivalNoted]
    refine ⟨?current, ?early, ?other⟩
    case current =>
      rintro rfl
      simp only [ne_eq, not_true, false_and, if_false, and_true, ← and_assoc]
      exact ⟨⟨arrivedAt_current_counts hn ha he hv q, arrivedAt_current_completes hn ha he hv q⟩,
        arrivedAt_current_completes_next hn ha he hv q⟩
    case early =>
      intro hg h
      obtain ⟨hvalue, hgen⟩ := arrivedAt_early hn ha he hv q hg h
      exact ⟨hvalue, hgen, if_neg fun hne => hne.2 hg⟩
    case other =>
      intro hg hg' h
      obtain ⟨hvalue, hgen⟩ := arrivedAt_other hn ha he hv q hg hg' h
      exact ⟨hvalue.trans hv.symm, hgen, if_pos ⟨hg, hg'⟩⟩

end Sys2Proof.Machine
end

section
/-! SUPPORT. The operations of a stage program on knots of this module (R192–R195, R202). -/
namespace Sys2Proof.Machine

/-! ### What an operation on a knot leaves to its core -/

theorem OthersWait.congr {s t : State} {c i : Nat} (h : OthersWait s c i) (hw : t.waiters = s.waiters) : OthersWait t c i := by
  unfold OthersWait
  rwa [hw]

theorem coreOf_congr {s t : State} (h : t.cores = s.cores) (c : Nat) : coreOf t c = coreOf s c := by
  rw [coreOf, coreOf, h]

section
variable {c i : Nat} {s : State} (hw : OthersWait s c i)
include hw

theorem coreOf_knotEvaluated (k : Knot) : coreOf (evalWaiters i (knotWritten i k s)) c = coreOf s c :=
  (coreOf_evalWaiters (hw.congr (knotWritten_waiters i k s))).trans (coreOf_congr (knotWritten_cores i k s) c)

theorem coreOf_applyKadd (v : Nat) (g : Signaller) : coreOf (applyKadd i v g s) c = coreOf s c := coreOf_knotEvaluated hw _

theorem coreOf_applyKset (v : Nat) (g : Signaller) : coreOf (applyKset i v g s) c = coreOf s c := coreOf_knotEvaluated hw _

theorem coreOf_applyArrive (v p : Nat) (g : Signaller) : coreOf (applyArrive i v p g s) c = coreOf s c := by
  obtain ⟨-, hwaiters, -, hcores, -⟩ := arrivalNoted_frame i v p s
  exact (coreOf_knotEvaluated (hw.congr hwaiters) _).trans (coreOf_congr hcores c)

end

/-- An effect made exactly once leaves the queues of its core, where the effect leaves the core. -/
theorem queues_onceEffect {c : Nat} {f : State → State} {s : State}
    (hf : ∀ t, t.waiters = s.waiters → (coreOf (f t) c).queues = (coreOf t c).queues) :
    (coreOf (onceEffect c f s) c).queues = (coreOf s c).queues := by
  unfold onceEffect
  split
  · refine (hf (updCore c _ s) rfl).trans ?_
    rw [coreOf_updCore_self]
  · rw [coreOf_odCount, coreOf_updCore_self]

theorem taintRestore_waiters (p i : Nat) (s : State) : (taintRestore p i s).waiters = s.waiters := by
  unfold taintRestore
  split <;> rfl

theorem taintRestore_cores (p i : Nat) (s : State) : (taintRestore p i s).cores = s.cores := by
  unfold taintRestore
  split <;> rfl

theorem taintRestore_time (p i : Nat) (s : State) : (taintRestore p i s).time = s.time := by
  unfold taintRestore
  split <;> rfl

/-! ### KADD and KSET -/

section
variable {c p i v : Nat} {x : Core} {f : KnotF} {set : Bool} {s : State}

/-- A KADD or KSET on a knot of this module that its panel may reach is applied at once; a KSET of the owner clears poison. -/
theorem startKnotOp_here (hv : knotOperand x 48 f.value.toNat f.mode f.reg f.step = some v)
    (hroute : knotRoute s p (shiftKnotOn s c f.knot) (if set then 49 else 48) = .here i)
    (hgood : (knotOf (taintRestore p i s) i).poisoned = false ∨ set = true ∧ knotPanel (taintRestore p i s) i = some p) :
    startKnotOp c p x f set s = .started true (onceEffect c
      (if set then applyKset i v (coreSignaller (taintRestore p i s) c p)
        else applyKadd i v (coreSignaller (taintRestore p i s) c p))
      (taintRestore p i s)) := by
  have hgo : ((knotOf (taintRestore p i s) i).poisoned && !(set && knotPanel (taintRestore p i s) i = some p)) = false := by
    rcases hgood with h | ⟨rfl, h⟩ <;> simp [h]
  simp only [startKnotOp, hv, hroute, hgo, Bool.false_eq_true, if_false]

/-- Where others of the module wait at most, it leaves the queues of its core. -/
theorem queues_knotOp (hw : OthersWait s c i) (g : Signaller) :
    (coreOf (onceEffect c (if set then applyKset i v g else applyKadd i v g) (taintRestore p i s)) c).queues =
      (coreOf s c).queues := by
  have happlied : ∀ t, t.waiters = (taintRestore p i s).waiters →
      (coreOf ((if set then applyKset i v g else applyKadd i v g) t) c).queues = (coreOf t c).queues := fun t ht => by
    have hw' : OthersWait t c i := hw.congr (ht.trans (taintRestore_waiters p i s))
    cases set
    · exact congrArg Core.queues (coreOf_applyKadd hw' v g)
    · exact congrArg Core.queues (coreOf_applyKset hw' v g)
  rw [queues_onceEffect happlied, coreOf_congr (taintRestore_cores p i s)]

end

/-- Settles O21: where others of the module wait at most, applying the operation leaves its core's queues, so the operation begins
at once; and where no one waits, it writes the knot alone. -/
theorem knotAddAndSet : Obligations.KnotAddAndSet := by
  refine ⟨fun c h f s k i v hk hw => ⟨?kadd, ?kset⟩,
    fun i v p g s hw => ⟨?sum, ?count, ?set, ?cleared, ?arrived, ?completed, ?frame⟩⟩
  case kadd =>
    dsimp only
    intro hr hv hroute hgood
    exact beginsKnot_of_start rfl hr hk rfl (startKnotOp_here (set := false) hv hroute (.inl hgood))
      (queues_knotOp (s := enqueued c h (.kadd c h f) s) (set := false) (hw.congr rfl) _)
  case kset =>
    dsimp only
    intro hr hv hroute hgood
    exact beginsKnot_of_start rfl hr hk rfl (startKnotOp_here (set := true) hv hroute (hgood.imp_right fun h => ⟨rfl, h⟩))
      (queues_knotOp (s := enqueued c h (.kset c h f) s) (set := true) (hw.congr rfl) _)
  case sum => rw [applyKadd_alone hw, knotOf_knotWritten_self]; rfl
  case count => rw [applyKadd_alone hw, knotOf_knotWritten_self]; rfl
  case set => rw [applyKset_alone hw, knotOf_knotWritten_self, setTo_value]
  case cleared =>
    intro hpoisoned
    rw [applyKset_alone hw, knotOf_knotWritten_self]
    exact setTo_poisoned v g hpoisoned
  case arrived =>
    rintro n a hvalue hn ha rfl
    have hv : (knotOf s i).value = BitVec.ofNat 48 (n * 2 ^ 32 + a * 2 ^ 16 + 0) := BitVec.eq_of_toNat_eq (by
      rw [hvalue, BitVec.toNat_ofNat]; omega)
    obtain ⟨hshows, hgen⟩ := arrivedAt_current_counts hn (by omega) (by decide) hv g (.inr ha)
    rw [applyArrive_alone hw, knotOf_knotWritten_self, hshows, BitVec.toNat_ofNat]
    exact ⟨by omega, hgen⟩
  case completed =>
    rintro n hvalue h0 hn rfl
    have hv : (knotOf s i).value = BitVec.ofNat 48 (n * 2 ^ 32 + (n - 1) * 2 ^ 16 + 0) := BitVec.eq_of_toNat_eq (by
      rw [hvalue, BitVec.toNat_ofNat]; omega)
    obtain ⟨hshows, hgen⟩ := arrivedAt_current_completes hn (by omega) (by decide) hv g h0 (by omega) h0
    rw [applyArrive_alone hw, knotOf_knotWritten_self, hshows, BitVec.toNat_ofNat]
    exact ⟨by omega, hgen⟩
  case frame => exact knotOperations_frame hw v p g

/-! ### Waits -/

/-- The record of core c's wait on knot i of this module, since time τ. -/
def waiterOf (c i op mode v τ : Nat) : Waiter :=
  { knot := i, fab := none, core := c, op := op, mode := mode, value := v, qp := 0, count := 0, since := τ }

/-- An operation whose start comes down to a wait on a knot of this module goes on at once or stands (R192, R193). -/
theorem wait_begins {c i o mode v τ : Nat} {h : OpHdr} {op : Instr} {s t : State} {k : Kernel}
    (he : exec op s = settle (dispatchOp c h op) s) (hq : queueOf op = 12) (hr : OpReady s c h op)
    (hk : kernelOnCore s c = some k)
    (hst : startOp c k.panel (coreOf (enqueued c h op s) c) (entryOf s c h op) (enqueued c h op s) = waitHere c i o mode v t)
    (hqs : (coreOf t c).queues = (coreOf (enqueued c h op s) c).queues) (hτ : t.time = τ) :
    (waitMet (knotOf t i) o v = true → BeginsKnot s c op true t) ∧
      (waitMet (knotOf t i) o v = false →
        BeginsKnot s c op false { t with waiters := t.waiters ++ [waiterOf c i o mode v τ] }) := by
  subst hτ
  refine ⟨fun hmet => beginsKnot_of_start he hr hk hq (hst.trans ?_) hqs,
    fun hmet => beginsKnot_of_start he hr hk hq (hst.trans ?_) hqs⟩
  · rw [waitHere, if_pos hmet]
  · rw [waitHere, if_neg (Bool.eq_false_iff.1 hmet)]
    rfl

section
variable {c p i v : Nat} {x : Core} {s : State}

/-- A KWAITGE whose mode forms an operand waits on its knot, not on a spool (R193). -/
theorem startWaitGe_knot {f : KnotF} (hv : knotOperand x 48 f.value.toNat f.mode f.reg f.step = some v) :
    startWaitGe c p x f s = startKnotWait c p x f false s := by
  have hmode : ¬2 ≤ f.mode.toNat := by
    unfold knotOperand at hv
    dsimp only at hv
    split at hv
    next h => simp [h]
    next =>
      split at hv
      next h => simp [h]
      next => exact nomatch hv
  simp [startWaitGe, hmode]

theorem startKnotWait_here {f : KnotF} {eq : Bool} (hv : knotOperand x 48 f.value.toNat f.mode f.reg f.step = some v)
    (hroute : knotRoute s p (shiftKnotOn s c f.knot) 50 = .here i) (hgood : (knotOf (taintRestore p i s) i).poisoned = false) :
    startKnotWait c p x f eq s = waitHere c i (if eq then 0x43 else 0x42) f.mode.toNat v (taintRestore p i s) := by
  simp only [startKnotWait, hv, hroute, hgood, Bool.false_eq_true, if_false]

theorem startArrive_here {f : ArriveF} (hv : knotOperand x 16 f.gen.toNat f.mode f.reg f.step = some v)
    (hroute : knotRoute s p (shiftKnotOn s c f.knot) 50 = .here i) (hgood : (knotOf (taintRestore p i s) i).poisoned = false) :
    startArrive c p x f s = waitHere c i 0x44 f.mode.toNat v (onceEffect c
      (applyArrive i v p (coreSignaller (taintRestore p i s) c p)) (taintRestore p i s)) := by
  simp only [startArrive, hv, hroute, hgood, Bool.false_eq_true, if_false]

end

/-- Settles O23: each start comes down to a wait on the knot, and neither the taint of a restore knot nor an arrival that others
wait for touches the queues of its core. -/
theorem knotWaits : Obligations.KnotWaits := by
  intro c h s k i v hk
  refine ⟨?waits, ?arrive⟩
  case waits =>
    have hqs : ∀ op, (coreOf (taintRestore k.panel i (enqueued c h op s)) c).queues = (coreOf (enqueued c h op s) c).queues :=
      fun op => congrArg Core.queues (coreOf_congr (taintRestore_cores ..) c)
    simp only [List.forall_mem_cons]
    refine ⟨fun f hr hv hroute hgood => ?ge, fun f hr hv hroute hgood => ?eq, List.forall_mem_nil _⟩
    case ge =>
      exact wait_begins rfl rfl hr hk ((startWaitGe_knot hv).trans (startKnotWait_here (eq := false) hv hroute hgood)) (hqs _)
        (taintRestore_time ..)
    case eq =>
      exact wait_begins rfl rfl hr hk (startKnotWait_here (eq := true) hv hroute hgood) (hqs _) (taintRestore_time ..)
  case arrive =>
    intro f
    dsimp only
    intro hr hw hv hroute hgood
    have hw' : OthersWait (taintRestore k.panel i (enqueued c h (.karrive c h f) s)) c i := hw.congr (taintRestore_waiters ..)
    refine wait_begins rfl rfl hr hk (startArrive_here hv hroute hgood) ?_ rfl
    rw [queues_onceEffect fun t ht => by rw [coreOf_applyArrive (hw'.congr ht)], coreOf_congr (taintRestore_cores ..)]

end Sys2Proof.Machine
end
section
/-! SUPPORT. The operations of a spool (R205–R207). -/
namespace Sys2Proof.Machine

theorem waitMet_ge (k : Knot) (v : Nat) : waitMet k 0x42 v = true ↔ v ≤ k.value.toNat := by simp [waitMet]

section
variable {c p n y : Nat} {x : Core} {s : State}

/-- A wait on a valid spool that its core takes part in is a wait on the knot of the other side (R206). -/
theorem startSpoolWait_valid {space : Bool} (hok : spoolOk s p n = true)
    (hside : (if space then (spoolRec s p n).producer else (spoolRec s p n).consumer) = c)
    (hgood : (knotOf s (knotAt (if space then (spoolRec s p n).cKnot else (spoolRec s p n).pKnot))).poisoned = false) :
    startSpoolWait c p x n y space s = waitHere c
      (knotAt (if space then (spoolRec s p n).cKnot else (spoolRec s p n).pKnot)) 0x42 (if space then 2 else 3)
      (if space then sget 0 x.spoolP n + y - (spoolRec s p n).depth else sget 0 x.spoolC n + y) s := by
  simp only [startSpoolWait, hok, hside, hgood, ne_eq, not_true, Bool.not_true, Bool.false_eq_true, if_false]

/-- A spool wait goes on at once where the other side's count is there, and stands otherwise. -/
theorem spoolWait_begins {space : Bool} {h : OpHdr} {op : Instr} {k : Kernel} (he : exec op s = settle (dispatchOp c h op) s)
    (hq : queueOf op = 12) (hr : OpReady s c h op) (hk : kernelOnCore s c = some k)
    (hstart : startOp c k.panel (coreOf (enqueued c h op s) c) (entryOf s c h op) (enqueued c h op s) =
      startSpoolWait c k.panel (coreOf (enqueued c h op s) c) n y space (enqueued c h op s)) :
    let s1 := enqueued c h op s
    let r := spoolRec s1 k.panel n
    let i := knotAt (if space then r.cKnot else r.pKnot)
    let v := if space then sget 0 (coreOf s1 c).spoolP n + y - r.depth else sget 0 (coreOf s1 c).spoolC n + y
    spoolOk s1 k.panel n = true → (if space then r.producer else r.consumer) = c → (knotOf s1 i).poisoned = false →
      (v ≤ (knotOf s1 i).value.toNat → BeginsKnot s c op true s1) ∧
      ((knotOf s1 i).value.toNat < v → BeginsKnot s c op false
        { s1 with waiters := s1.waiters ++ [waiterOf c i 0x42 (if space then 2 else 3) v s.time] }) := by
  intro s1 r i v hok hside hgood
  obtain ⟨hmet, hstands⟩ := wait_begins (τ := s.time) he hq hr hk (hstart.trans (startSpoolWait_valid hok hside hgood)) rfl rfl
  exact ⟨fun hle => hmet ((waitMet_ge _ _).2 hle),
    fun hlt => hstands (Bool.eq_false_iff.2 fun h => Nat.not_le.2 hlt ((waitMet_ge _ _).1 h))⟩

end

/-! ### SCOMMIT and SRELEASE -/

theorem coreSignaller_updCore {c p : Nat} {f : Core → Core} {s : State} (hkid : (f (coreOf s c)).kid = (coreOf s c).kid) :
    coreSignaller (updCore c f s) c p = coreSignaller s c p := by
  have hkernel : kernelOnCore (updCore c f s) c = kernelOnCore s c :=
    kernelOnCore_congr (by rw [coreOf_updCore_self, hkid]) rfl
  simp only [coreSignaller, tagOnCore, hkernel]
  rfl

/-- Effects that agree on the state with the effect counted are the same effect made once. -/
theorem onceEffect_congr {c : Nat} {f g : State → State} {s : State}
    (h : f (updCore c (fun x => { x with replay := x.replay + 1 }) s) =
      g (updCore c (fun x => { x with replay := x.replay + 1 }) s)) :
    onceEffect c f s = onceEffect c g s := by
  simp only [onceEffect, h]

theorem markHigh_quiet {s t : State} (p n : Nat) (h : Quiet s t) : Quiet s (markHigh t p n) := by
  unfold markHigh
  exact Quiet.ite (storeBytes_quiet h) h

section
variable {c p n y : Nat} {s : State}

/-- The core once it has counted y more entries of spool n. -/
def committed (c n y : Nat) (s : State) : State :=
  updCore c (fun x => { x with spoolP := sset 0 x.spoolP n (sget 0 (coreOf s c).spoolP n + y) }) s

/-- A commit on a valid spool by its producer raises the count and, once, the producer's knot, and marks the high water (R206). -/
theorem startScommit_valid (hok : spoolOk s p n = true) (hside : (spoolRec s p n).producer = c)
    (hgood : (knotOf s (knotAt (spoolRec s p n).pKnot)).poisoned = false) :
    startScommit c p n y s = .started true (onceEffect c (fun u => markHigh (raiseKnot (knotAt (spoolRec s p n).pKnot)
      (sget 0 (coreOf s c).spoolP n + y) (coreSignaller (committed c n y s) c p) u) p n) (committed c n y s)) := by
  simp only [startScommit, hok, hside, hgood, ne_eq, not_true, Bool.not_true, Bool.false_eq_true, if_false]
  exact congrArg (Start.started true) (onceEffect_congr (by rw [coreSignaller_updCore rfl]; rfl))

/-- Where others of the module wait at most for the producer's knot, a commit leaves the queues of its core. -/
theorem queues_scommit {i P : Nat} {g : Signaller} (hw : OthersWait s c i) :
    (coreOf (onceEffect c (fun u => markHigh (raiseKnot i P g u) p n) (committed c n y s)) c).queues = (coreOf s c).queues := by
  rw [queues_onceEffect fun t ht => ?raised, committed, coreOf_updCore_self]
  case raised =>
    rw [markHigh_quiet p n (Quiet.refl _) c]
    exact congrArg Core.queues (coreOf_applyKset (hw.congr ht) _ _)

theorem startSrelease_valid (hok : spoolOk s p n = true) (hside : (spoolRec s p n).consumer = c) :
    startSrelease c p n y s = .started true (onceEffect c id (updCore c (fun x =>
      { x with spoolC := sset 0 x.spoolC n (sget 0 x.spoolC n + y) }) s)) := by
  simp only [startSrelease, hok, hside, ne_eq, not_true, Bool.not_true, Bool.false_eq_true, if_false]

end

/-- Settles O25: the waits come down to waits on the knot of the other side; a commit and a release count, and what a commit does to
the producer's knot leaves the queues of its core where others of the module wait at most. -/
theorem spoolOperations : Obligations.SpoolOperations := by
  intro c h n s k hk
  refine ⟨?waits, ?commit, ?release⟩
  case waits =>
    intro y
    simp only [List.forall_mem_cons]
    exact ⟨fun hr => spoolWait_begins (space := true) rfl rfl hr hk rfl,
      fun hr => spoolWait_begins (space := false) rfl rfl hr hk rfl, List.forall_mem_nil _⟩
  case commit =>
    intro y op s1 r P t hr hok hside hgood hw
    exact beginsKnot_of_start rfl hr hk rfl (startScommit_valid hok hside hgood) (queues_scommit (s := s1) (hw.congr rfl))
  case release =>
    intro y op s1 hr hok hside
    exact beginsKnot_of_start rfl hr hk rfl (startSrelease_valid hok hside)
      (startSrelease_quiet (Quiet.refl s1) _ _ (startSrelease_valid hok hside) c)

end Sys2Proof.Machine
end

section
/-! SUPPORT. Spool samples, waits that are sent again, and the watchdog of waits (R200, R201, R205). -/
namespace Sys2Proof.Machine

theorem doSpoolSample_valid {p n : Nat} {s : State} (hn : n < 64) (hopen : panelOpen s p = true) (hok : spoolOk s p n = true) :
    doSpoolSample p n s =
      let r := spoolRec s p n
      let occ := (knotOf s (knotAt r.pKnot)).value.toNat - (knotOf s (knotAt r.cKnot)).value.toNat
      let a := spoolAddr s p n
      storeBytes (a + 72) (toLe 8 (readNat s (a + 72) 8 + occ) ++ toLe 8 (readNat s (a + 80) 8 + 1)) (markHigh s p n) := by
  simp only [doSpoolSample, hopen, hok, Nat.not_le.2 hn, decide_false, Bool.not_true, Bool.or_self, Bool.false_eq_true,
    if_false]

/-- The wait of queue q of core c has expired once more, and event 0x2801 tells its panel. -/
def expiryPosted (c q : Nat) (w : WaitInfo) (k : Kernel) (n : Nat) (s : State) : State :=
  postPanel k.panel 0x2801 (coreBlock s c) (w.knot + 2 ^ 32 * w.opcode + 2 ^ 40 * w.mode + 2 ^ 42 * w.spool)
    (k.tag.toNat + 2 ^ 32 * n) (odCount 0x2807 4 1 (updQueue c q (fun y =>
      { y with entries := y.entries.modify w.pos fun e' => { e' with expiries := n } })
        (updCore c (fun x => { x with expiries := sset 0 x.expiries q n }) s)))

theorem exec_watchdogExpiry {c q : Nat} {k : Kernel} {s : State} (hs : Alive s) (hk : kernelOnCore s c = some k)
    (hquiesced : panelQuiesced s k.panel = false) : exec (.watchdogExpiry c q) s = .next (pumpColls (doWatchdog c q s)) := by
  refine (settle_next (watchdogDue c q) s hs).trans ?_
  simp only [watchdogDue, panelOnCore_of_kernel hk, hquiesced, Bool.false_eq_true, if_false]

section
variable {c q : Nat} {w : WaitInfo} {k : Kernel} {e : QEntry} {s : State} (hw : waitOf s c q = some w)
  (hk : kernelOnCore s c = some k) (he : (queueAt (coreOf s c) q).entries[w.pos]? = some e)
include hw hk he

/-- The watchdog of a wait posts the expiry of its entry, and in abort mode ends the wait's kernel. -/
theorem doWatchdog_wait : doWatchdog c q s = if odGet (expiryPosted c q w k (e.expiries + 1) s) 0x2800 1 = 0 then
    endParked k.kid (abortKernel k.kid 0x2801 (expiryPosted c q w k (e.expiries + 1) s))
    else expiryPosted c q w k (e.expiries + 1) s := by
  simp only [doWatchdog, hw, hk, he, Option.map_some, Option.getD_some]
  rfl

variable (hs : Alive s) (hquiesced : panelQuiesced s k.panel = false)
include hs hquiesced

theorem exec_watchdogExpiry_aborts (habort : odGet (expiryPosted c q w k (e.expiries + 1) s) 0x2800 1 = 0) :
    exec (.watchdogExpiry c q) s = .next (pumpColls (endParked k.kid (abortKernel k.kid 0x2801
      (expiryPosted c q w k (e.expiries + 1) s)))) := by
  rw [exec_watchdogExpiry hs hk hquiesced, doWatchdog_wait hw hk he, if_pos habort]

theorem exec_watchdogExpiry_reports (hreport : odGet (expiryPosted c q w k (e.expiries + 1) s) 0x2800 1 ≠ 0) :
    exec (.watchdogExpiry c q) s = .next (pumpColls (expiryPosted c q w k (e.expiries + 1) s)) := by
  rw [exec_watchdogExpiry hs hk hquiesced, doWatchdog_wait hw hk he, if_neg hreport]

end

/-- Settles O26: each command's checks are the statement's hypotheses. That abort mode ends the parked MOVEs of the kernel is the
model's reading of R201. -/
theorem waitsWatched : Obligations.WaitsWatched := by
  intro c q p n s hs
  refine ⟨fun hn hopen hok => ?sample, fun o ho hstill => ?retry, fun w k e hw hk _ hquiesced he => ?expiry⟩
  case sample => exact exec_alive rfl hs (doSpoolSample_valid hn hopen hok)
  case retry => exact exec_alive (f := doRemoteWaitRetry c) rfl hs (by simp only [doRemoteWaitRetry, ho, hstill, if_true])
  case expiry =>
    exact ⟨exec_watchdogExpiry_aborts hw hk he hs hquiesced, exec_watchdogExpiry_reports hw hk he hs hquiesced⟩

end Sys2Proof.Machine
end
section
/-! SUPPORT. Packets that a READY queue pair takes, and the remote knot operations among them (R195, R200, R276, R283, R284). -/
namespace Sys2Proof.Machine

/-! ### A packet that comes in -/

/-- Counting a packet on its link changes the links alone. -/
theorem linkCount_eq (l o n : Nat) (s : State) : linkCount l o n s = { s with links := (linkCount l o n s).links } := by
  unfold linkCount
  split <;> rfl

theorem packetSeen_eq (p : Packet) (s : State) : packetSeen p s = { s with links := (packetSeen p s).links } := by
  unfold packetSeen
  rw [linkCount_eq, linkCount_eq]

theorem arrive_good {s : State} {p : Packet} (h : PacketGood s p) (f : State → State) : arrive p f s = f (packetSeen p s) := by
  obtain ⟨hl, hup, heth, hintact, hheader⟩ := h
  have hnative : ∀ n, native (linkCount p.link 144 n s) = native s := fun n => by rw [linkCount_eq]; rfl
  have hblocked : (!native s && !(p.hdr.cls == 3) && ethBlocked s p.hdr.srcFab.toNat) = false := by
    cases hn : native s with
    | true => rfl
    | false =>
      by_cases hc : p.hdr.cls = 3
      · simp [hc]
      · simp [heth hn hc]
  have hwhole : (native s && !p.intact) = false := by
    cases hn : native s with
    | true => simp [hintact hn]
    | false => rfl
  simp only [arrive, hup, hblocked, hnative, hwhole, hheader, Nat.not_le.2 hl, decide_false, Bool.not_true, Bool.or_self,
    Bool.false_eq_true, if_false]
  rfl

section
variable {s : State} {control : Bool} {pkt : Packet} {b : Bytes} (hn : PacketNew s control pkt b)
include hn

/-- In D0, a good packet from a powered link has its effect once it is counted. -/
theorem exec_newPacket {i : Instr} {f : State → State} (he : exec i s = settle (packetIn pkt f) s) :
    exec i s = .next (pumpColls (f (packetSeen pkt s))) := by
  obtain ⟨⟨hs, -, hd0⟩, hlinks, hgood, -⟩ := hn
  have hawake : wakeD1 (packetSeen pkt s) = packetSeen pkt s := by
    rw [wakeD1, if_neg]
    rw [packetSeen_eq]
    simp [hd0]
  rw [he, settle_next _ _ hs]
  simp only [packetIn, onLinks, hlinks, if_true, arrive_good hgood, hawake, ite_self]

/-- The queue pair takes it: its payload is handled with the context used last. -/
theorem receive_new (f : Nat → Qp → Bytes → State → State) : receive control pkt f (packetSeen pkt s) =
    f pkt.hdr.dstQp.toNat (qpOf (met pkt s) pkt.hdr.dstQp.toNat) b (met pkt s) := by
  obtain ⟨⟨-, -, hd0⟩, -, -, hfab, hready, hcontrol, hremFab, hremQp, hcached, hopen, hfate⟩ := hn
  have hqp : ∀ q, qpOf (packetSeen pkt s) q = qpOf s q := fun q => by rw [packetSeen_eq]; rfl
  have hfab' : fabricId (packetSeen pkt s) = fabricId s := by rw [packetSeen_eq]; rfl
  have hd : (packetSeen pkt s).startup.dstate = 0 := by rw [packetSeen_eq]; exact hd0
  have hopen' : ∀ x, openPkt (packetSeen pkt s) x pkt = openPkt s x pkt := fun x => by rw [packetSeen_eq]; rfl
  simp only [receive, hqp, hfab', hfab, hready, hcontrol, hd, hremFab, hremQp, hcached, hopen', hopen, hfate, ne_eq, not_true,
    decide_false, Bool.or_self, Bool.not_true, Bool.false_eq_true, if_false, reduceCtorEq]
  rfl

end

section
variable {s : State} {pkt : Packet} {b : Bytes} (hn : PacketNew s true pkt b)
include hn

theorem exec_newKnot (hop : pkt.hdr.op = 0x04) : exec (.knot pkt) s = .next (pumpColls (afterPkt pkt.hdr.dstQp.toNat
    (newKnot pkt pkt.hdr.dstQp.toNat (qpOf (met pkt s) pkt.hdr.dstQp.toNat) b (met pkt s)))) := by
  rw [exec_newPacket hn rfl, doKnot, if_neg fun hne => hne hop, receive_new hn]

theorem exec_newWake (hop : pkt.hdr.op = 0x05) : exec (.wake pkt) s = .next (pumpColls (afterPkt pkt.hdr.dstQp.toNat
    (newWake pkt pkt.hdr.dstQp.toNat (qpOf (met pkt s) pkt.hdr.dstQp.toNat) b (met pkt s)))) := by
  rw [exec_newPacket hn rfl, doWake, if_neg fun hne => hne hop, receive_new hn]

end

/-! ### KNOT -/

/-- The count of message m is one of the next 2³¹ − 1 after the last that queue pair x applied for its core (R284). -/
def CountsNew (x : Qp) (m : KnotMsg) : Prop :=
  let d := (m.count - BitVec.ofNat 32 (sget 0 x.counts m.core)).toNat
  d ≠ 0 ∧ d < 2 ^ 31

/-- Who signals a knot with message m of a packet. -/
def remoteSigner (pkt : Packet) (m : KnotMsg) : Signaller := ⟨pkt.hdr.srcFab.toNat, m.core, m.tag, 16⟩

section
variable {pkt : Packet} {q : Nat} {x : Qp} {b : Bytes} {m : KnotMsg} {s : State} (hm : knotMsg b = m) (hlen : b.length = 32)
  (hnew : CountsNew x m)
include hm hlen hnew

/-! A KNOT packet of 32 bytes and of a new count, on a knot that the queue pair's panel does not own. -/

section
variable (hok : remoteKnotOk s x.owner m.addr = false)
include hok

theorem newKnot_refused (hop : m.op = 0x40 ∨ m.op = 0x41) :
    newKnot pkt q x b s = sendNak q 5 pkt.hdr.psn (storeKnot q pkt m s) := by
  obtain ⟨hd0, hd⟩ := hnew
  rcases hop with h | h <;> simp [-BitVec.toNat_sub, -Nat.reducePow, newKnot, hm, hlen, h, hd0, Nat.not_le.2 hd, hok]

theorem newKnot_refusedWait (hop : m.op = 0x42 ∨ m.op = 0x43 ∨ m.op = 0x44) :
    newKnot pkt q x b s = sendWake q m.addr.toNat 2 m.core m.count.toNat (takeKnot q pkt m s) := by
  obtain ⟨hd0, hd⟩ := hnew
  rcases hop with h | h | h <;> simp [-BitVec.toNat_sub, -Nat.reducePow, newKnot, hm, hlen, h, hd0, Nat.not_le.2 hd, hok]

end

/-! On one that it owns and that holds good data. -/

variable (hok : remoteKnotOk s x.owner m.addr = true) (hgood : (knotOf s (knotAt m.addr)).poisoned = false)
include hok hgood

theorem newKnot_add (hop : m.op = 0x40) :
    newKnot pkt q x b s = applyRemote false (knotAt m.addr) m.value (remoteSigner pkt m) (takeKnot q pkt m s) := by
  obtain ⟨hd0, hd⟩ := hnew
  simp [-BitVec.toNat_sub, -Nat.reducePow, newKnot, hm, hlen, hop, hd0, Nat.not_le.2 hd, hok, hgood, remoteSigner]

theorem newKnot_set (hop : m.op = 0x41) :
    newKnot pkt q x b s = applyRemote true (knotAt m.addr) m.value (remoteSigner pkt m) (takeKnot q pkt m s) := by
  obtain ⟨hd0, hd⟩ := hnew
  simp [-BitVec.toNat_sub, -Nat.reducePow, newKnot, hm, hlen, hop, hd0, Nat.not_le.2 hd, hok, hgood, remoteSigner]

theorem newKnot_full (hop : m.op = 0x42 ∨ m.op = 0x43) (hfull : recordsFull s (knotAt m.addr) = true) :
    newKnot pkt q x b s = sendNak q 6 pkt.hdr.psn s := by
  obtain ⟨hd0, hd⟩ := hnew
  rcases hop with h | h <;>
    simp [-BitVec.toNat_sub, -Nat.reducePow, newKnot, hm, hlen, h, hd0, Nat.not_le.2 hd, hok, hgood, hfull]

theorem newKnot_wait (hop : m.op = 0x42 ∨ m.op = 0x43) (hroom : recordsFull s (knotAt m.addr) = false) :
    newKnot pkt q x b s = remoteWait q pkt.hdr.srcFab.toNat m (odCount 0x2807 2 1 (takeKnot q pkt m s)) := by
  obtain ⟨hd0, hd⟩ := hnew
  rcases hop with h | h <;>
    simp [-BitVec.toNat_sub, -Nat.reducePow, newKnot, hm, hlen, h, hd0, Nat.not_le.2 hd, hok, hgood, hroom]

theorem newKnot_arrive (hop : m.op = 0x44) (hroom : recordsFull s (knotAt m.addr) = false) :
    newKnot pkt q x b s = remoteWait q pkt.hdr.srcFab.toNat m (odCount 0x2807 2 1
      (applyArrive (knotAt m.addr) (m.value % 2 ^ 16) x.owner (remoteSigner pkt m) (takeKnot q pkt m s))) := by
  obtain ⟨hd0, hd⟩ := hnew
  simp [-BitVec.toNat_sub, -Nat.reducePow, newKnot, hm, hlen, hop, hd0, Nat.not_le.2 hd, hok, hgood, hroom, remoteSigner]

end

/-! ### WAKE -/

/-- A WAKE of result 0 ends the wait of the core that it names, where that core waits for this answer (R200). -/
theorem newWake_satisfied {pkt : Packet} {q : Nat} {x : Qp} {b : Bytes} {s : State} (hresult : fieldNat b 4 1 = 0)
    (hc : fieldNat b 12 1 < 128) (howner : ownerOfCore (noteAck q (takePsn q pkt.hdr.psn s)) (fieldNat b 12 1) = some x.owner)
    (hwaits : (coreOf (noteAck q (takePsn q pkt.hdr.psn s)) (fieldNat b 12 1)).remoteWait.isSome = true)
    (hcount : sget 0 (coreOf (noteAck q (takePsn q pkt.hdr.psn s)) (fieldNat b 12 1)).remote q = fieldNat b 16 4) :
    newWake pkt q x b s = endRemoteWait (fieldNat b 12 1) (noteAck q (takePsn q pkt.hdr.psn s)) := by
  simp [newWake, hresult, hc, howner, hwaits, hcount]

/-- Settles O43: the packet is taken as new, and its operation, its knot and the room for one more record say what it comes to. -/
theorem remoteKnots : Obligations.RemoteKnots := by
  intro s pkt b hn q t x m i u d g
  refine ⟨fun hop hlen hd0 hd => ?knot, fun hop hresult => ?wake⟩
  case knot =>
    have hnew : CountsNew x m := ⟨hd0, hd⟩
    rw [exec_newKnot hn hop]
    refine ⟨fun hok => ⟨fun h => ?refused, fun h => ?refusedWait⟩,
      fun hok hgood => ⟨fun h => ?add, fun h => ?set, fun h => ⟨fun hfull => ?full, fun hroom => ?wait⟩,
        fun h hroom => ?arrive⟩⟩
    case refused => rw [newKnot_refused rfl hlen hnew hok h]
    case refusedWait => rw [newKnot_refusedWait rfl hlen hnew hok h]
    case add => rw [newKnot_add rfl hlen hnew hok hgood h]; rfl
    case set => rw [newKnot_set rfl hlen hnew hok hgood h]; rfl
    case full => rw [newKnot_full rfl hlen hnew hok hgood h hfull]
    case wait => rw [newKnot_wait rfl hlen hnew hok hgood h hroom]
    case arrive => rw [newKnot_arrive rfl hlen hnew hok hgood h hroom]; rfl
  case wake =>
    intro c v hc howner hwaits hcount
    rw [exec_newWake hn hop, newWake_satisfied hresult hc howner hwaits hcount]

end Sys2Proof.Machine
end
section
/-! SUPPORT. What a packet that leaves the device, an event or a write into host memory leaves alone: the cores and the queue pairs
(R253, R293, R306, R308, R393). -/
namespace Sys2Proof.Machine

/-! ### Writes into host memory and stores -/

/-- What a write into host memory or device memory leaves alone. -/
def wiring (s : State) : Sparse Core × Sparse Qp × Sparse Panel × Sparse (Option Nat) := (s.cores, s.qps, s.panels, s.od)

@[simp] theorem wiring_updPort (h : Nat) (f : Port → Port) (s : State) : wiring (updPort h f s) = wiring s := rfl

@[simp] theorem wiring_portCount (h o n : Nat) (s : State) : wiring (portCount h o n s) = wiring s := by
  unfold portCount
  split <;> rfl

@[simp] theorem wiring_portSend (h : Nat) (x : HostOut) (s : State) : wiring (portSend h x s) = wiring s := by
  unfold portSend
  extract_lets n
  split <;> simp

@[simp] theorem wiring_taintStale (h w i e : Nat) (s : State) : wiring (taintStale h w i e s) = wiring s := by
  unfold taintStale
  split
  · split <;> rfl
  · rfl

@[simp] theorem wiring_translate (h w x : Nat) (s : State) : wiring (translate h w x s).2 = wiring s := by
  unfold translate
  extract_lets b i t a e
  have ht : wiring t = wiring s := wiring_portCount ..
  split
  · exact wiring_taintStale ..
  · split
    · exact ht
    · split
      · exact ht
      · repeat' split
        all_goals exact ht

theorem wiring_of_outWrite {h w a : Nat} {d : Bytes} {s t : State} {b : Bool} (ht : outWrite h w a d s = (b, t)) :
    wiring t = wiring s := by
  have hout : wiring (outWrite h w a d s).2 = wiring s := by
    unfold outWrite
    split
    · rfl
    · split
      · rfl
      · have hbus := wiring_translate h w (windowOf a).2.2 s
        split
        next heq => exact (wiring_portSend ..).trans (by rwa [heq] at hbus)
        next heq => rwa [heq] at hbus
  rwa [ht] at hout

theorem wiring_keepLine (u : Nat) (s : State) : wiring (keepLine u s) = wiring s := by
  unfold keepLine
  split <;> rfl

theorem wiring_rekeyLines (a n : Nat) (s : State) : wiring (rekeyLines a n s) = wiring s := by
  unfold rekeyLines
  split
  · rfl
  · exact (wiring_keepLine ..).trans (wiring_keepLine ..)

theorem wiring_raiseCounters (a n : Nat) (s : State) : wiring (raiseCounters a n s) = wiring s := by
  unfold raiseCounters
  split
  · rfl
  · split
    · rfl
    · exact List.foldlRecOn (motive := fun t => wiring t = wiring s) _ _ rfl fun _ ht _ _ => ht

theorem wiring_storeBytes (a : Nat) (b : Bytes) (s : State) : wiring (storeBytes a b s) = wiring s := by
  unfold storeBytes
  split
  · rfl
  · exact (wiring_raiseCounters ..).trans (wiring_rekeyLines ..)

/-! ### Events -/

/-- What events and packets leave alone. -/
def nodes (s : State) : Sparse Core × Sparse Qp := (s.cores, s.qps)

theorem nodes_of_wiring {s t : State} (h : wiring t = wiring s) : nodes t = nodes s :=
  congrArg (fun w => (w.1, w.2.1)) h

@[simp] theorem nodes_updPanel (p : Nat) (f : Panel → Panel) (s : State) : nodes (updPanel p f s) = nodes s := rfl

@[simp] theorem nodes_updSlot (h w : Nat) (f : SlotBlk → SlotBlk) (s : State) : nodes (updSlot h w f s) = nodes s := rfl

@[simp] theorem nodes_odCount (i k n : Nat) (s : State) : nodes (odCount i k n s) = nodes s := by
  unfold odCount
  split <;> rfl

@[simp] theorem nodes_msgCount (p sub n : Nat) (s : State) : nodes (msgCount p sub n s) = nodes s := by
  unfold msgCount
  split <;> simp

theorem nodes_raiseVector (h : Nat) (v : Word16) (s : State) : nodes (raiseVector h v s) = nodes s := by
  have hsent : nodes (portSend h (.msix v) s) = nodes s := nodes_of_wiring (wiring_portSend ..)
  unfold raiseVector
  extract_lets t
  split
  · split <;> rfl
  · split <;> exact hsent

theorem nodes_writeProducer (p h w : Nat) (s : State) : nodes (writeProducer p h w s) = nodes s := by
  unfold writeProducer
  extract_lets x b
  split
  next heq => exact (nodes_updPanel ..).trans (nodes_of_wiring (wiring_of_outWrite heq))
  next heq =>
    exact (nodes_raiseVector ..).trans ((nodes_updSlot ..).trans (nodes_of_wiring (wiring_of_outWrite heq)))

theorem nodes_flushEvents (p fuel : Nat) (s : State) : nodes (flushEvents p fuel s) = nodes s := by
  induction fuel generalizing s with
  | zero => rfl
  | succ fuel ih =>
    unfold flushEvents
    split
    · rfl
    · split
      · extract_lets b k
        split
        · split
          next heq => exact (nodes_updPanel ..).trans (nodes_of_wiring (wiring_of_outWrite heq))
          next heq =>
            exact (ih _).trans ((nodes_writeProducer ..).trans ((nodes_updPanel ..).trans
              (nodes_of_wiring (wiring_of_outWrite heq))))
        · rfl
      · split
        · rfl
        · exact nodes_writeProducer ..
      · rfl

theorem nodes_postPanel (p code src a b : Nat) (s : State) : nodes (postPanel p code src a b s) = nodes s := by
  unfold postPanel postPanelEvent
  split
  · exact nodes_flushEvents ..
  · rfl

theorem nodes_mgmtSend (op : Byte) (body : Bytes) (s : State) : nodes (mgmtSend op body s) = nodes s := by
  unfold mgmtSend
  split
  · rfl
  · split
    · exact nodes_odCount ..
    · rfl

theorem nodes_flushMgmt (fuel : Nat) (s : State) : nodes (flushMgmt fuel s) = nodes s := by
  induction fuel generalizing s with
  | zero => rfl
  | succ fuel ih =>
    unfold flushMgmt
    split
    · rfl
    · split
      · refine (ih _).trans ?_
        unfold sendEventFrame
        split
        · exact (nodes_odCount ..).trans (nodes_mgmtSend ..)
        · rfl
      · rfl

theorem nodes_postMgmt (panel code src a b : Nat) (s : State) : nodes (postMgmt panel code src a b s) = nodes s := by
  unfold postMgmt postMgmtEvent
  split
  · exact nodes_flushMgmt ..
  · exact nodes_odCount ..

/-! ### Links -/

@[simp] theorem nodes_linkCount (l o n : Nat) (s : State) : nodes (linkCount l o n s) = nodes s := by
  unfold linkCount
  split <;> rfl

@[simp] theorem nodes_sendNumbered (l : Nat) (f : Flit) (s : State) : nodes (sendNumbered l f s) = nodes s :=
  nodes_linkCount ..

@[simp] theorem nodes_sentWhole (l : Nat) (ends : List LinkWait) (s : State) : nodes (sentWhole l ends s) = nodes s :=
  nodes_linkCount ..

theorem nodes_sendStream (l : Nat) (key : Nat × Nat × Nat) (s : State) : nodes (sendStream l key s) = nodes s :=
  (nodes_sentWhole ..).trans (nodes_sendNumbered ..)

theorem nodes_sendFrame (l : Nat) (w : LinkWait) (s : State) : nodes (sendFrame l w s) = nodes s :=
  (nodes_sentWhole ..).trans (nodes_linkCount ..)

theorem nodes_noteWait (l : Nat) (held : Bool) (s : State) : nodes (noteWait l held s) = nodes s := by
  unfold noteWait
  split
  · rfl
  · exact nodes_linkCount ..
  · rfl

theorem nodes_drainLink (l fuel : Nat) (s : State) : nodes (drainLink l fuel s) = nodes s := by
  induction fuel generalizing s with
  | zero => rfl
  | succ fuel ih =>
    unfold drainLink
    extract_lets x
    split
    · exact nodes_noteWait ..
    · split
      · exact (ih _).trans (nodes_sendFrame ..)
      · split
        · exact (ih _).trans (nodes_sendStream ..)
        · rfl

theorem nodes_drainCtl (l fuel : Nat) (s : State) : nodes (drainCtl l fuel s) = nodes s := by
  induction fuel generalizing s with
  | zero => rfl
  | succ fuel ih =>
    unfold drainCtl
    split
    · rfl
    · split
      · exact (ih _).trans (nodes_sendNumbered ..)
      · rfl

theorem nodes_queueOn (l : Nat) (p : Packet) (vc sub src : Nat) (s : State) : nodes (queueOn l p vc sub src s) = nodes s := by
  unfold queueOn pumpLink
  split
  · rfl
  · exact (nodes_drainLink ..).trans (nodes_drainCtl ..)

/-! ### A packet of this device -/

theorem nodes_postNoPath (src dst : Nat) (s : State) : nodes (postNoPath src dst s) = nodes s := by
  unfold postNoPath
  split
  · rfl
  · refine List.foldlRecOn (motive := fun t => nodes t = nodes s) _ _ (nodes_postMgmt ..) fun t ht p _ => ?_
    exact (nodes_postPanel ..).trans ht

theorem nodes_sendOrdered (vc t : Nat) (arrived : Option Nat) (p : Packet) (s : State) :
    nodes (sendOrdered vc t arrived p s) = nodes s := by
  unfold sendOrdered
  extract_lets own dst mgmt dir
  split
  · split
    · exact nodes_postNoPath ..
    · rfl
  · split
    · rfl
    · exact (nodes_queueOn ..).trans (nodes_odCount ..)

theorem nodes_sendSprayed (t : Nat) (p : Packet) (s : State) : nodes (sendSprayed t p s) = nodes s := by
  unfold sendSprayed
  split
  · exact nodes_queueOn ..
  · rfl

theorem nodes_netSend (core : Nat) (p : Packet) (s : State) : nodes (netSend core p s) = nodes s := by
  unfold netSend
  extract_lets cls t ups
  split
  · split
    · exact nodes_sendSprayed ..
    · exact nodes_sendOrdered ..
  · split
    · split
      · rfl
      · exact nodes_postNoPath ..
    · exact nodes_queueOn ..

end Sys2Proof.Machine
end
section
/-! SUPPORT. Knot operations on a knot of another device, which leave on a CONTROL queue pair (R192, R200, R237, R282, R283). -/
namespace Sys2Proof.Machine

/-! ### The context cache -/

/-- From s to t contexts came into the cache or left it: beyond their marks of that, the queue pairs, the cores, the panels and their
kinds are the same. -/
structure CacheOnly (s t : State) : Prop where
  cores : t.cores = s.cores
  panels : t.panels = s.panels
  secure : ∀ p, secure t p = secure s p
  qps : ∀ q, qpOf t q =
    { qpOf s q with cached := (qpOf t q).cached, restoring := (qpOf t q).restoring, saved := (qpOf t q).saved }

theorem CacheOnly.trans {s t u : State} (h : CacheOnly s t) (k : CacheOnly t u) : CacheOnly s u where
  cores := k.cores.trans h.cores
  panels := k.panels.trans h.panels
  secure p := (k.secure p).trans (h.secure p)
  qps q := by
    rw [k.qps q, h.qps q]

theorem CacheOnly.of_wiring {s t : State} (h : wiring t = wiring s) : CacheOnly s t := by
  obtain ⟨hcores, hqps, hpanels, hod⟩ : t.cores = s.cores ∧ t.qps = s.qps ∧ t.panels = s.panels ∧ t.od = s.od := by
    simpa [wiring] using h
  refine ⟨hcores, hpanels, fun p => ?_, fun q => ?_⟩
  · simp only [Machine.secure, panelKind, odGet, hod]
  · have hq : qpOf t q = qpOf s q := by rw [qpOf, qpOf, hqps]
    rw [hq]

theorem qpOf_updQp_ne {q q' : Nat} (f : Qp → Qp) (s : State) (h : q' ≠ q) : qpOf (updQp q f s) q' = qpOf s q' :=
  sget_sset_ne _ s.qps q q' _ h

/-- A mark on one context. -/
theorem CacheOnly.updQp {q : Nat} {f : Qp → Qp} {s t : State} (h : CacheOnly s t)
    (hf : ∀ x, f x = { x with cached := (f x).cached, restoring := (f x).restoring, saved := (f x).saved }) :
    CacheOnly s (updQp q f t) :=
  h.trans ⟨rfl, rfl, fun _ => rfl, fun q' => by
    by_cases hq : q' = q
    · subst hq
      rw [qpOf_updQp_self]
      exact hf _
    · rw [qpOf_updQp_ne f t hq]⟩

theorem qpOf_of_nodes {s t : State} (h : nodes t = nodes s) (q : Nat) : qpOf t q = qpOf s q := by
  rw [qpOf, qpOf, show t.qps = s.qps from congrArg Prod.snd h]

theorem cacheOnly_msgCount (p n : Nat) (s : State) : CacheOnly s (msgCount p 7 n s) := by
  unfold msgCount
  split
  · exact .of_wiring rfl
  · exact ⟨odCount_cores .., odCount_panels .., fun p => secure_odCount (by decide) (by decide) n p s,
      fun q => by rw [qpOf_of_nodes (nodes_odCount ..)]⟩

theorem cacheOnly_evictQp (q : Nat) (s : State) : CacheOnly s (evictQp q s) := by
  unfold evictQp
  extract_lets x p
  split
  next b t hb =>
    have ht : CacheOnly s t := by
      obtain ⟨-, rfl⟩ := Prod.mk.inj hb
      exact .of_wiring rfl
    extract_lets ctx v w
    have hv : CacheOnly s v := by
      refine CacheOnly.updQp ?_ fun _ => rfl
      exact ht.trans (.of_wiring rfl)
    have hw : CacheOnly s w := hv.trans (cacheOnly_msgCount ..)
    split
    · exact hw.trans (.of_wiring (wiring_storeBytes ..))
    · exact hw.trans (.of_wiring (wiring_of_outWrite rfl))

theorem cacheOnly_touchQp (q : Nat) (s : State) : CacheOnly s (touchQp q s) := by
  unfold touchQp
  split
  · exact .of_wiring rfl
  · split
    · exact .of_wiring rfl
    next t ht =>
      have hroom : CacheOnly s t := by
        unfold cacheRoom at ht
        split at ht
        · obtain rfl := Option.some.inj ht
          exact .of_wiring rfl
        · obtain ⟨e, -, rfl⟩ := Option.map_eq_some_iff.1 ht
          exact cacheOnly_evictQp e s
      refine CacheOnly.updQp ?_ fun _ => rfl
      exact hroom.trans (.of_wiring rfl)

/-! ### One packet -/

theorem pumpQp_none {q : Nat} {s : State} (h : (qpOf s q).waiting = []) (fuel : Nat) : pumpQp q fuel s = s := by
  cases fuel with
  | zero => rfl
  | succ fuel => simp only [pumpQp, h]

/-- Queue pair q can number one more packet: its panel is not secure, or its key slot has packet numbers left (R237). -/
def SealsOne (s : State) (q : Nat) : Prop :=
  secure s (qpOf s q).owner = false ∨ (sget {} (panelOf s (qpOf s q).owner).keys (qpOf s q).keySlot).packet < 2 ^ 48

theorem sealPkt_some {q : Nat} {s : State} (h : SealsOne s q) (pkt : Packet) :
    ∃ pkt' t, sealPkt q pkt s = some (pkt', t) ∧ nodes t = nodes s := by
  unfold sealPkt
  extract_lets x P k
  split
  · exact ⟨_, _, rfl, rfl⟩
  next hsecure =>
    have hleft : ¬2 ^ 48 ≤ k.packet := Nat.not_le.2 (h.resolve_left (by simpa using hsecure))
    rw [if_neg hleft]
    exact ⟨_, _, rfl, rfl⟩

/-- A queue pair with one packet waiting that it can number sends it, or keeps it waiting, and touches no core. -/
theorem pumpQp_one {q : Nat} {o : OutPkt} {s : State} (hw : (qpOf s q).waiting = [o]) (hk : SealsOne s q) (fuel : Nat) :
    (pumpQp q fuel s).cores = s.cores := by
  cases fuel with
  | zero => rfl
  | succ fuel =>
    simp only [pumpQp, hw]
    split
    · rfl
    · obtain ⟨pkt', t, hseal, ht⟩ := sealPkt_some hk { o.pkt with hdr := { o.pkt.hdr with psn := (qpOf s q).sendPsn } }
      simp only [hseal]
      have hsent : ∀ n (u : State), nodes (msgCount n 1 1 (netSend o.src pkt' u)) = nodes u := fun n u =>
        (nodes_msgCount ..).trans (nodes_netSend ..)
      rw [pumpQp_none (by rw [qpOf_of_nodes (hsent ..), qpOf_updQp_self])]
      exact (congrArg Prod.fst (hsent ..)).trans (congrArg Prod.fst ht)

theorem SealsOne.congr {q : Nat} {s t : State} (h : SealsOne s q) (hsecure : ∀ p, secure t p = secure s p)
    (hpanels : t.panels = s.panels) (howner : (qpOf t q).owner = (qpOf s q).owner)
    (hslot : (qpOf t q).keySlot = (qpOf s q).keySlot) : SealsOne t q := by
  unfold SealsOne
  rwa [hsecure, howner, hslot, panelOf, hpanels]

/-- A packet handed to a queue pair where nothing waits and that can number it touches no core. -/
theorem cores_qpSend {q : Nat} {s : State} (hw : (qpOf s q).waiting = []) (hk : SealsOne s q) (o : OutPkt) :
    (qpSend q o s).cores = s.cores := by
  have hself : qpOf (updQp q (fun x => { x with waiting := x.waiting ++ [o] }) s) q = { qpOf s q with waiting := [o] } := by
    rw [qpOf_updQp_self, hw]
    rfl
  obtain ⟨hcores, hpanels, hsecure, hqps⟩ := cacheOnly_touchQp q (updQp q (fun x => { x with waiting := x.waiting ++ [o] }) s)
  have hq := (hqps q).trans (by rw [hself])
  rw [qpSend, pumpQp_one (o := o) (by rw [hq]) (hk.congr hsecure hpanels (by rw [hq]) (by rw [hq]))]
  exact hcores

/-! ### Knot operations -/

section
variable {c q a op v : Nat} {s : State} (hw : (qpOf s q).waiting = []) (hk : SealsOne s q)
include hw hk

/-- An operation that leaves for its owner's device is counted in its core, whose queues stay. -/
theorem queues_remoteOp : (coreOf (remoteOp q c a op v s) c).queues = (coreOf s c).queues := by
  unfold remoteOp sendKnot
  rw [coreOf_congr (cores_qpSend (by exact hw) (by exact hk) _), coreOf_updCore_self]

theorem queues_remoteWait :
    (coreOf (updCore c (fun x => { x with remoteWait := some 2 }) (remoteOp q c a op v s)) c).queues = (coreOf s c).queues := by
  rw [coreOf_updCore_self]
  exact queues_remoteOp hw hk

end

section
variable {c p q v : Nat} {x : Core} {s : State}

theorem startKnotOp_away {f : KnotF} {set : Bool} (hv : knotOperand x 48 f.value.toNat f.mode f.reg f.step = some v)
    (hroute : knotRoute s p (shiftKnotOn s c f.knot) (if set then 49 else 48) = .away q) :
    startKnotOp c p x f set s =
      .started true (remoteOp q c (shiftKnotOn s c f.knot).toNat (if set then 0x41 else 0x40) v s) := by
  simp only [startKnotOp, hv, hroute]

theorem startKnotWait_away {f : KnotF} {eq : Bool} (hv : knotOperand x 48 f.value.toNat f.mode f.reg f.step = some v)
    (hroute : knotRoute s p (shiftKnotOn s c f.knot) 50 = .away q) :
    startKnotWait c p x f eq s = .started false (updCore c (fun x => { x with remoteWait := some 2 })
      (remoteOp q c (shiftKnotOn s c f.knot).toNat (if eq then 0x43 else 0x42) v s)) := by
  simp only [startKnotWait, hv, hroute]

theorem startArrive_away {f : ArriveF} (hv : knotOperand x 16 f.gen.toNat f.mode f.reg f.step = some v)
    (hroute : knotRoute s p (shiftKnotOn s c f.knot) 50 = .away q) :
    startArrive c p x f s = .started false (updCore c (fun x => { x with remoteWait := some 2 })
      (remoteOp q c (shiftKnotOn s c f.knot).toNat 0x44 v s)) := by
  simp only [startArrive, hv, hroute]

end

/-- Settles O24: each start sends one packet, and a queue pair that can number it touches no core in sending it, whichever context
leaves the cache for it. -/
theorem knotOperationsAway : Obligations.KnotOperationsAway := by
  intro c h s k q v hk hw _ _ _ hseals
  refine ⟨fun f => ?ops, fun f => ?waits, fun f => ?arrive⟩
  case ops =>
    simp only [List.forall_mem_cons]
    exact ⟨fun hr hv hroute => beginsKnot_of_start rfl hr hk rfl (startKnotOp_away (set := false) hv hroute)
        (queues_remoteOp (s := enqueued c h _ s) hw hseals),
      fun hr hv hroute => beginsKnot_of_start rfl hr hk rfl (startKnotOp_away (set := true) hv hroute)
        (queues_remoteOp (s := enqueued c h _ s) hw hseals), List.forall_mem_nil _⟩
  case waits =>
    simp only [List.forall_mem_cons]
    exact ⟨fun hr hv hroute => beginsKnot_of_start rfl hr hk rfl
        ((startWaitGe_knot hv).trans (startKnotWait_away (eq := false) hv hroute))
        (queues_remoteWait (s := enqueued c h _ s) hw hseals),
      fun hr hv hroute => beginsKnot_of_start rfl hr hk rfl (startKnotWait_away (eq := true) hv hroute)
        (queues_remoteWait (s := enqueued c h _ s) hw hseals), List.forall_mem_nil _⟩
  case arrive =>
    intro op s1 a hr hv hroute
    exact beginsKnot_of_start rfl hr hk rfl (startArrive_away hv hroute) (queues_remoteWait (s := s1) hw hseals)

end Sys2Proof.Machine
end

section
/-! SUPPORT. The seam's deposits, and the timeout and release of its slots (R228–R232). -/
namespace Sys2Proof.Machine

/-! ### Deposits -/

section
variable {p : Nat} {s : State} {b : Bytes} {d : DepositRec} (hd : depositRec b = d)
include hd

theorem takeDeposit_duplicate (hdup : isDuplicate s p d b = true) :
    takeDeposit p b s = showResult p 2 d.slot d.step d.tag 0 s := by
  subst hd
  simp only [takeDeposit, hdup, if_true]

theorem takeDeposit_refused {cause : Nat} (hnew : isDuplicate s p d b = false) (hcause : depositCause s p d = some cause) :
    takeDeposit p b s = postPanel p 0x3004 seamBlock (d.slot + 2 ^ 16 * d.tag.toNat) (d.step.toNat + 2 ^ 32 * cause)
      (odCount 0x3002 4 1 (showResult p 3 d.slot d.step d.tag cause s)) := by
  subst hd
  simp only [takeDeposit, hnew, hcause, Bool.false_eq_true, if_false]

theorem takeDeposit_accepted (hnew : isDuplicate s p d b = false) (hcause : depositCause s p d = none) :
    takeDeposit p b s = if d.kind = 4 then
        showResult p 1 d.slot d.step d.tag 0 (updSeamSlot d.slot (fun x => { last := x.last }) s)
      else acceptDeposit p ((panelOf s p).seamIdx.getD 0) d b s := by
  subst hd
  simp only [takeDeposit, hnew, hcause, Bool.false_eq_true, if_false]

end

/-- The seam once it has taken record e from its doorbell. -/
def unboxed (e : Nat × Bytes) (s : State) : State := { s with seam := { s.seam with inbox := s.seam.inbox.erase e } }

/-- The command of a record's kind takes the oldest record of the panel's doorbell. -/
theorem doDeposit_oldest {p kind : Nat} {s : State} {e : Nat × Bytes} (hbox : s.seam.inbox.find? (·.1 == p) = some e)
    (hkind : fieldNat e.2 4 1 = kind) : doDeposit p kind s = takeDeposit p e.2 (unboxed e s) := by
  simp only [doDeposit, hbox, hkind, decide_true, Bool.true_or, if_true, unboxed]

/-- What a deposit command comes to, for the command of a record's kind. -/
theorem exec_deposit {i : Instr} {p kind : Nat} {s : State} {e : Nat × Bytes} (he : exec i s = settle (atD1 (doDeposit p kind)) s)
    (hs : HubAwake s) (hbox : s.seam.inbox.find? (·.1 == p) = some e) (hkind : fieldNat e.2 4 1 = kind) :
    let t := unboxed e s
    let d := depositRec e.2
    (isDuplicate t p d e.2 = true → exec i s = .next (pumpColls (showResult p 2 d.slot d.step d.tag 0 t))) ∧
    (isDuplicate t p d e.2 = false → ∀ cause, depositCause t p d = some cause →
      exec i s = .next (pumpColls (postPanel p 0x3004 seamBlock (d.slot + 2 ^ 16 * d.tag.toNat) (d.step.toNat + 2 ^ 32 * cause)
        (odCount 0x3002 4 1 (showResult p 3 d.slot d.step d.tag cause t))))) ∧
    (isDuplicate t p d e.2 = false → depositCause t p d = none → exec i s = .next (pumpColls (if d.kind = 4 then
      showResult p 1 d.slot d.step d.tag 0 (updSeamSlot d.slot (fun x => { last := x.last }) t)
      else acceptDeposit p ((panelOf t p).seamIdx.getD 0) d e.2 t))) := by
  intro t d
  have htake := doDeposit_oldest hbox hkind
  exact ⟨fun hdup => exec_hubAwake he hs (htake.trans (takeDeposit_duplicate rfl hdup)),
    fun hnew _ hcause => exec_hubAwake he hs (htake.trans (takeDeposit_refused rfl hnew hcause)),
    fun hnew hcause => exec_hubAwake he hs (htake.trans (takeDeposit_accepted rfl hnew hcause))⟩

/-! ### Slots -/

section
variable {n : Nat} {s : State}

theorem doSlotTimeout_filling (hst : (seamSlot s n).st = .filling) : doSlotTimeout n s = settleSlot n
    (((seamSlot s n).set.filter fun p => !completed s (seamSlot s n) p).foldl (fun s p => dropFrom n p s) s) := by
  simp only [doSlotTimeout, hst, ne_eq, not_true_eq_false, if_false]

theorem doSlotTimeout_other (hst : (seamSlot s n).st ≠ .filling) : doSlotTimeout n s = s := by
  simp only [doSlotTimeout, if_pos hst]

variable (hst : (seamSlot s n).st = .releasing)
include hst

theorem doSeamRelease_few (hfew : (doneBy s (seamSlot s n)).length < minContributors s) :
    doSeamRelease n s = discardSlot n 0 s := by
  simp only [doSeamRelease, hst, hfew, ne_eq, not_true_eq_false, if_false, if_true]

variable (henough : minContributors s ≤ (doneBy s (seamSlot s n)).length) (hkind : (seamSlot s n).kind ≠ 3)
include henough hkind

/-- A DENSE slot releases its sum as it is where neither the hosts nor the seam add noise (R232). -/
theorem doSeamRelease_plain (hseam : seamNoise s = false) (hhost : noiseMode s ≠ 1) : doSeamRelease n s =
    finishRelease n (seamSlot s n) (wordsBytes (denseSum s n (seamSlot s n))) false (seamSlot s n).count s := by
  simp only [doSeamRelease, hst, Nat.not_lt.2 henough, hkind, hseam, hhost, ne_eq, not_true_eq_false, Bool.false_eq_true,
    if_false]

theorem doSeamRelease_hostNoise (hhost : noiseMode s = 1) : doSeamRelease n s = finishRelease n (seamSlot s n)
    (wordsBytes (List.zipWith add32 (denseSum s n (seamSlot s n)) (hostNoise s n (seamSlot s n)))) true
    (seamSlot s n).count s := by
  simp only [doSeamRelease, hst, Nat.not_lt.2 henough, hkind, hhost, ne_eq, not_true_eq_false, if_false, if_true]

end

/-- Settles O33: the record's kind selects its command, whose three answers are those of `takeDeposit`; a timeout and a release
follow the slot's state, its contributors and the mode of the noise. -/
theorem seamDepositsAndSlots : Obligations.SeamDepositsAndSlots := by
  refine ⟨fun p s e hs hbox => ?deposits,
    fun n s hs => ⟨fun hst => ?fills, fun hst => ?other, fun hst => ⟨fun hfew => ?few, ?plain, ?host⟩⟩⟩
  case deposits =>
    simp only [List.forall_mem_cons]
    exact ⟨exec_deposit rfl hs hbox, exec_deposit rfl hs hbox, exec_deposit rfl hs hbox, exec_deposit rfl hs hbox,
      List.forall_mem_nil _⟩
  case fills => exact exec_hubAwake rfl hs (doSlotTimeout_filling hst)
  case other => exact exec_hubAwake rfl hs (doSlotTimeout_other hst)
  case few => exact exec_hubAwake rfl hs (doSeamRelease_few hst hfew)
  case plain =>
    exact fun henough hkind hseam hhost => exec_hubAwake rfl hs (doSeamRelease_plain hst henough hkind hseam hhost)
  case host =>
    exact fun henough hkind hhost => exec_hubAwake rfl hs (doSeamRelease_hostNoise hst henough hkind hhost)

end Sys2Proof.Machine
end

section
/-! SUPPORT. Failure hiding (R366–R375), the end of a panel's scrub (R241) and quotes (R240). -/
namespace Sys2Proof.Machine

/-! ### Spare cores and heartbeats -/

section
variable {c : Nat} {s : State}

theorem takeSpare_usable (hspare : (groupOf s (c / 8)).spareUsable = true) : takeSpare c s = pumpAll (remapCore c s) :=
  if_pos hspare

theorem takeSpare_late (hspare : (groupOf s (c / 8)).spareUsable = false) : takeSpare c s = remapLate c s :=
  if_neg (Bool.eq_false_iff.1 hspare)

variable (hlost : (coreOf s c).lost = false) (hfailed : (coreOf s c).failed = true)
include hlost hfailed

theorem doCoreRemap_clean : doCoreRemap c [] s = takeSpare c s := by
  simp [doCoreRemap, hlost, hfailed]

theorem doCoreRemap_poisoned {bad : List Nat} (hspare : (groupOf s (c / 8)).spareUsable = true) (hbad : bad ≠ []) :
    doCoreRemap c bad s = poisonWords c bad (pumpAll (remapCore c s)) := by
  simp [doCoreRemap, hlost, hfailed, hspare, hbad, takeSpare_usable hspare]

end

section
variable {c : Nat} {s : State} (hrun : dispatching s c = true)
include hrun

theorem doHeartbeat_answered : doHeartbeat c true s = updCore c (fun x => { x with missed := 0 }) s := by
  simp [doHeartbeat, hrun]

theorem doHeartbeat_missed : doHeartbeat c false s =
    let t := updCore c (fun x => { x with missed := x.missed + 1 }) s
    if 3 ≤ (coreOf t c).missed then coreFail c t else t := by
  simp [doHeartbeat, hrun]

end

/-! ### Hubs -/

/-- The module once the hub of tile t is taken for dead. -/
def hubDead (t : Nat) (s : State) : State := { s with hubs := { s.hubs with dead := s.hubs.dead ++ [t] } }

section
variable {t : Nat} {s : State} (ht : t < 4) (hdead : t ∉ s.hubs.dead) (hrun : s.startup.running = true)
include ht hdead hrun

theorem doAdoption_adopted {h : Nat} (hnext : nextHub (hubDead t s).hubs.dead t = some h) :
    doAdoption t s = odCount 0x1901 7 1 { hubDead t s with hubs := { (hubDead t s).hubs with
      serving := s.hubs.serving.map fun x => if x = t then h else x } } := by
  unfold hubDead at hnext ⊢
  simp [doAdoption, Nat.not_le.2 ht, hdead, hrun, hnext]

theorem doAdoption_alone (hnext : nextHub (hubDead t s).hubs.dead t = none) :
    doAdoption t s = fatal 4 t (hubDead t s) := by
  unfold hubDead at hnext ⊢
  simp [doAdoption, Nat.not_le.2 ht, hdead, hrun, hnext]

end

/-! ### Crown -/

/-- With repair off the patrol only counts, and reports the words of its stack that it could not correct (R371). -/
theorem doPatrol_unrepaired {k corrected queued : Nat} {bad : List Word48} {s : State} (hrun : s.startup.running = true)
    (hoff : odGet s 0x1900 2 ≠ 1) (hbad : ∀ a ∈ bad, a.toNat / stackSize = k) : doPatrol k corrected bad queued s =
      bad.foldl (fun s a => doReadFailure a.toNat false s) (odCount 0x1901 2 corrected s) := by
  have hoff' : odGet (odCount 0x1901 2 corrected s) 0x1900 2 ≠ 1 := by rwa [odGet_odCount_ne _ _ _ _ _ _ (by decide)]
  have hall : bad.filter (fun a => a.toNat / stackSize = k) = bad := List.filter_eq_self.2 fun a ha => by simp [hbad a ha]
  simp only [doPatrol, hrun, Bool.not_true, Bool.false_eq_true, if_false, hoff', hall]

theorem doRowRepair_d1 {k : Nat} {s : State} (hd : s.startup.dstate = 1) (hrows : sget 0 s.hubs.rows k ≠ 0)
    (hspare : sget 0 s.hubs.repaired k < Config.spareRows k) : doRowRepair k s = { s with hubs := { s.hubs with
      rows := smod 0 s.hubs.rows k (· - 1), repaired := smod 0 s.hubs.repaired k (· + 1) } } :=
  if_pos (by simp [hd, hrows, hspare])

theorem doRowRepair_awake {k : Nat} {s : State} (hd : s.startup.dstate ≠ 1) : doRowRepair k s = s :=
  if_neg (by simp [hd])

/-! ### Module-fatal conditions -/

/-- What a module-fatal condition shows of the module, and an event of the management port leaves alone. -/
def fatalView (s : State) : Mem × Sparse Core × Startup × Bool × Nat :=
  (s.mem, s.cores, s.startup, s.pins.ready, odGet s 0x1905 0)

theorem fatalView_mgmtCount {k : Nat} (hk : k < 256) (n : Nat) (s : State) :
    fatalView (odCount 0x1101 k n s) = fatalView s := by
  have hget : odGet (odCount 0x1101 k n s) 0x1905 0 = odGet s 0x1905 0 :=
    odGet_odCount_ne _ _ _ _ _ _ (by unfold odKey; omega)
  rw [fatalView, hget]
  unfold odCount
  split <;> rfl

theorem fatalView_mgmtSend (op : Byte) (body : Bytes) (s : State) : fatalView (mgmtSend op body s) = fatalView s := by
  unfold mgmtSend
  split
  · rfl
  · split
    · exact fatalView_mgmtCount (by decide) ..
    · rfl

theorem fatalView_sendEventFrame (q : Word32) (e : Event) (s : State) :
    fatalView (sendEventFrame q e s) = fatalView s := by
  unfold sendEventFrame
  split
  · exact (fatalView_mgmtCount (by decide) ..).trans (fatalView_mgmtSend ..)
  · rfl

theorem fatalView_flushMgmt (fuel : Nat) (s : State) : fatalView (flushMgmt fuel s) = fatalView s := by
  induction fuel generalizing s with
  | zero => rfl
  | succ fuel ih =>
    unfold flushMgmt
    split
    · rfl
    · split
      · exact (ih _).trans (fatalView_sendEventFrame ..)
      · rfl

theorem fatalView_postMgmt (panel code src a b : Nat) (s : State) :
    fatalView (postMgmt panel code src a b s) = fatalView s := by
  unfold postMgmt postMgmtEvent
  split
  · exact fatalView_flushMgmt ..
  · exact fatalView_mgmtCount (by decide) ..

/-- The module as a module-fatal condition marks it, before the event. -/
def markFatal (cause : Nat) (s : State) : State :=
  odPut 0x1905 0 cause { s with pins := { s.pins with ready := false }, startup := { s.startup with fatal := true } }

theorem fatal_alive {cause tile : Nat} {s : State} (hs : Alive s) :
    fatal cause tile s = alertLevel (postMgmt 0xFF 0x1902 (hubBlock 0) cause tile (markFatal cause s)) := by
  obtain ⟨hpower, hfatal⟩ := hs
  exact if_neg (by simp [hpower, hfatal])

/-- The mark drops READY and shows the cause; memory and the cores are kept (R375). -/
theorem fatalView_markFatal (cause : Nat) (s : State) :
    fatalView (markFatal cause s) = (s.mem, s.cores, { s.startup with fatal := true }, false, cause) := by
  simp only [fatalView, markFatal, odGet_odPut_self]
  rfl

/-- ALERT_N is low while a module-fatal condition stands (R405). -/
theorem alertN_alertLevel_fatal {s : State} (hs : s.startup.fatal = true) : (alertLevel s).pins.alertN = false := by
  simp [alertLevel, hs]

/-! ### Scrubs and quotes -/

/-- A scrubbed panel holds nothing but its key epochs (R241, R237). -/
theorem panelOf_doScrubComplete {p ms : Nat} {s : State} (hst : (panelOf s p).st = .releasing) :
    ∃ epochs, panelOf (doScrubComplete p ms s) p = { epochs := epochs } := by
  obtain ⟨t, ht⟩ : ∃ t, doScrubComplete p ms s = odPut (panelIdx p 0) 9 ms (updPanel p (fun x => { epochs := x.epochs }) t) :=
    ⟨_, if_neg (Classical.not_not.2 hst)⟩
  exact ⟨(panelOf t p).epochs, by rw [ht, panelOf, odPut_panels, ← panelOf, panelOf_updPanel_self]⟩

section
variable {n : Nat} {rest : List Nat} {s : State} (hwait : s.attest.waiting = n :: rest)
include hwait

theorem doQuoteReady_exhausted {ok : Bool} (hleaf : leafLimit ≤ s.attest.leaf) : doQuoteReady ok s =
    postMgmt 0xFF 0x3008 0xC000 s.attest.leaf 0 { s with attest := { s.attest with waiting := rest } } := by
  simp only [doQuoteReady, hwait, if_pos hleaf]

theorem doQuoteReady_unstored (hleaf : s.attest.leaf < leafLimit) :
    doQuoteReady false s = { s with attest := { s.attest with waiting := rest } } := by
  simp only [doQuoteReady, hwait, if_neg (Nat.not_le.2 hleaf), Bool.not_false, if_true]

theorem doQuoteReady_signed (hleaf : s.attest.leaf < leafLimit) :
    let t := { s with attest := { s.attest with waiting := rest } }
    let b := quoteBody t (sget [] s.attest.nonces n)
    doQuoteReady true s = { s with attest := { t.attest with
      leaf := s.attest.leaf + 1,
      quotes := sset [] s.attest.quotes n (b ++ (List.range 3124).map (Config.hssSignByte s.attest.leaf b)) } } := by
  simp only [doQuoteReady, hwait, if_neg (Nat.not_le.2 hleaf), Bool.not_true, Bool.false_eq_true, if_false]

end

/-! ### The commands -/

/-- A command of a module that is alive has its effect, and collectives that wait go on. -/
theorem exec_settle {i : Instr} {s t : State} {f : State → State} (he : exec i s = settle f s) (hs : Alive s) (hf : f s = t) :
    exec i s = .next (pumpColls t) := by
  rw [he, settle_next _ _ hs, hf]

/-- Settles O53: each command has its effect on a module that is alive; the adoption and the heartbeat split on whether a hub or
a chance is left. -/
theorem failureHiding : Obligations.FailureHiding := by
  intro s hs
  refine ⟨fun c hlost hfailed => ⟨fun hspare => ?remap, fun bad hspare hbad => ?poisoned, fun hspare => ?late⟩,
    fun c ok hrun => ⟨?answered, ?missed, ?failed⟩, fun t ht hdead hrun => ⟨fun h hnext => ?adopted, fun hnext => ?alone⟩,
    fun k corrected queued bad hrun hoff hbad => ?patrol, fun k => ⟨fun hd hrows hspare => ?repair, fun hd => ?awake⟩,
    fun cause tile => ?fatal, fun p ms hrun hd hst => ?scrub, fun n rest ok hwait => ⟨?exhausted, ?unstored, ?signed⟩⟩
  case remap =>
    exact exec_settle rfl hs ((doCoreRemap_clean hlost hfailed).trans (takeSpare_usable hspare))
  case poisoned => exact exec_settle rfl hs (doCoreRemap_poisoned hlost hfailed hspare hbad)
  case late => exact exec_settle rfl hs ((doCoreRemap_clean hlost hfailed).trans (takeSpare_late hspare))
  case answered =>
    rintro rfl
    exact exec_settle rfl hs (doHeartbeat_answered hrun)
  case missed =>
    rintro rfl hfew
    exact exec_settle rfl hs ((doHeartbeat_missed hrun).trans (if_neg (Nat.not_le.2 hfew)))
  case failed =>
    rintro rfl hthree
    exact exec_settle rfl hs ((doHeartbeat_missed hrun).trans (if_pos hthree))
  case adopted => exact exec_alive rfl hs (doAdoption_adopted ht hdead hrun hnext)
  case alone => exact exec_alive rfl hs (doAdoption_alone ht hdead hrun hnext)
  case patrol => exact exec_settle rfl hs (doPatrol_unrepaired hrun hoff hbad)
  case repair => exact exec_alive rfl hs (doRowRepair_d1 hd hrows hspare)
  case awake => exact exec_alive rfl hs (doRowRepair_awake hd)
  case fatal =>
    have hview := (fatalView_postMgmt 0xFF 0x1902 (hubBlock 0) cause.toNat tile.toNat _).trans
      (fatalView_markFatal cause.toNat s)
    simp only [fatalView, Prod.mk.injEq] at hview
    obtain ⟨hmem, hcores, hstartup, hready, hcause⟩ := hview
    have hfatal := congrArg Startup.fatal hstartup
    exact ⟨_, exec_alive rfl hs (fatal_alive hs), hready, alertN_alertLevel_fatal hfatal, hfatal, hcause, hmem, hcores⟩
  case scrub =>
    obtain ⟨epochs, hpanel⟩ := panelOf_doScrubComplete (ms := ms.toNat) hst
    refine ⟨_, exec_hubAwake rfl ⟨hs, hrun, hd⟩ rfl, ?_⟩
    rw [hpanel]
    exact ⟨rfl, rfl, rfl⟩
  case exhausted => exact fun hleaf => exec_alive rfl hs (doQuoteReady_exhausted hwait hleaf)
  case unstored =>
    rintro rfl hleaf
    exact exec_alive rfl hs (doQuoteReady_unstored hwait hleaf)
  case signed =>
    rintro rfl hleaf
    exact exec_alive rfl hs (doQuoteReady_signed hwait hleaf)

end Sys2Proof.Machine
end

section
/-! SUPPORT. Panels that open, the low-power states and a boot (R217, R351, R352, R356). -/
namespace Sys2Proof.Machine

/-! ### Opening -/

/-- What an open sets of a panel, and what follows it there, the draw of the keys and the clearing of knots and status,
leaves alone (R217). -/
def opening (p : Nat) (s : State) : PState × Sparse Region × Sparse KeySlot × Sparse Nat :=
  let x := panelOf s p
  (x.st, x.regions, x.keys, x.epochs)

theorem opening_of_panels {p : Nat} {s t : State} (h : t.panels = s.panels) : opening p t = opening p s := by
  simp only [opening, panelOf, h]

theorem opening_dropRootKeys (p : Nat) (s : State) : opening p (dropRootKeys p s) = opening p s := by
  have hdrop : opening p (updPanel p (fun y => { y with rootXts := [], rootTag := [] }) s) = opening p s := by
    simp only [opening, panelOf_updPanel_self]
  exact List.foldlRecOn (motive := fun t => opening p t = opening p s) _ _ hdrop
    fun t ht r _ => (opening_of_panels (s := t) rfl).trans ht

theorem opening_drawRootKeys (p : Nat) (s : State) : opening p (drawRootKeys p s) = opening p s := by
  rw [← opening_dropRootKeys p s]
  by_cases hsecure : secure (drawBytes 64 (dropRootKeys p s)).2 p = true
  · simp only [drawRootKeys, hsecure, if_true, opening, panelOf_updPanel_self]; rfl
  · simp only [drawRootKeys, hsecure, opening, panelOf_updPanel_self]; rfl

theorem opening_drawKem (p : Nat) (s : State) : opening p (drawKem p s) = opening p s := by
  unfold drawKem
  split
  · simp only [opening, panelOf_updPanel_self]
  · simp only [opening, panelOf_updPanel_self]; rfl

theorem panels_clearRestoreKnots (p : Nat) (s : State) : (clearRestoreKnots p s).panels = s.panels :=
  List.foldlRecOn (motive := fun t : State => t.panels = s.panels) _ _ rfl fun _ ht _ _ => ht

theorem panels_of_wiring {s t : State} (h : wiring t = wiring s) : t.panels = s.panels := congrArg (fun w => w.2.2.1) h

theorem panels_clearStatusPage (p : Nat) (s : State) : (clearStatusPage p s).panels = s.panels :=
  panels_of_wiring (wiring_storeBytes ..)

theorem panels_foldl_updCore (f : State → Core → Core) (cs : List Nat) (s : State) :
    (cs.foldl (fun s c => updCore c (f s) s) s).panels = s.panels :=
  List.foldlRecOn (motive := fun t : State => t.panels = s.panels) _ _ rfl fun _ ht _ _ => ht

theorem writeOpen_live {p : Nat} {s : State} (hst : (panelOf s p).st ≠ .free) : writeOpen p s = (0x08, s) := by
  simp only [writeOpen, if_pos hst]

section
variable {p : Nat} {s : State} (hst : (panelOf s p).st = .free)
include hst

theorem writeOpen_refused {cause : Nat} (hcause : openCause s p = some cause) :
    writeOpen p s = (0, postMgmt p 0x3002 (panelHub s p) p cause s) := by
  simp only [writeOpen, hst, hcause, ne_eq, not_true_eq_false, if_false]

/-- An open that succeeds leaves the panel OPEN with the hub's entries, no keys and its epochs (R217, R221). -/
theorem writeOpen_opens (hcause : openCause s p = none) : ∃ t, writeOpen p s = (0, t) ∧
    opening p t = (.open, hubEntries s p, [], (panelOf s p).epochs) := by
  simp only [writeOpen, hst, hcause, ne_eq, not_true_eq_false, if_false, Prod.mk.injEq, true_and, exists_eq_left']
  rw [opening_of_panels ((panels_clearStatusPage ..).trans (panels_clearRestoreKnots ..)),
    opening_of_panels (panels_foldl_updCore ..), opening_drawKem, opening_drawRootKeys]
  simp only [opening, panelOf_updPanel_self]

end

/-! ### Low-power states -/

theorem leaveD2_wakeD1_d0 {s : State} (hd : s.startup.dstate = 0) : leaveD2 (wakeD1 s) = s := by
  simp [wakeD1, leaveD2, hd]

section
variable {s : State} (hrun : s.startup.running = true) (hd : s.startup.dstate = 0)
include hrun hd

theorem writePowerState_busy {v : Nat} (h0 : v ≠ 0) (h3 : v ≤ 3) (hbusy : busyForD s = true) :
    writePowerState v s = (0x08, postMgmt 0xFF 0x1803 (hubBlock 0) v (maskOf (kernelPanels s)) s) := by
  simp [writePowerState, hrun, hd, h0, Nat.not_lt.2 h3, hbusy]

theorem writePowerState_idle (hidle : busyForD s = false) : writePowerState 1 s = (0, setD 1 s) ∧
    writePowerState 2 s = (0, enterD2 s) ∧ writePowerState 3 s = (0, enterD3 s) := by
  simp [writePowerState, hrun, hd, hidle, leaveD2_wakeD1_d0 hd]

end

theorem writePowerState_stays {s : State} (hd : s.startup.dstate = 0) : writePowerState 0 s = (0, s) := by
  simp [writePowerState, hd]

theorem writePowerState_leavesD2 {s : State} (hd : s.startup.dstate = 2) (hrun : s.startup.running = true) :
    writePowerState 0 s = (0, leaveD2 s) := by
  simp [writePowerState, wakeD1, hd, hrun]

theorem writePowerState_leavesD3 {s : State} (hd : s.startup.dstate = 3) :
    writePowerState 0 s = (0, toImageWait (beginReset true 3 s)) := by
  simp [writePowerState, hd]

/-! ### Boot -/

/-- Who may write `startup.boot` finds the module waiting for an image (R351). -/
theorem phase_of_requestCode_boot {s : State} {path panel v : Nat} (h : requestCode s path panel 0x1800 4 true v = 0) :
    s.startup.phase = .step 2 := by
  have hexists : indexExists 0x1800 = true := by decide
  have hearly : earlyIndex 0x1800 = true := by decide
  obtain ⟨row, hrow, haccess⟩ : ∃ row, odRow 0x1800 4 = some row ∧ ∀ role,
      accessCode s role path row 0x1800 4 true v = if s.startup.phase = .step 2 then 0 else 0x08 := ⟨_, rfl, fun _ => rfl⟩
  unfold requestCode at h
  split at h
  next => exact absurd h (by decide)
  next role _ =>
    simp only [hearly, hexists, hrow, haccess, Bool.not_true, Bool.and_false, Bool.false_eq_true, if_false] at h
    split at h
    next hphase => exact hphase
    next => exact absurd h (by decide)

section
variable {x : Nat} {s : State} (hx : x ≤ 4) (hphase : s.startup.phase = .step 2)
include hx hphase

theorem writeBoot_unstaged (hnone : s.startup.imgLen = 0 ∨ x ∉ s.startup.staged) :
    writeBoot x s = (0, refuseImage x 7 s) := by
  simp [writeBoot, Nat.not_lt.2 hx, hphase, hnone]

variable (hlen : s.startup.imgLen ≠ 0) (hmem : x ∈ s.startup.staged)
include hlen hmem

theorem writeBoot_refused {cause : Nat}
    (hcause : imageCause (readBytes s (fwArea (sourceStack x)) s.startup.imgLen) (odGet s 0x1800 6) = some cause) :
    writeBoot x s = (0, refuseImage x cause s) := by
  simp [writeBoot, Nat.not_lt.2 hx, hphase, hlen, hmem, hcause]

theorem writeBoot_runs
    (hcause : imageCause (readBytes s (fwArea (sourceStack x)) s.startup.imgLen) (odGet s 0x1800 6) = none) :
    writeBoot x s = (0, runImage (readBytes s (fwArea (sourceStack x)) s.startup.imgLen) (odPut 0x1800 2 0 s)) := by
  simp [writeBoot, Nat.not_lt.2 hx, hphase, hlen, hmem, hcause]

end

/-! ### The commands -/

section
variable {r : OdReq} {s u t : State} {code : Nat} (hu : wakeD1 (heard r s) = u)
include hu

theorem exec_panelOpen {p : Nat} (hp : p < 16) (hput : MayPut s r (panelIdx p 0) 7 [1]) (he : writeOpen p u = (code, t)) :
    exec (.panelOpen r p) s = .next (pumpColls (answer r (putMsg (panelIdx p 0) 7 [1]) 0x20 code 0 [] t)) := by
  subst hu
  exact exec_number (e := (code, t)) rfl (numberRow_panelState p hp) rfl rfl (by decide)
    ((routeNumber_block hp (by decide) ..).trans he) hput

/-- A command that writes `startup.power_state`, from 0 to 3. -/
theorem exec_powerState {i : Instr} {v : Byte} {n : Nat} (hi : exec i s = settle (doOdPut r 0x1800 9 [v]) s)
    (hv : v.toNat = n) (hn : n ≤ 3) (hput : MayPut s r 0x1800 9 [v]) (he : writePowerState n u = (code, t)) :
    exec i s = .next (pumpColls (answer r (putMsg 0x1800 9 [v]) 0x20 code 0 [] t)) := by
  subst hu hv
  exact (exec_byte (e := (code, t)) hi numberRow_powerState he hput).1 hn

theorem exec_boot {x : Byte} (hx : x.toNat ≤ 4) (hput : MayPut s r 0x1800 4 [x]) (he : writeBoot x.toNat u = (code, t)) :
    exec (.boot r x) s = .next (pumpColls (answer r (putMsg 0x1800 4 [x]) 0x20 code 0 [] t)) := by
  subst hu
  exact (exec_byte (e := (code, t)) rfl numberRow_boot he hput).1 hx

end

/-- Settles O58: each command is answered with what its entry's write comes to; whoever may boot finds the module waiting for an
image. -/
theorem panelsAndStates : Obligations.PanelsAndStates := by
  intro r s u
  have hu : wakeD1 (heard r s) = u := rfl
  refine ⟨fun p hp hput => ⟨fun hst => ?live, fun hst cause hcause => ?refused, fun hst hcause => ?opens⟩,
    fun hput hrun hd => ⟨fun hidle => ?d1, fun hbusy => ?busy⟩, fun hput hrun hd hidle => ?d2,
    fun hput hrun hd hidle => ?d3, fun hput => ⟨fun hd => ?stays, fun hd hrun => ?leavesD2, fun hd => ?leavesD3⟩,
    fun x hx hput => ?boot⟩
  case live => exact exec_panelOpen hu hp hput (writeOpen_live hst)
  case refused => exact exec_panelOpen hu hp hput (writeOpen_refused hst hcause)
  case opens =>
    obtain ⟨t, ht, hopen⟩ := writeOpen_opens hst hcause
    simp only [opening, Prod.mk.injEq] at hopen
    exact ⟨t, exec_panelOpen hu hp hput ht, hopen⟩
  case d1 =>
    obtain ⟨hd1, -, -⟩ := writePowerState_idle hrun hd hidle
    exact exec_powerState hu rfl rfl (by decide) hput hd1
  case busy =>
    exact exec_powerState hu rfl rfl (by decide) hput (writePowerState_busy hrun hd (by decide) (by decide) hbusy)
  case d2 =>
    obtain ⟨-, hd2, -⟩ := writePowerState_idle hrun hd hidle
    exact exec_powerState hu rfl rfl (by decide) hput hd2
  case d3 =>
    obtain ⟨-, -, hd3⟩ := writePowerState_idle hrun hd hidle
    exact exec_powerState hu rfl rfl (by decide) hput hd3
  case stays => exact exec_powerState hu rfl rfl (by decide) hput (writePowerState_stays hd)
  case leavesD2 => exact exec_powerState hu rfl rfl (by decide) hput (writePowerState_leavesD2 hd hrun)
  case leavesD3 => exact exec_powerState hu rfl rfl (by decide) hput (writePowerState_leavesD3 hd)
  case boot =>
    have hphase : u.startup.phase = .step 2 := phase_of_requestCode_boot hput.2
    exact ⟨fun hnone => exec_boot hu hx hput (writeBoot_unstaged hx hphase hnone), fun hlen hmem =>
      ⟨fun cause hcause => exec_boot hu hx hput (writeBoot_refused hx hphase hlen hmem hcause),
        fun hcause => exec_boot hu hx hput (writeBoot_runs hx hphase hlen hmem hcause)⟩⟩

end Sys2Proof.Machine
end
section
/-! SUPPORT. A native link: what its counters, credits and flits leave alone, and what a received flit comes to (R247–R249). -/
namespace Sys2Proof.Machine

/-! ### What flits leave alone -/

/-- The module but for its links, and link l but for its counters, its credits, its replay buffer, the messages that wait and what
it has sent. -/
def still (l : Nat) (s : State) : State × Link :=
  ({ s with links := [] }, { linkOf s l with
    txSeq := 0, replay := [], ctlWait := [], owed := [], rxNaks := 0, inFlight := [], ctr := [], out := [] })

theorem still_updLink (l : Nat) (f : Link → Link) (s : State) : still l (updLink l f s) =
    ({ s with links := [] }, { f (linkOf s l) with
      txSeq := 0, replay := [], ctlWait := [], owed := [], rxNaks := 0, inFlight := [], ctr := [], out := [] }) := by
  rw [still, linkOf_updLink_self]
  rfl

@[simp] theorem still_linkCount (l o n : Nat) (s : State) : still l (linkCount l o n s) = still l s := by
  unfold linkCount
  split
  · rfl
  · exact still_updLink ..

@[simp] theorem still_emitFlit (l : Nat) (f : Flit) (s : State) : still l (emitFlit l f s) = still l s := by
  rw [emitFlit, still_linkCount, linkEmit, still_updLink]
  rfl

theorem creditFlit_link (x : Link) (f : Flit) : (creditFlit x f).2 = { x with owed := (creditFlit x f).2.owed } := by
  unfold creditFlit
  split <;> rfl

@[simp] theorem still_sendNumbered (l : Nat) (f : Flit) (s : State) : still l (sendNumbered l f s) = still l s := by
  rw [sendNumbered, still_emitFlit, still_updLink, creditFlit_link]
  rfl

@[simp] theorem still_drainCtl (l fuel : Nat) (s : State) : still l (drainCtl l fuel s) = still l s := by
  induction fuel generalizing s with
  | zero => rfl
  | succ fuel ih =>
    unfold drainCtl
    split
    · rfl
    · split
      · rw [ih, still_sendNumbered, still_updLink]
        rfl
      · rfl

@[simp] theorem still_sendLinkctl (l : Nat) (m : LinkCtl) (s : State) : still l (sendLinkctl l m s) = still l s := by
  rw [sendLinkctl, still_drainCtl, still_updLink]
  rfl

@[simp] theorem still_repeatFlits (l : Nat) (s : State) : still l (repeatFlits l s) = still l s :=
  List.foldlRecOn (motive := (still l · = still l s)) (linkOf s l).replay _ rfl fun _ ht f _ => (still_emitFlit l f _).trans ht

@[simp] theorem still_takeCredits (l : Nat) (h : FlitHdr) (s : State) : still l (takeCredits l h s) = still l s :=
  still_updLink ..

@[simp] theorem still_flitSeen (l : Nat) (h : FlitHdr) (s : State) : still l (flitSeen l h s) = still l s := by
  have hack : still l (flitSeen l h s) = still l (linkCount l 8 1 (linkCount l 32 h.fecFixed s)) := still_updLink ..
  rw [hack, still_linkCount, still_linkCount]

/-- An accepted flit advances the expected number and ends the discarding, and leaves the rest alone. -/
theorem still_flitTaken (l : Nat) (h : FlitHdr) (s : State) : still l (flitTaken l h s) =
    ((still l s).1, { (still l s).2 with rxExpect := (linkOf s l).rxExpect + 1, discarding := false, naks := 0 }) := by
  have hseen := still_flitSeen l h s
  have hexpect : (linkOf (flitSeen l h s) l).rxExpect = (linkOf s l).rxExpect := congrArg (·.2.rxExpect) hseen
  rw [flitTaken, still_takeCredits, still_updLink, ← hseen, ← hexpect]
  rfl

/-! ### What is read of a still link -/

theorem still_native (l : Nat) (s : State) : native (still l s).1 = native s := rfl

theorem still_st (l : Nat) (s : State) : (still l s).2.st = (linkOf s l).st := rfl

theorem still_nbDigest (l : Nat) (s : State) : (still l s).2.nbDigest = (linkOf s l).nbDigest := rfl

theorem still_speedAsked (l : Nat) (s : State) : (still l s).2.speedAsked = (linkOf s l).speedAsked := rfl

theorem native_of_still {l : Nat} {s t : State} (h : still l t = still l s) : native t = native s := by
  rw [← still_native l t, h, still_native]

theorem carrying_of_st {l : Nat} {s t : State} (h : (linkOf t l).st = (linkOf s l).st) : carrying t l = carrying s l := by
  rw [carrying, carrying, linkRuns, linkRuns, h]

theorem carrying_of_still {l : Nat} {s t : State} (h : still l t = still l s) : carrying t l = carrying s l :=
  carrying_of_st (by rw [← still_st, h, still_st])

section
variable (l : Nat) (h : FlitHdr) (s : State)

theorem native_flitTaken : native (flitTaken l h s) = native s := by
  rw [← still_native l (flitTaken l h s), still_flitTaken, still_native]

theorem st_flitTaken : (linkOf (flitTaken l h s) l).st = (linkOf s l).st := by
  rw [← still_st, still_flitTaken, still_st]

theorem nbDigest_flitTaken : (linkOf (flitTaken l h s) l).nbDigest = (linkOf s l).nbDigest := by
  rw [← still_nbDigest, still_flitTaken, still_nbDigest]

theorem speedAsked_flitTaken : (linkOf (flitTaken l h s) l).speedAsked = (linkOf s l).speedAsked := by
  rw [← still_speedAsked, still_flitTaken, still_speedAsked]

theorem carrying_flitTaken : carrying (flitTaken l h s) l = carrying s l := carrying_of_st (st_flitTaken l h s)

end

/-! ### Retrain (R248) -/

/-- Link l has begun to retrain, and the retrain is counted. -/
def retrainBegun (l : Nat) (s : State) : State :=
  linkCount l 72 1 (updLink l (fun x => { x with st := .retraining, naks := 0, rxNaks := 0, discarding := false }) s)

theorem startRetrain_carrying {l : Nat} {s : State} (hc : carrying s l = true) : startRetrain l s = retrainBegun l s := by
  rw [startRetrain, hc]
  rfl

/-- The partner is told of a retrain where the replay buffer has room. -/
def retrainTold (l : Nat) (s : State) : State := if (linkOf s l).replay.length < 1024 then sendLinkctl l .retrain s else s

theorem still_retrainTold (l : Nat) (s : State) : still l (retrainTold l s) = still l s := by
  unfold retrainTold
  split
  · exact still_sendLinkctl ..
  · rfl

theorem askRetrain_carrying {l : Nat} {s : State} (hc : carrying s l = true) (hn : native s = true) :
    askRetrain l s = retrainBegun l (retrainTold l s) := by
  have htold : carrying (retrainTold l s) l = true := (carrying_of_still (still_retrainTold l s)).trans hc
  rw [← startRetrain_carrying htold]
  simp only [askRetrain, retrainTold, hc, hn, Bool.true_and, decide_eq_true_eq]

/-! ### A received flit (R248) -/

section
variable {l : Nat} {h : FlitHdr} {f : State → State} {s : State} (hc : carrying s l = true) (hn : native s = true)
include hc hn

theorem receiveFlit_failed (hbad : ¬ FlitGood h) : receiveFlit l h f s = nakFlit l (linkCount l 48 (if h.crcOk then 0 else 1)
    (linkCount l 40 h.fecLost (linkCount l 32 h.fecFixed s))) := by
  have hcheck : (!h.crcOk || decide (h.fecLost ≠ 0)) = true := by
    cases hcrc : h.crcOk with
    | false => rfl
    | true => exact decide_eq_true fun hfec => hbad ⟨hcrc, hfec⟩
  simp only [receiveFlit, hc, hn, hcheck, Bool.not_true, Bool.or_self, Bool.false_eq_true, if_false, if_true]

variable (hg : FlitGood h)
include hg

theorem receiveFlit_good : receiveFlit l h f s = afterFlit l (f (flitSeen l h s)) := by
  obtain ⟨hcrc, hfec⟩ := hg
  have hlost : linkCount l 40 0 (linkCount l 32 h.fecFixed s) = linkCount l 32 h.fecFixed s := if_pos rfl
  simp only [receiveFlit, hc, hn, hcrc, hfec, hlost, Bool.not_true, ne_eq, not_true_eq_false, decide_false, Bool.or_self,
    Bool.false_eq_true, if_false]
  rfl

/-- A good numbered flit by its distance from the expected number. -/
theorem numbered_good : numbered l h f s = afterFlit l (
    if (h.seq - (linkOf s l).rxExpect).toNat = 0 then sendPlainFlit l 1 (f (flitTaken l h s))
    else if (2048 ≤ (h.seq - (linkOf s l).rxExpect).toNat || (linkOf s l).discarding) = true then flitSeen l h s
    else nakFlit l (flitSeen l h s)) := by
  have hstill := still_flitSeen l h s
  have hexpect : (linkOf (flitSeen l h s) l).rxExpect = (linkOf s l).rxExpect := congrArg (·.2.rxExpect) hstill
  have hdiscard : (linkOf (flitSeen l h s) l).discarding = (linkOf s l).discarding := congrArg (·.2.discarding) hstill
  rw [numbered, receiveFlit_good hc hn hg, ← hexpect, ← hdiscard]
  rfl

theorem numbered_inOrder (hseq : h.seq = (linkOf s l).rxExpect) : numbered l h f s = flitDone l (f (flitTaken l h s)) := by
  rw [numbered_good hc hn hg, if_pos (by simp [hseq]), flitDone]

theorem numbered_before (hold : 2048 ≤ (h.seq - (linkOf s l).rxExpect).toNat) :
    numbered l h f s = afterFlit l (flitSeen l h s) := by
  rw [numbered_good hc hn hg, if_neg (by omega), if_pos (by rw [decide_eq_true hold, Bool.true_or])]

theorem numbered_gap (hseq : h.seq ≠ (linkOf s l).rxExpect) (hnew : (h.seq - (linkOf s l).rxExpect).toNat < 2048)
    (hd : (linkOf s l).discarding = false) : numbered l h f s = afterFlit l (nakFlit l (flitSeen l h s)) := by
  have hahead : (h.seq - (linkOf s l).rxExpect).toNat ≠ 0 := by bv_omega
  rw [numbered_good hc hn hg, if_neg hahead, if_neg]
  rw [decide_eq_false (Nat.not_le.2 hnew), hd]
  exact Bool.false_ne_true

end

theorem doRetrain_own {l : Nat} {s : State} (hn : native s = true) : doRetrain l none s = askRetrain l s := by
  rw [doRetrain, hn]
  rfl

theorem doRetrain_received {l : Nat} {h : FlitHdr} {s : State} (hn : native s = true) :
    doRetrain l (some h) s = numbered l h (startRetrain l) s := by
  rw [doRetrain, hn]
  rfl

/-- The command of a numbered flit is received as one, with an effect of its own. -/
theorem exec_numberedFlit {l : Nat} {h : FlitHdr} {m : IdentMsg} {sp : BitVec 2} {q : BitVec 12} {i : Instr} {s : State}
    (hs : Alive s) (hn : native s = true) (hi : i ∈ numberedFlits l h m sp q) : ∃ f, exec i s = .next (numbered l h f s) := by
  simp only [numberedFlits, List.mem_cons, List.not_mem_nil, or_false] at hi
  rcases hi with rfl | rfl | rfl | rfl | rfl | rfl
  any_goals exact ⟨_, exec_alive rfl hs rfl⟩
  exact ⟨startRetrain l, exec_alive rfl hs (doRetrain_received hn)⟩

end Sys2Proof.Machine
end
section
/-! SUPPORT. The states of an Ashlink and its received flits (R246–R248, R264). -/
namespace Sys2Proof.Machine

/-! ### Training and loss (R246) -/

theorem doPartner_down {l : Nat} {s : State} (hl : l < 24) (hpower : linksPowered s = true) (hd : linkDisabled s l = false)
    (hst : (linkOf s l).st = .down) : doPartner l s = updLink l (fun x => { x with st := .training }) s := by
  simp [doPartner, Nat.not_le.2 hl, hpower, hd, hst]

/-- A link that has come through its training with some lanes. -/
def trained (l lanes : Nat) (s : State) : State :=
  updLink l (fun x => { x with st := if native s then .config else .up, lanes := min lanes 2
                               ctStep := odGet s 0x3100 8, ctPackets := 0 }) s

section
variable {l lanes : Nat} {s : State} (hl : l < 24) (hst : (linkOf s l).st = .training)
include hl hst

theorem doTrained_none : doTrained l 0 s = updLink l (fun x => { x with st := .down, lanes := 0 }) s := by
  simp only [doTrained, hst, Nat.not_le.2 hl, decide_false, ne_eq, not_true_eq_false, Bool.or_self, Bool.false_eq_true, if_false,
    if_true]

variable (hlanes : lanes ≠ 0)
include hlanes

theorem doTrained_lanes : doTrained l lanes s = if native s then sendIdent l (trained l lanes s)
    else pumpLink l (doAnnounce (trained l lanes s)) := by
  simp only [doTrained, hst, hlanes, Nat.not_le.2 hl, decide_false, ne_eq, not_true_eq_false, Bool.or_self, Bool.false_eq_true,
    if_false]
  rfl

theorem doTrained_native (hn : native s = true) : doTrained l lanes s =
    sendLinkctl l (.ident (identMsg (trained l lanes s) l)) (trained l lanes s) := by
  rw [doTrained_lanes hl hst hlanes, if_pos hn, sendIdent]

theorem doTrained_ethernet (hn : native s = false) : doTrained l lanes s = pumpLink l (doAnnounce (trained l lanes s)) := by
  rw [doTrained_lanes hl hst hlanes, if_neg (ne_true_of_eq_false hn)]

end

theorem doLoss_live {l : Nat} {s : State} (hl : l < 24) (hdown : (linkOf s l).st ≠ .down) (hoff : (linkOf s l).st ≠ .disabled) :
    doLoss l s = loseLink l s := by
  simp [doLoss, Nat.not_le.2 hl, hdown, hoff]

theorem doLane_carrying {l : Nat} {s : State} (hc : carrying s l = true) : doLane l s =
    if (linkOf s l).lanes ≤ 1 then loseLink l s else updLink l (fun x => { x with lanes := 1 }) s := by
  simp only [doLane, hc, Bool.not_true, Bool.false_eq_true, if_false]

/-! ### The end of a retrain (R248, R264) -/

theorem judgeLink_agrees {l : Nat} {s : State} (hcause : identCause s l = none) :
    judgeLink l s = retrySprayed (pumpLink l (updLink l (fun x => { x with st := .up }) s)) := by
  simp only [judgeLink, hcause]

theorem judgeLink_differs {l cause : Nat} {s : State} (hcause : identCause s l = some cause) : judgeLink l s = pumpLink l
    (postMgmt 0xFF 0x3101 (linkBlock l) (l + 2 ^ 8 * cause) ((linkOf s l).nbFab.toNat + 2 ^ 8 * (linkOf s l).nbLink.toNat)
      (updLink l (fun x => { x with st := .quarantine }) s)) := by
  simp only [judgeLink, hcause]

/-- A link that has come through a retrain with some lanes. -/
def relaned (l lanes : Nat) (s : State) : State := updLink l (fun x => { x with lanes := min lanes 2 }) s

/-- A native link that has come through a retrain and has sent its replay again. -/
def replayed (l lanes : Nat) (s : State) : State :=
  repeatFlits l (updLink l (fun x => { x with st := .config }) (relaned l lanes s))

theorem nbDigest_replayed (l lanes : Nat) (s : State) : (linkOf (replayed l lanes s) l).nbDigest = (linkOf s l).nbDigest := by
  rw [← still_nbDigest, replayed, still_repeatFlits, still_nbDigest, linkOf_updLink_self, relaned, linkOf_updLink_self]

section
variable {l lanes : Nat} {s : State} (hl : l < 24) (hst : (linkOf s l).st = .retraining)
include hl hst

theorem doRetrainTimeout_retraining : doRetrainTimeout l s = loseLink l s := by
  simp [doRetrainTimeout, Nat.not_le.2 hl, hst]

theorem doRetrained_none : doRetrained l 0 s = loseLink l s := by
  simp [doRetrained, Nat.not_le.2 hl, hst]

variable (hlanes : lanes ≠ 0)
include hlanes

theorem doRetrained_lanes : doRetrained l lanes s =
    if !native s then pumpLink l (updLink l (fun x => { toFrames x with st := .up }) (relaned l lanes s))
    else if (linkOf (replayed l lanes s) l).nbDigest.isEmpty then pumpLink l (replayed l lanes s)
    else judgeLink l (replayed l lanes s) := by
  simp only [doRetrained, hst, hlanes, Nat.not_le.2 hl, decide_false, ne_eq, not_true_eq_false, Bool.or_self,
    Bool.false_eq_true, if_false]
  rfl

theorem doRetrained_ethernet (hn : native s = false) : doRetrained l lanes s =
    pumpLink l (updLink l (fun x => { toFrames x with st := .up }) (relaned l lanes s)) := by
  rw [doRetrained_lanes hl hst hlanes, hn]
  rfl

/-- A native link is judged by the IDENT that its neighbour sent before. -/
theorem doRetrained_native (hn : native s = true) (hident : (linkOf s l).nbDigest ≠ []) :
    doRetrained l lanes s = judgeLink l (replayed l lanes s) := by
  rw [doRetrained_lanes hl hst hlanes, hn, nbDigest_replayed, List.isEmpty_eq_false_iff.2 hident]
  rfl

end

/-- Settles O34: each command meets a link in the state that it acts on; an end of a retrain is judged as an IDENT is. -/
theorem linkStates : Obligations.LinkStates := by
  intro l s hs hl
  refine ⟨fun hpower hd hst => ?partner,
    fun lanes hst => ⟨fun _ => ?noLane, fun hlanes hn => ?native, fun hlanes hn => ?ethernet⟩,
    fun hdown hoff => ?loss, fun hc => ⟨fun hlanes => ?lastLane, fun hlanes => ?oneLane, fun hn => ?retrain⟩,
    fun hst => ⟨?timeout, ?failed, fun lanes hlanes => ⟨fun hn => ?frames, fun hn hident => ⟨fun hcause => ?agrees,
      fun cause hcause => ?differs⟩⟩⟩⟩
  case partner => exact exec_alive rfl hs (doPartner_down hl hpower hd hst)
  case noLane => exact exec_alive rfl hs (doTrained_none hl hst)
  case native => exact exec_alive rfl hs (doTrained_native hl hst hlanes hn)
  case ethernet => exact exec_alive rfl hs (doTrained_ethernet hl hst hlanes hn)
  case loss => exact exec_alive rfl hs (doLoss_live hl hdown hoff)
  case lastLane => exact exec_alive rfl hs ((doLane_carrying hc).trans (if_pos hlanes))
  case oneLane => exact exec_alive rfl hs ((doLane_carrying hc).trans (if_neg (Nat.not_le.2 hlanes)))
  case retrain => exact exec_alive rfl hs ((doRetrain_own hn).trans (askRetrain_carrying hc hn))
  case timeout => exact exec_alive rfl hs (doRetrainTimeout_retraining hl hst)
  case failed => exact exec_alive rfl hs (doRetrained_none hl hst)
  case frames => exact exec_alive rfl hs (doRetrained_ethernet hl hst hlanes hn)
  case agrees => exact exec_alive rfl hs ((doRetrained_native hl hst hlanes hn hident).trans (judgeLink_agrees hcause))
  case differs => exact exec_alive rfl hs ((doRetrained_native hl hst hlanes hn hident).trans (judgeLink_differs hcause))

/-! ### Flits -/

theorem doReplayTimeout_carrying {l : Nat} {s : State} (hc : carrying s l = true) (hn : native s = true) :
    doReplayTimeout l s = resendAll l 64 s := by
  rw [doReplayTimeout, hc, hn]
  rfl

/-- Settles O35: a received flit fails its checks, or is good and is met by its distance from the expected number. -/
theorem linkFlits : Obligations.LinkFlits := by
  intro l h m sp q s hs hc hn x t
  refine ⟨fun hbad i hi => ?failed, fun hg => ⟨fun hseq => ?data, fun hseq => ?retrain, fun hold i hi => ?before,
    fun hseq hnew hd i hi => ?gap, ?idle, fun hfew => ?nak, fun hlimit => ?nakLimit⟩, fun hnone => ?quiet, fun hsome => ?replay⟩
  case failed =>
    rcases List.mem_append.1 hi with hplain | hnumbered
    · simp only [List.mem_cons, List.not_mem_nil, or_false] at hplain
      rcases hplain with rfl | rfl
      all_goals exact exec_alive rfl hs (receiveFlit_failed hc hn hbad)
    · obtain ⟨f, hf⟩ := exec_numberedFlit hs hn hnumbered
      rw [hf, numbered, receiveFlit_failed hc hn hbad]
  case data => exact exec_alive rfl hs (numbered_inOrder hc hn hg hseq)
  case retrain =>
    have hc' : carrying (flitTaken l h s) l = true := (carrying_flitTaken l h s).trans hc
    exact exec_alive rfl hs ((doRetrain_received hn).trans ((numbered_inOrder hc hn hg hseq).trans
      (congrArg (flitDone l) (startRetrain_carrying hc'))))
  case before =>
    obtain ⟨f, hf⟩ := exec_numberedFlit hs hn hi
    rw [hf, numbered_before hc hn hg hold]
  case gap =>
    obtain ⟨f, hf⟩ := exec_numberedFlit hs hn hi
    rw [hf, numbered_gap hc hn hg hseq hnew hd]
  case idle => exact exec_alive rfl hs (receiveFlit_good hc hn hg)
  case nak => exact exec_alive rfl hs ((receiveFlit_good hc hn hg).trans (congrArg (afterFlit l) (if_neg (Nat.not_le.2 hfew))))
  case nakLimit => exact exec_alive rfl hs ((receiveFlit_good hc hn hg).trans (congrArg (afterFlit l) (if_pos hlimit)))
  case quiet => exact exec_alive rfl hs ((doReplayTimeout_carrying hc hn).trans (if_pos (List.isEmpty_iff.2 hnone)))
  case replay =>
    exact exec_alive rfl hs ((doReplayTimeout_carrying hc hn).trans (if_neg fun he => hsome (List.isEmpty_iff.1 he)))

end Sys2Proof.Machine
end
section
/-! SUPPORT. Forwarding, underruns and speed changes of a native link (R251–R257). -/
namespace Sys2Proof.Machine

/-! ### Forwarded packets (R251, R253, R254) -/

/-- The module once a congestion mark of a packet is counted on link l. -/
def marked (l : Nat) (p : Packet) (s : State) : State := linkCount l 144 (if p.ce then 1 else 0) s

/-- The same once a packet to be forwarded is counted too. -/
def forwardCounted (l : Nat) (p : Packet) (s : State) : State := linkCount l 152 1 (linkCount l 24 p.payload.length (marked l p s))

/-- A forwarded packet goes on sprayed, or in the ordered channel, as its class and the channel that it came in have it. -/
def forwardOn (l : Nat) (p : Packet) (s : State) : State :=
  if p.hdr.cls = 1 && (linkOf s l).rxVc ≠ some 0 then sendSprayed (l / 6) p s
  else if p.hdr.cls = 1 then sendOrdered 0 (l / 6) (some l) p s
  else sendOrdered p.hdr.cls.toNat (packetTile p (l / 6)) (some l) p s

theorem doForward_checked {l : Nat} {p : Packet} {s : State} (hl : l < 24) (hn : native s = true)
    (hup : linkUp s (p.hdr.cls == 3) l = true) (hfab : p.hdr.dstFab.toNat ≠ fabricId s) : doForward l p s =
    if (!p.intact) = true then linkCount l 120 1 (linkCount l 104 1 (marked l p s))
    else if headerBroken p = true then linkCount l 120 1 (marked l p s)
    else forwardOn l p (forwardCounted l p s) := by
  have hn' : ∀ n, native (linkCount l 144 n s) = true := fun n => (native_of_still (still_linkCount ..)).trans hn
  have hbroken : headerBroken { p with link := l } = headerBroken p := rfl
  simp only [doForward, arrive, hn, hn', hup, hfab, hbroken, Nat.not_le.2 hl, Bool.not_true, decide_false, Bool.or_self,
    Bool.false_and, Bool.false_eq_true, if_false, Bool.true_and]
  rfl

section
variable {l : Nat} {p : Packet} {s : State}

theorem forwardOn_sprayed (hcls : p.hdr.cls = 1) (hvc : (linkOf s l).rxVc ≠ some 0) :
    forwardOn l p s = sendSprayed (l / 6) p s := by
  simp only [forwardOn, hcls, hvc, ne_eq, not_false_eq_true, decide_true, Bool.and_self, if_true]

theorem forwardOn_escaped (hcls : p.hdr.cls = 1) (hvc : (linkOf s l).rxVc = some 0) :
    forwardOn l p s = sendOrdered 0 (l / 6) (some l) p s := by
  simp only [forwardOn, hcls, hvc, ne_eq, not_true_eq_false, decide_false, Bool.and_false, Bool.false_eq_true, if_false, if_true]

theorem forwardOn_ordered (hcls : p.hdr.cls ≠ 1) :
    forwardOn l p s = sendOrdered p.hdr.cls.toNat (packetTile p (l / 6)) (some l) p s := by
  simp only [forwardOn, hcls, decide_false, Bool.false_and, Bool.false_eq_true, if_false]

theorem rxVc_forwardCounted : (linkOf (forwardCounted l p s) l).rxVc = (linkOf s l).rxVc := by
  have hstill : still l (forwardCounted l p s) = still l s := by simp only [forwardCounted, marked, still_linkCount]
  exact congrArg (·.2.rxVc) hstill

theorem doEscape_waiting (hwait : (l / 6, p) ∈ s.sprayWait) :
    doEscape l p s = sendOrdered 0 (l / 6) none p { s with sprayWait := s.sprayWait.erase (l / 6, p) } := by
  simp only [doEscape, List.contains_iff_mem.2 hwait, Bool.not_true, Bool.false_eq_true, if_false]

end

/-! ### Underruns (R257) -/

theorem cutThrough_le (step : Nat) (p : Packet) : cutThrough step p ≤ 32 + p.payload.length := by
  unfold cutThrough
  split
  · exact Nat.le_refl _
  · exact Nat.min_le_left ..

/-- Link l once the packet that it sends has run dry after k bytes: it is stomped where it was sent, and waits whole, in front. -/
def underrun (l : Nat) (w : LinkWait) (k : Nat) (s : State) : State :=
  updLink l (fun x => { x with
    ctStep := min 5 (x.ctStep + 1), ctPackets := 0, packets := x.packets + 1, last := none
    out := if native s then x.out.map (stompOut w.id k)
      else (cutLast (cutFrame (frameBody s l w.pkt) (66 + k)) x.out.reverse).reverse
    replay := x.replay.map (stompFlit w.id k)
    backlog := (x.backlog.filter (·.id == w.id)).map (fun u => { u with stomp := some k }) ++
      { w with id := x.packets, sent := 0 } :: x.backlog.filter (·.id != w.id) }) (freshVal s).2

theorem doUnderrun_sending {l : Nat} {w : LinkWait} {s : State} (hl : l < 24) (hup : linkUp s true l = true)
    (hw : sending (linkOf s l) = some w) (hsent : w.sent ≤ 32 + w.pkt.payload.length) :
    ∃ k, cutThrough (linkOf s l).ctStep w.pkt ≤ k ∧ w.sent ≤ k ∧ k ≤ 32 + w.pkt.payload.length ∧
      doUnderrun l s = pumpLink l (linkCount l 96 1 (underrun l w k s)) := by
  have hcut := cutThrough_le (linkOf s l).ctStep w.pkt
  have hdrawn := Nat.mod_lt (freshVal s).1.toNat
    (y := 32 + w.pkt.payload.length + 1 - max (cutThrough (linkOf s l).ctStep w.pkt) w.sent) (by omega)
  refine ⟨max (cutThrough (linkOf s l).ctStep w.pkt) w.sent + (freshVal s).1.toNat %
    (32 + w.pkt.payload.length + 1 - max (cutThrough (linkOf s l).ctStep w.pkt) w.sent), by omega, by omega, by omega, ?_⟩
  simp only [doUnderrun, hup, hw, Nat.not_le.2 hl, decide_false, Bool.not_true, Bool.or_self, Bool.false_eq_true, if_false]
  rfl

theorem doStepDown_few {l : Nat} {s : State} (hfew : (linkOf s l).ctPackets < 2 ^ 20) : doStepDown l s = s := by
  simp only [doStepDown, hfew, decide_true, Bool.or_true, if_true]

theorem doStepDown_many {l : Nat} {s : State} (hl : l < 24) (hmany : 2 ^ 20 ≤ (linkOf s l).ctPackets) : doStepDown l s =
    updLink l (fun x => { x with ctPackets := 0, ctStep := max (odGet s 0x3100 8) ((linkOf s l).ctStep - 1) }) s := by
  simp only [doStepDown, Nat.not_le.2 hl, Nat.not_lt.2 hmany, decide_false, Bool.or_self, Bool.false_eq_true, if_false]
  rfl

/-! ### Speed changes (R256) -/

theorem speedLink_flitTaken (l : Nat) (h : FlitHdr) (s : State) : speedLink (flitTaken l h s) l = speedLink s l := by
  rw [speedLink, speedLink, native_flitTaken, st_flitTaken]

/-- An update of a link is known by what it makes of that link. -/
theorem updLink_congr {l : Nat} {f g : Link → Link} {s : State} (h : f (linkOf s l) = g (linkOf s l)) :
    updLink l f s = updLink l g s :=
  congrArg (fun x => { s with links := sset {} s.links l x }) h

section
variable {l : Nat} {s : State} (hs : speedLink s l = true)
include hs

/-- A link that takes part in speed changes exchanges flits. -/
theorem carrying_of_speedLink : carrying s l = true ∧ native s = true := by
  simp only [speedLink, Bool.and_eq_true, decide_eq_true_eq] at hs
  obtain ⟨⟨hl, hn⟩, hst⟩ := hs
  exact ⟨by simp [carrying, linkRuns, hl, hst], hn⟩

theorem answerSpeed_granted {t : BitVec 2} (ht : t ≠ 3) (hgrant : t = 0 ∨ refuseSpeed s (linkOf s l) = false) : answerSpeed l t s =
    linkCount l 80 1 (updLink l (fun z => { z with
      lowered := t.toNat, speedAsked := none, switchAt := none, sinceRise := if t = 0 then s.time + 1 else z.sinceRise })
      (sendLinkctl l (.speedAck t ((linkOf s l).txSeq + 1)) s)) := by
  have htime : (sendLinkctl l (.speedAck t ((linkOf s l).txSeq + 1)) s).time = s.time :=
    congrArg (·.1.time) (still_sendLinkctl ..)
  have hpass : (decide (t ≠ 0) && (refuseSpeed s (linkOf s l) || decide (t = 3))) = false := by
    rcases hgrant with h0 | hgrant
    · simp [h0]
    · rw [hgrant, decide_eq_false ht, Bool.or_self, Bool.and_false]
  simp only [answerSpeed, hs, hpass, htime, Bool.not_true, Bool.false_eq_true, if_false]

theorem answerSpeed_refused {t : BitVec 2} (ht : t ≠ 0) (hrefuse : t = 3 ∨ refuseSpeed s (linkOf s l) = true) :
    answerSpeed l t s = linkCount l 88 1 (sendLinkctl l (.speedRefuse t) s) := by
  have hstop : (decide (t ≠ 0) && (refuseSpeed s (linkOf s l) || decide (t = 3))) = true := by
    rcases hrefuse with h3 | hrefuse
    · simp [h3]
    · rw [hrefuse, decide_eq_true ht, Bool.true_or, Bool.and_self]
  simp only [answerSpeed, hs, hstop, Bool.not_true, Bool.false_eq_true, if_false, if_true]

theorem doLowerWindow_asks {util : Nat} (hmode : odGet s 0x3100 4 = 1) (hquiet : util < odGet s 0x3100 6)
    (hfull : (linkOf s l).lowered = 0) (hfree : (linkOf s l).speedAsked = none) (hlanes : (linkOf s l).lanes = 2) :
    doLowerWindow l util s =
      askSpeed l (if odGet s 0x3100 5 = 0 then 1 else 2) (updLink l (fun x => { x with util := util }) s) := by
  have hod : ∀ k, odGet (updLink l (fun x => { x with util := util }) s) 0x3100 k = odGet s 0x3100 k := fun _ => rfl
  simp only [doLowerWindow, hs, hod, hmode, hquiet, hfull, hfree, hlanes, Bool.not_true, Bool.false_eq_true, if_false,
    decide_true, Option.isNone_none, Bool.and_self, if_true]

theorem doLowerWindow_busy {util : Nat} (hbusy : odGet s 0x3100 6 ≤ util) :
    doLowerWindow l util s = updLink l (fun x => { x with util := util }) s := by
  have hod : odGet (updLink l (fun x => { x with util := util }) s) 0x3100 6 = odGet s 0x3100 6 := rfl
  simp only [doLowerWindow, hs, hod, Nat.not_lt.2 hbusy, decide_false, Bool.and_false, Bool.false_and, Bool.not_true,
    Bool.false_eq_true, if_false]

theorem doRaise_lowered (hlow : (linkOf s l).lowered ≠ 0) (hask : (linkOf s l).speedAsked ≠ some 0) :
    doRaise l s = askSpeed l 0 s := by
  simp only [doRaise, hs, hlow, hask, Bool.not_true, decide_false, Bool.or_self, Bool.false_eq_true, if_false]

end

/-- Settles O36: a packet passes its checks one after the other; an answer to a speed request finds the link as the request left
it. -/
theorem linkForwardingAndSpeed : Obligations.LinkForwardingAndSpeed := by
  refine ⟨fun l p s hs hl => ⟨fun hn hup hfab => ?forward, fun hwait => ?escape, fun w hup hw hsent => ?underrun, fun hfew => ?few,
    fun hmany => ?many⟩, fun l h t s hs hspeed => ?speed⟩
  case forward =>
    have hchecked := doForward_checked hl hn hup hfab
    have hon (hwhole : p.intact = true) (hgood : headerBroken p = false) :
        doForward l p s = forwardOn l p (forwardCounted l p s) :=
      hchecked.trans (by rw [if_neg (by simp [hwhole]), if_neg (by simp [hgood])])
    refine ⟨fun hcut => ?stomped, fun hwhole hbroken => ?broken, fun hwhole hgood => ⟨fun hcls hvc => ?sprayed,
      fun hcls hvc => ?escaped, fun hcls => ?ordered⟩⟩
    case stomped => exact exec_alive rfl hs (hchecked.trans (if_pos (by simp [hcut])))
    case broken => exact exec_alive rfl hs (hchecked.trans (by rw [if_neg (by simp [hwhole]), if_pos hbroken]; rfl))
    case sprayed =>
      have hvc' : (linkOf (forwardCounted l p s) l).rxVc ≠ some 0 := fun he => hvc (rxVc_forwardCounted.symm.trans he)
      exact exec_alive rfl hs ((hon hwhole hgood).trans (forwardOn_sprayed hcls hvc'))
    case escaped => exact exec_alive rfl hs ((hon hwhole hgood).trans (forwardOn_escaped hcls (rxVc_forwardCounted.trans hvc)))
    case ordered => exact exec_alive rfl hs ((hon hwhole hgood).trans (forwardOn_ordered hcls))
  case escape => exact exec_alive rfl hs (doEscape_waiting hwait)
  case underrun =>
    obtain ⟨k, hcut, hpast, hend, hdo⟩ := doUnderrun_sending hl hup hw hsent
    exact ⟨k, hcut, hpast, hend, exec_alive rfl hs hdo⟩
  case few => exact exec_alive rfl hs (doStepDown_few hfew)
  case many => exact exec_alive rfl hs (doStepDown_many hl hmany)
  case speed =>
    obtain ⟨hc, hn⟩ := carrying_of_speedLink hspeed
    have hspeed' : speedLink (flitTaken l h s) l = true := (speedLink_flitTaken l h s).trans hspeed
    refine ⟨fun hg hseq => ⟨fun ht hgrant => ?granted, fun ht hrefuse => ?refused, fun q hask => ?ack, fun hask => ?ended⟩,
      fun util => ⟨fun hmode hquiet hfull hfree hlanes => ?quiet, fun hbusy => ?busy⟩, fun hlow hask => ?raise⟩
    case granted =>
      exact exec_alive rfl hs ((numbered_inOrder hc hn hg hseq).trans
        (congrArg (flitDone l) (answerSpeed_granted hspeed' ht hgrant)))
    case refused =>
      exact exec_alive rfl hs ((numbered_inOrder hc hn hg hseq).trans
        (congrArg (flitDone l) (answerSpeed_refused hspeed' ht hrefuse)))
    case ack =>
      exact exec_alive rfl hs ((numbered_inOrder hc hn hg hseq).trans
        (congrArg (flitDone l) (updLink_congr (if_pos ((speedAsked_flitTaken l h s).trans hask)))))
    case ended =>
      refine exec_alive rfl hs ((numbered_inOrder hc hn hg hseq).trans (congrArg (flitDone l) (if_neg ?_)))
      rw [speedAsked_flitTaken]
      simpa using hask
    case quiet => exact exec_alive rfl hs (doLowerWindow_asks hspeed hmode hquiet hfull hfree hlanes)
    case busy => exact exec_alive rfl hs (doLowerWindow_busy hspeed hbusy)
    case raise => exact exec_alive rfl hs (doRaise_lowered hspeed hlow hask)

end Sys2Proof.Machine
end
section
/-! SUPPORT. The agreement of a native link with its neighbour, and the digests of other modules (R264, R265). -/
namespace Sys2Proof.Machine

/-! ### IDENT (R264) -/

/-- The module once a neighbour's IDENT is recorded. -/
def identNoted (l : Nat) (m : IdentMsg) (s : State) : State :=
  updLink l (fun x => { x with nbFab := if m.unassigned then 0xFF else m.fabric, nbLink := m.link, nbDigest := m.digest }) s

/-- The same once it is answered with this end's own, where its digest is new on a link past CONFIG. -/
def identAnswered (l : Nat) (m : IdentMsg) (s : State) : State :=
  if (linkOf s l).st ≠ .config && (linkOf s l).nbDigest ≠ m.digest then sendIdent l (identNoted l m s) else identNoted l m s

theorem takeIdent_answered (l : Nat) (m : IdentMsg) (s : State) : takeIdent l m s = identDone l (identAnswered l m s) := rfl

theorem still_identAnswered (l : Nat) (m : IdentMsg) (s : State) :
    still l (identAnswered l m s) = still l (identNoted l m s) := by
  unfold identAnswered
  split
  · exact still_sendLinkctl ..
  · rfl

/-- The neighbour that an answered IDENT has left in the link's record. -/
theorem neighbour_identAnswered (l : Nat) (m : IdentMsg) (s : State) :
    (linkOf (identAnswered l m s) l).nbFab = (if m.unassigned then 0xFF else m.fabric) ∧
      (linkOf (identAnswered l m s) l).nbLink = m.link ∧ (linkOf (identAnswered l m s) l).nbDigest = m.digest := by
  have hstill := (still_identAnswered l m s).trans (still_updLink ..)
  exact ⟨congrArg (·.2.nbFab) hstill, congrArg (·.2.nbLink) hstill, congrArg (·.2.nbDigest) hstill⟩

/-- An accepted IDENT finds the link as the flit before it left it. -/
theorem identAnswered_flitTaken (l : Nat) (h : FlitHdr) (m : IdentMsg) (s : State) : identAnswered l m (flitTaken l h s) =
    if (linkOf s l).st ≠ .config ∧ (linkOf s l).nbDigest ≠ m.digest then sendIdent l (identNoted l m (flitTaken l h s))
    else identNoted l m (flitTaken l h s) := by
  rw [identAnswered, st_flitTaken, nbDigest_flitTaken]
  simp only [Bool.and_eq_true, decide_eq_true_eq]

theorem identCause_unassigned {l : Nat} {m : IdentMsg} (hm : m.unassigned = true) (s : State) :
    identCause (identAnswered l m s) l = some (if m.digest ≠ configDigest (identAnswered l m s) then 1 else 2) := by
  obtain ⟨hfab, -, hdigest⟩ := neighbour_identAnswered l m s
  rw [hm, if_pos rfl] at hfab
  simp only [identCause, hfab, hdigest, decide_true, Bool.or_true, Bool.true_or, if_true]
  split <;> rfl

theorem identDone_carried {l : Nat} {s : State} (hany : anyLink s = true) : identDone l s = judgeLink l s := by
  simp only [identDone, hany, if_true]

theorem identDone_first {l : Nat} {s : State} (hany : anyLink s = false) : identDone l s = doAnnounce (judgeLink l s) := by
  simp only [identDone, hany, Bool.false_eq_true, if_false]

/-! ### Digests (R265) -/

theorem doAnnounce_carried {s : State} (hset : fabricSet s = true) (hany : anyLink s = true) : doAnnounce s =
    ((List.range (odGet s 0x3100 3)).filter (· ≠ fabricId s)).foldl (fun s f => netSend 0 (digestPacket s f) s) s := by
  simp only [doAnnounce, hset, hany, Bool.not_true, Bool.or_self, Bool.false_eq_true, if_false]

theorem doAnnounce_alone {s : State} (hany : anyLink s = false) : doAnnounce s = s := by
  simp only [doAnnounce, hany, Bool.not_false, Bool.or_true, if_true]

theorem doDigest_other {p : Packet} {s : State} (hop : p.hdr.op = 0x06) (hlen : p.payload.length = 40)
    (hdst : p.hdr.dstFab.toNat = fabricId s) (hsrc : p.hdr.srcFab.toNat ≠ fabricId s) :
    doDigest p s = pumpLinks (noteDigest p.hdr.srcFab.toNat (p.payload.drop 8) s) := by
  simp [doDigest, hop, hlen, hdst, hsrc]

/-- Settles O37: an accepted IDENT is recorded, answered where its digest is new, and judged; the first link to carry packets
announces. -/
theorem linkAgreement : Obligations.LinkAgreement := by
  intro s hs
  refine ⟨fun l h m hc hn hg hseq => ?ident, fun hset hany => ?announce, fun hany => ?alone,
    fun p hpower hgood hop hlen hdst hsrc => ?digest⟩
  case ident =>
    intro fab u t up
    have ht : identAnswered l m (flitTaken l h s) = t := identAnswered_flitTaken l h m s
    have hexec : exec (.ident l ⟨h, m⟩) s = .next (flitDone l (identDone l t)) :=
      exec_alive rfl hs ((numbered_inOrder hc hn hg hseq).trans (by rw [takeIdent_answered, ht]))
    refine ⟨fun hcause hany => ?agrees, fun hcause hany => ?first, fun cause hcause hany => ?differs, fun hm => ?unassigned⟩
    case agrees => rw [hexec, identDone_carried hany, judgeLink_agrees hcause]
    case first => rw [hexec, identDone_first hany, judgeLink_agrees hcause]
    case differs =>
      obtain ⟨hfab, hlink, -⟩ := neighbour_identAnswered l m (flitTaken l h s)
      rw [ht] at hfab hlink
      rw [hexec, identDone_carried hany, judgeLink_differs hcause, hfab, hlink]
    case unassigned => exact ht ▸ identCause_unassigned hm (flitTaken l h s)
  case announce => exact exec_alive rfl hs (doAnnounce_carried hset hany)
  case alone => exact exec_alive rfl hs (doAnnounce_alone hany)
  case digest =>
    have hfab : fabricId (packetSeen p s) = fabricId s := by
      rw [packetSeen_eq]
      rfl
    have hlinks : onLinks (arrive p (doDigest p)) s = doDigest p (packetSeen p s) := by
      rw [onLinks, if_pos hpower, arrive_good hgood]
    exact exec_alive rfl hs (hlinks.trans (doDigest_other hop hlen (hdst.trans hfab.symm) fun he => hsrc (he.trans hfab)))

end Sys2Proof.Machine
end
section
/-! SUPPORT. Links of the Ethernet mode: frames, PFC, LLDP and Neighbor Advertisement (R258–R261). -/
namespace Sys2Proof.Machine

/-- The receive buffer of a priority now holds `fill` bytes. -/
def filled (l : Nat) (control : Bool) (fill : Nat) (s : State) : State :=
  updLink l (fun x => { x with rxFill := sset 0 x.rxFill control.toNat fill }) s

theorem rxBuffer_toNat (control : Bool) : rxBuffer control.toNat = if control then 64 * 1024 else 192 * 1024 := by
  cases control <;> rfl

section
variable {l : Nat} {s : State} (he : ethLink s l = true)
include he

/-! ### Frames (R258, R259) -/

theorem doEthFrame_ethernet (f : EthFrame) :
    doEthFrame l f s = linkCount l 120 (if frameOk s l f then 0 else 1) (countFrame l f.fcsOk s) := by
  simp only [doEthFrame, he, Bool.not_true, Bool.false_eq_true, if_false]

theorem doEthFrame_good {f : EthFrame} (hok : frameOk s l f = true) (hfcs : f.fcsOk = true) :
    doEthFrame l f s = linkCount l 8 1 s := by
  rw [doEthFrame_ethernet he, hok, hfcs]
  rfl

theorem doEthFrame_discarded {f : EthFrame} (hbad : frameOk s l f = false) :
    doEthFrame l f s = linkCount l 120 1 (if f.fcsOk then linkCount l 8 1 s else linkCount l 48 1 s) := by
  rw [doEthFrame_ethernet he, hbad]
  rfl

/-! ### PFC (R260) -/

theorem doPfcSend_ethernet (control : Bool) (fill : Nat) : doPfcSend l control fill s =
    if 3 * (if control then 64 * 1024 else 192 * 1024) < 4 * fill ∧ sget 0 (linkOf s l).pfcSent control.toNat = 0 then
      sendPfc l control.toNat 0xFFFF (filled l control fill s)
    else if 2 * fill < (if control then 64 * 1024 else 192 * 1024) ∧ sget 0 (linkOf s l).pfcSent control.toNat = 1 then
      sendPfc l control.toNat 0 (filled l control fill s)
    else filled l control fill s := by
  simp only [doPfcSend, he, rxBuffer_toNat, linkOf_updLink_self, Bool.not_true, Bool.false_eq_true, if_false, Bool.and_eq_true,
    decide_eq_true_eq, filled]

theorem doPfcRepeat_ethernet (control : Bool) : doPfcRepeat l control s =
    if sget 0 (linkOf s l).pfcSent control.toNat = 0 ∨
      2 * sget 0 (linkOf s l).rxFill control.toNat ≤ (if control then 64 * 1024 else 192 * 1024) then s
    else sendPfc l control.toNat 0xFFFF s := by
  simp only [doPfcRepeat, he, rxBuffer_toNat, Bool.not_true, Bool.false_or, Bool.or_eq_true, decide_eq_true_eq]

theorem doPfcExpiry_ethernet (control : Bool) : doPfcExpiry l control s = setPause l control.toNat 0 s := by
  simp only [doPfcExpiry, he, Bool.not_true, Bool.false_eq_true, if_false]

theorem doPfcReceive_ethernet (prio : Nat) (quanta : Word16) : doPfcReceive l prio quanta s =
    let t := linkCount l 8 1 (linkCount l 136 1 s)
    if prio = odGet s 0x3100 0xD then setPause l 0 quanta.toNat t
    else if prio = odGet s 0x3100 0xE then setPause l 1 quanta.toNat t
    else t := by
  have hpcp : ∀ c, pcpOf (linkCount l 8 1 (linkCount l 136 1 s)) c = pcpOf s c := fun _ => rfl
  simp only [doPfcReceive, he, hpcp, Bool.not_true, Bool.false_eq_true, if_false]
  rfl

/-! ### LLDP and Neighbor Advertisement (R261) -/

theorem doLldpSend_ethernet : doLldpSend l s = linkCount l 0 1 (linkEmit l (.lldp (lldpBytes s l)) s) := by
  simp only [doLldpSend, he, Bool.not_true, Bool.false_eq_true, if_false]

theorem doLldpReceive_ethernet (fabric link : BitVec 8) (digest : Bytes) : doLldpReceive l fabric link digest s =
    linkCount l 8 1 (updLink l (fun x => { x with nbFab := fabric, nbLink := link, nbDigest := digest }) s) := by
  simp only [doLldpReceive, he, Bool.not_true, Bool.false_eq_true, if_false]

theorem doSolicit_ethernet (target : BitVec 128) : doSolicit l target s =
    if target = linkAddr s l then linkCount l 0 1 (linkEmit l (.advert target) (linkCount l 8 1 s)) else linkCount l 8 1 s := by
  simp only [doSolicit, he, Bool.not_true, Bool.false_eq_true, if_false]

end

/-- Settles O38: each command of an Ethernet link that carries frames, by the tests that its rule names. -/
theorem ethernetLinks : Obligations.EthernetLinks := by
  intro l s hs he
  refine ⟨fun f => ?frames, fun control fill => ?pfc, fun prio quanta => ?pauses, ?lldpSent, fun fabric link digest => ?lldp,
    ?solicited, fun target htarget => ?other⟩
  case frames =>
    intro good
    have hgood : good ↔ frameOk s l f = true := by
      simp only [good, frameOk, Bool.and_eq_true, Bool.or_eq_true, decide_eq_true_eq, and_assoc, or_assoc]
    have hfcs : good → f.fcsOk = true := fun ⟨_, _, _, _, hfcs, _⟩ => hfcs
    exact ⟨fun h => exec_settle rfl hs (doEthFrame_good he (hgood.1 h) (hfcs h)),
      fun h => exec_settle rfl hs (doEthFrame_discarded he (Bool.eq_false_iff.2 fun hok => h (hgood.2 hok)))⟩
  case pfc =>
    intro sent buf t
    have hsend := doPfcSend_ethernet he control fill
    have hrepeat := doPfcRepeat_ethernet he control
    refine ⟨fun habove hnone => ?above, fun hbelow hone => ?below, fun hlow hhigh => ?between, fun hsent hfull => ?again,
      fun hdone => ?done, ?expiry⟩
    case above => exact exec_alive rfl hs (hsend.trans (if_pos ⟨habove, hnone⟩))
    case below =>
      have hnone : ¬ (3 * buf < 4 * fill ∧ sent = 0) := by omega
      exact exec_alive rfl hs (hsend.trans ((if_neg hnone).trans (if_pos ⟨hbelow, hone⟩)))
    case between =>
      have hbelow : ¬ (3 * buf < 4 * fill ∧ sent = 0) := by omega
      have habove : ¬ (2 * fill < buf ∧ sent = 1) := by omega
      exact exec_alive rfl hs (hsend.trans ((if_neg hbelow).trans (if_neg habove)))
    case again =>
      have hon : ¬ (sent = 0 ∨ 2 * sget 0 (linkOf s l).rxFill control.toNat ≤ buf) := by omega
      exact exec_alive rfl hs (hrepeat.trans (if_neg hon))
    case done => exact exec_alive rfl hs (hrepeat.trans (if_pos hdone))
    case expiry => exact exec_alive rfl hs (doPfcExpiry_ethernet he control)
  case pauses =>
    have hpause := doPfcReceive_ethernet he prio.toNat quanta
    refine ⟨fun hdata => ?data, fun hcontrol hne => ?control, fun hdata hcontrol => ?neither⟩
    case data => exact exec_alive rfl hs (hpause.trans (if_pos hdata))
    case control =>
      exact exec_alive rfl hs (hpause.trans ((if_neg fun hdata => hne (hcontrol.symm.trans hdata)).trans (if_pos hcontrol)))
    case neither => exact exec_alive rfl hs (hpause.trans ((if_neg hdata).trans (if_neg hcontrol)))
  case lldpSent => exact exec_alive rfl hs (doLldpSend_ethernet he)
  case lldp => exact exec_alive rfl hs (doLldpReceive_ethernet he fabric link digest)
  case solicited => exact exec_alive rfl hs ((doSolicit_ethernet he _).trans (if_pos rfl))
  case other => exact exec_alive rfl hs ((doSolicit_ethernet he target).trans (if_neg htarget))

end Sys2Proof.Machine
end
section
/-! SUPPORT. Acknowledgements, NAKs and the timers of a queue pair (R262, R276, R279–R282). -/
namespace Sys2Proof.Machine

/-! ### Answers that reach their queue pair (R276, R279, R280) -/

/-- The queue pair once an ACK has lowered its rate, where it echoes congestion, and moved forward what its far end
reports complete. -/
def ackNoted (pkt : Packet) (b : Bytes) (s : State) : State :=
  let pre := BitVec.ofNat 32 (fieldNat b 4 4)
  updQp pkt.hdr.dstQp.toNat (fun x => { x with remPrefix := if (pre - x.remPrefix).toNat < 2 ^ 31 then pre else x.remPrefix })
    (if pkt.hdr.ece then lowerRate pkt.hdr.dstQp.toNat s else s)

/-- What a NAK of a packet that is still waited for comes to, by its code. -/
def nakTaken (q code : Nat) (psn : BitVec 24) (o : OutPkt) (s : State) : State :=
  if code = 4 then qpError q 1 2 o.pkt.hdr.msg.toNat psn.toNat s
  else if code = 5 then afterPkt q (freePsns q (· == psn) (refusedRemote q o s))
  else if code = 0 || 7 < code then s
  else odCount 0x2807 3 (if code = 6 then 1 else 0) (updOut q psn (fun o =>
    { o with nak := code, backoffUs := if o.backoffUs = 0 then 2 else min 64 (2 * o.backoffUs) }) s)

theorem nakTaken_backoff {code : Nat} (hcode : code ∈ [1, 2, 3, 6, 7]) (q : Nat) (psn : BitVec 24) (o : OutPkt) (s : State) :
    nakTaken q code psn o s = odCount 0x2807 3 (if code = 6 then 1 else 0) (updOut q psn (fun o =>
      { o with nak := code, backoffUs := if o.backoffUs = 0 then 2 else min 64 (2 * o.backoffUs) }) s) := by
  simp only [List.mem_cons, List.not_mem_nil, or_false] at hcode
  have h4 : code ≠ 4 := by omega
  have h5 : code ≠ 5 := by omega
  have hlisted : ¬ (code = 0 || 7 < code) = true := by
    rw [Bool.or_eq_true, decide_eq_true_eq, decide_eq_true_eq]
    omega
  rw [nakTaken, if_neg h4, if_neg h5, if_neg hlisted]

theorem outPkt_packetSeen (pkt : Packet) (s : State) (q : Nat) (psn : BitVec 24) :
    outPkt (packetSeen pkt s) q psn = outPkt s q psn := by
  rw [packetSeen_eq]
  rfl

section
variable {s : State} {pkt : Packet} {b : Bytes} (ha : AnswerNew s pkt b)
include ha

/-- In D0, an answer from a powered link has its effect once it is counted. -/
theorem exec_answer {i : Instr} {f : State → State} {t : State} (he : exec i s = settle (packetIn pkt f) s)
    (hf : f (packetSeen pkt s) = t) : exec i s = .next (pumpColls t) := by
  obtain ⟨⟨hs, -, hd0⟩, hlinks, hgood, -⟩ := ha
  have hd0' : (packetSeen pkt s).startup.dstate = 0 := by
    rw [packetSeen_eq]
    exact hd0
  have hawake : wakeD1 (packetSeen pkt s) = packetSeen pkt s := if_neg (by simp [hd0'])
  rw [he, settle_next _ _ hs, packetIn, onLinks, if_pos hlinks, arrive_good hgood, hawake, ite_self, hf]

theorem answerFor_packetSeen : answerFor (packetSeen pkt s) pkt = some b := by
  obtain ⟨-, -, -, hfor⟩ := ha
  rw [packetSeen_eq]
  exact hfor

theorem doAck_answer (hop : pkt.hdr.op = 0x02) : doAck pkt (packetSeen pkt s) = afterPkt pkt.hdr.dstQp.toNat
    (pumpQp pkt.hdr.dstQp.toNat 256 (freePsns pkt.hdr.dstQp.toNat (ackCovers (BitVec.ofNat 24 (fieldNat b 0 4)) (b.drop 8))
      (ackNoted pkt b (packetSeen pkt s)))) := by
  simp only [doAck, hop, answerFor_packetSeen ha, ne_eq, not_true_eq_false, if_false, ackNoted]

theorem doNak_stale (hop : pkt.hdr.op = 0x03)
    (hout : outPkt s pkt.hdr.dstQp.toNat (BitVec.ofNat 24 (fieldNat b 4 4)) = none) :
    doNak pkt (packetSeen pkt s) = packetSeen pkt s := by
  simp only [doNak, hop, answerFor_packetSeen ha, outPkt_packetSeen, hout, ne_eq, not_true_eq_false, if_false]

theorem doNak_waited (hop : pkt.hdr.op = 0x03) {o : OutPkt}
    (hout : outPkt s pkt.hdr.dstQp.toNat (BitVec.ofNat 24 (fieldNat b 4 4)) = some o) : doNak pkt (packetSeen pkt s) =
    nakTaken pkt.hdr.dstQp.toNat (fieldNat b 0 1) (BitVec.ofNat 24 (fieldNat b 4 4)) o (packetSeen pkt s) := by
  simp only [doNak, hop, answerFor_packetSeen ha, outPkt_packetSeen, hout, ne_eq, not_true_eq_false, if_false, nakTaken]

end

/-! ### Timers (R279–R281) -/

/-- A command of the links of a module that has power on them. -/
theorem exec_onLinks {i : Instr} {s t : State} {f : State → State} (he : exec i s = alive (onLinks f) s) (hs : Alive s)
    (hpower : linksPowered s = true) (hf : f s = t) : exec i s = .next t :=
  exec_alive he hs ((if_pos hpower).trans hf)

theorem exec_settledOnLinks {i : Instr} {s t : State} {f : State → State} (he : exec i s = settle (onLinks f) s) (hs : Alive s)
    (hpower : linksPowered s = true) (hf : f s = t) : exec i s = .next (pumpColls t) :=
  exec_settle he hs ((if_pos hpower).trans hf)

theorem doAckTimer_due {q : Nat} {s : State} (hdue : (qpOf s q).ackDue = true) (hst : (qpOf s q).st = .ready) :
    doAckTimer q s = sendAck q s := by
  simp only [doAckTimer, hdue, hst, decide_true, Bool.and_self, if_true]

theorem doAckTimer_idle {q : Nat} {s : State} (hdue : (qpOf s q).ackDue = false) : doAckTimer q s = s := by
  simp only [doAckTimer, hdue, Bool.false_and, Bool.false_eq_true, if_false]

section
variable {q : Nat} {psn : BitVec 24} {o : OutPkt} {s : State} (hout : outPkt s q psn = some o)
include hout

theorem doNakLimit_naked (hnak : o.nak ≠ 0) : doNakLimit q psn s =
    qpError q 4 2 o.pkt.hdr.msg.toNat psn.toNat (postTrailGone q (postFarGone q s)) := by
  simp only [doNakLimit, hout, if_neg hnak]

variable (hst : (qpOf s q).st = .ready) (hdead : o.dead = false)
include hst hdead

theorem doNakRetry_naked (hnak : o.nak ≠ 0) (hfull : o.nak ≠ 6) : doNakRetry q psn s = netSend o.src o.pkt s := by
  simp [doNakRetry, resendPkt, hout, hst, hdead, hnak, hfull]

theorem doRetryTimeout_live : doRetryTimeout q psn s =
    if odGet s 0x3200 3 ≤ o.resends then qpError q 3 2 o.pkt.hdr.msg.toNat psn.toNat s
    else msgCount (qpOf s q).owner 3 1
      (netSend o.src o.pkt (updOut q psn (fun o => { o with resends := o.resends + 1 }) s)) := by
  simp only [doRetryTimeout, resendPkt, hout, hst, hdead, ne_eq, not_true_eq_false, decide_false, Bool.or_self,
    Bool.false_eq_true, if_false]

end

/-! ### Contexts and rates (R262, R282) -/

/-- A context whose bytes stand as they were written out comes back as it was. -/
theorem restoreQp_intact {q : Nat} {s : State} (hrest : (qpOf s q).restoring = true) (hst : (qpOf s q).st ≠ .free)
    (hroom : s.cacheOrder.length < 512)
    (hsaved : (qpOf s q).saved = [] ∨ readBytes s (qpTable s (qpOf s q).owner q + 64) 960 = (qpOf s q).saved.drop 64) :
    restoreQp q s = updQp q (fun x => { x with cached := true, restoring := false })
      { s with cacheOrder := q :: s.cacheOrder } := by
  have hspace : cacheRoom s = some s := if_pos hroom
  have hgood : ((qpOf s q).saved.isEmpty ||
      decide (readBytes s (qpTable s (qpOf s q).owner q + 64) 960 = (qpOf s q).saved.drop 64)) = true := by
    rw [Bool.or_eq_true, List.isEmpty_iff, decide_eq_true_eq]
    exact hsaved
  simp only [restoreQp, hrest, hst, hspace, hgood, Bool.not_true, decide_false, Bool.or_self, Bool.false_eq_true, if_false,
    if_true]

theorem doRateIncrease_live {q : Nat} {s : State} (hst : (qpOf s q).st ≠ .free) : doRateIncrease q s =
    updQp q (fun x => { x with rateMbps := min (x.rateMbps + odGet s 0x3100 0xF) 400000 }) s := if_neg hst

/-- Settles O41: an answer has its effect on the packets that its queue pair still waits for, and each timer on what it finds
there. -/
theorem answersAndTimers : Obligations.AnswersAndTimers := by
  refine ⟨fun s pkt b ha => ?answers, fun q s hs hpower => ?timers⟩
  case answers =>
    intro v q psn code
    refine ⟨fun hop => ?ack, fun hop => ⟨fun hout => ?stale, fun o hout =>
      ⟨fun hcode => ?broken, fun hcode => ?refused, fun hcode => ?backoff⟩⟩⟩
    case ack => exact exec_answer ha rfl (doAck_answer ha hop)
    case stale => exact exec_answer ha rfl (doNak_stale ha hop hout)
    case broken => exact exec_answer ha rfl ((doNak_waited ha hop hout).trans (if_pos hcode))
    case refused =>
      have hnot4 : code ≠ 4 := by omega
      exact exec_answer ha rfl ((doNak_waited ha hop hout).trans ((if_neg hnot4).trans (if_pos hcode)))
    case backoff => exact exec_answer ha rfl ((doNak_waited ha hop hout).trans (nakTaken_backoff hcode ..))
  case timers =>
    intro x
    have halive : Alive s := hs.1
    refine ⟨fun hdue hst => ?due, fun hdue => ?idle, fun psn o hout hst hdead =>
      ⟨fun hnak hfull => ?retry, fun hnak => ?nakLimit, fun hmost => ?silent, fun hfew => ?again⟩,
      fun hown hrest hst hroom hsaved => ?restored, fun hhost => ?byHost, fun hst => ?rate⟩
    case due => exact exec_onLinks rfl halive hpower (doAckTimer_due hdue hst)
    case idle => exact exec_onLinks rfl halive hpower (doAckTimer_idle hdue)
    case retry => exact exec_onLinks rfl halive hpower (doNakRetry_naked hout hst hdead hnak hfull)
    case nakLimit => exact exec_settledOnLinks rfl halive hpower (doNakLimit_naked hout hnak)
    case silent => exact exec_settledOnLinks rfl halive hpower ((doRetryTimeout_live hout hst hdead).trans (if_pos hmost))
    case again =>
      exact exec_settledOnLinks rfl halive hpower ((doRetryTimeout_live hout hst hdead).trans (if_neg (Nat.not_le.2 hfew)))
    case restored =>
      exact exec_hubAwake rfl hs ((if_neg (ne_true_of_eq_false hown)).trans (restoreQp_intact hrest hst hroom hsaved))
    case byHost => exact exec_hubAwake rfl hs (if_pos hhost)
    case rate => exact exec_onLinks rfl halive hpower (doRateIncrease_live hst)

end Sys2Proof.Machine
end

section
/-! SUPPORT. New SEND packets of a READY queue pair (R271–R278). -/
namespace Sys2Proof.Machine

section
variable {pkt : Packet} {q : Nat} {x : Qp} {b : Bytes} {s : State}

/-- A trailer that does not fit into its packet. -/
theorem newSend_short (htrail : pkt.hdr.trail = true) (hlen : b.length < 16) :
    newSend pkt q x b s = msgCount x.owner 8 1 s := by
  simp only [newSend, malformed, htrail, hlen, decide_true, Bool.and_self, if_true]

variable (hlen : pkt.hdr.trail = true → 16 ≤ b.length)
include hlen

theorem trailer_fits : (pkt.hdr.trail && decide (b.length < 16)) = false := by
  cases htrail : pkt.hdr.trail with
  | false => rfl
  | true => exact decide_eq_false (Nat.not_lt.2 (hlen htrail))

theorem newSend_complete (hdone : 2 ^ 31 ≤ (pkt.hdr.msg - x.rxPrefix).toNat ∨ pkt.hdr.msg ∈ x.rxDone) :
    newSend pkt q x b s = ackDrop q pkt.hdr.psn s := by
  have hcomplete : (decide (2 ^ 31 ≤ (pkt.hdr.msg - x.rxPrefix).toNat) || x.rxDone.contains pkt.hdr.msg) = true := by
    rwa [Bool.or_eq_true, decide_eq_true_eq, List.contains_iff_mem]
  simp only [newSend, trailer_fits hlen, hcomplete, Bool.false_eq_true, if_false, if_true]

/-! A packet of attempt i at a message within the window of 64 that is not complete yet. -/

variable {i : InMsg} (hahead : (pkt.hdr.msg - x.rxPrefix).toNat < 64) (hopen : pkt.hdr.msg ∉ x.rxDone)
  (hi : attemptOf x pkt.hdr.msg (pkt.hdr.psn - BitVec.ofNat 24 (pkt.hdr.off.toNat / 4096)) = some i)
include hahead hopen hi

omit hlen hi in
theorem message_incomplete :
    (decide (2 ^ 31 ≤ (pkt.hdr.msg - x.rxPrefix).toNat) || x.rxDone.contains pkt.hdr.msg) = false := by
  rw [Bool.or_eq_false_iff, decide_eq_false_iff_not, ← Bool.not_eq_true, List.contains_iff_mem]
  exact ⟨by omega, hopen⟩

theorem newSend_unposted (hpost : entryPosted s x pkt.hdr.msg = false) :
    newSend pkt q x b s = sendNak q 3 pkt.hdr.psn s := by
  simp only [newSend, trailer_fits hlen, message_incomplete hahead hopen, Nat.not_le.2 hahead, hi, hpost, Bool.not_false,
    Bool.false_eq_true, if_false, if_true]

variable (hpost : entryPosted s x pkt.hdr.msg = true)
include hpost

theorem newSend_placed {a : Nat}
    (ha : placeAt s x (recvEntry x pkt.hdr.msg.toNat) pkt.hdr.off.toNat (splitTrail pkt b).1.length = some a) :
    newSend pkt q x b s = placePkt q pkt i a (splitTrail pkt b).1 (splitTrail pkt b).2 s := by
  simp only [newSend, trailer_fits hlen, message_incomplete hahead hopen, Nat.not_le.2 hahead, hi, hpost, ha, Bool.not_true,
    Bool.false_eq_true, if_false]

theorem newSend_unplaced
    (ha : placeAt s x (recvEntry x pkt.hdr.msg.toNat) pkt.hdr.off.toNat (splitTrail pkt b).1.length = none) :
    newSend pkt q x b s = qpError q 2 2 pkt.hdr.msg.toNat pkt.hdr.psn.toNat
      (updQp q (fun x => { x with inMsgs := x.inMsgs.filter (·.id != pkt.hdr.msg) })
        (setRecvStatus x pkt.hdr.msg.toNat 3 (sendNak q 4 pkt.hdr.psn s))) := by
  simp only [newSend, trailer_fits hlen, message_incomplete hahead hopen, Nat.not_le.2 hahead, hi, hpost, ha, Bool.not_true,
    Bool.false_eq_true, if_false]

end

theorem exec_newSend {s : State} {pkt : Packet} {b : Bytes} (hn : PacketNew s false pkt b) (hop : pkt.hdr.op = 0x01) :
    exec (.send pkt) s = .next (pumpColls (afterPkt pkt.hdr.dstQp.toNat
      (newSend pkt pkt.hdr.dstQp.toNat (qpOf (met pkt s) pkt.hdr.dstQp.toNat) b (met pkt s)))) := by
  rw [exec_newPacket hn rfl, doSend, if_neg fun hne => hne hop, receive_new hn]

/-- Settles O40: the packet is taken as new; its trailer, its message's place in the window, its entry's post and its placement
are tested in this order. -/
theorem messagesPlaced : Obligations.MessagesPlaced := by
  intro s pkt b hn hop q t x m d
  rw [exec_newSend hn hop]
  refine ⟨fun htrail hshort => ?short, fun hlen => ⟨fun hdone => ?complete, fun hahead hopen i hi =>
    ⟨fun hpost => ?unposted, fun hpost => ⟨fun a ha => ?placed, fun ha => ?unplaced⟩⟩⟩⟩
  case short => rw [newSend_short htrail hshort]
  case complete => rw [newSend_complete hlen hdone]
  case unposted => rw [newSend_unposted hlen hahead hopen hi hpost]
  case placed => rw [newSend_placed hlen hahead hopen hi hpost ha]
  case unplaced => rw [newSend_unplaced hlen hahead hopen hi hpost ha]

end Sys2Proof.Machine
end
section
/-! SUPPORT. What a packet that leaves the device, an event or a write into host memory leaves alone: the whole of the module beyond
its links, its way to the hosts and to the management port, and their counters (R253, R293, R306, R308, R393). -/
namespace Sys2Proof.Machine

/-- The module without what a packet that leaves it or an event writes: links and the packets that wait for one, host ports, slots
and panels' event rings, the management port and its pin, counters of the object dictionary, and taints. Where `nodes` keeps the cores
and the queue pairs, this keeps every other field too, the knots among them. -/
def beyondSending (s : State) : State :=
  { s with links := [], sprayWait := [], noPath := [], ports := [], slots := [], panels := [], mgmt := State.reset.mgmt
           pins := State.reset.pins, od := [], taints := [], fresh := 0 }

/-! ### Writes into host memory -/

@[simp] theorem beyondSending_updPort (h : Nat) (f : Port → Port) (s : State) :
    beyondSending (updPort h f s) = beyondSending s := rfl

@[simp] theorem beyondSending_portCount (h o n : Nat) (s : State) : beyondSending (portCount h o n s) = beyondSending s := by
  unfold portCount
  split <;> rfl

@[simp] theorem beyondSending_portSend (h : Nat) (x : HostOut) (s : State) :
    beyondSending (portSend h x s) = beyondSending s := by
  unfold portSend
  extract_lets n
  split <;> simp

theorem beyondSending_taintStale (h w i e : Nat) (s : State) : beyondSending (taintStale h w i e s) = beyondSending s := by
  unfold taintStale
  split
  · split <;> rfl
  · rfl

theorem beyondSending_translate (h w x : Nat) (s : State) : beyondSending (translate h w x s).2 = beyondSending s := by
  unfold translate
  extract_lets b i t a e
  have ht : beyondSending t = beyondSending s := beyondSending_portCount ..
  split
  · exact beyondSending_taintStale ..
  · repeat' split
    all_goals exact ht

theorem beyondSending_of_outWrite {h w a : Nat} {d : Bytes} {s t : State} {b : Bool} (ht : outWrite h w a d s = (b, t)) :
    beyondSending t = beyondSending s := by
  have hbus := beyondSending_translate h w (windowOf a).2.2 s
  unfold outWrite at ht
  split at ht
  · exact congrArg beyondSending (Prod.mk.inj ht).2.symm
  · split at ht
    · exact congrArg beyondSending (Prod.mk.inj ht).2.symm
    · split at ht
      next heq =>
        obtain ⟨-, rfl⟩ := Prod.mk.inj ht
        exact (beyondSending_portSend ..).trans (by rwa [heq] at hbus)
      next heq =>
        obtain ⟨-, rfl⟩ := Prod.mk.inj ht
        rwa [heq] at hbus

/-! ### Events -/

@[simp] theorem beyondSending_updPanel (p : Nat) (f : Panel → Panel) (s : State) :
    beyondSending (updPanel p f s) = beyondSending s := rfl

@[simp] theorem beyondSending_updSlot (h w : Nat) (f : SlotBlk → SlotBlk) (s : State) :
    beyondSending (updSlot h w f s) = beyondSending s := rfl

@[simp] theorem beyondSending_odCount (i k n : Nat) (s : State) : beyondSending (odCount i k n s) = beyondSending s := by
  unfold odCount
  split <;> rfl

@[simp] theorem beyondSending_raiseVector (h : Nat) (v : Word16) (s : State) :
    beyondSending (raiseVector h v s) = beyondSending s := by
  unfold raiseVector
  extract_lets t
  split
  · split <;> rfl
  · split <;> exact beyondSending_portSend ..

@[simp] theorem beyondSending_writeProducer (p h w : Nat) (s : State) :
    beyondSending (writeProducer p h w s) = beyondSending s := by
  unfold writeProducer
  extract_lets x b
  split
  next heq => simpa using beyondSending_of_outWrite heq
  next heq => simpa using beyondSending_of_outWrite heq

theorem beyondSending_flushEvents (p fuel : Nat) (s : State) : beyondSending (flushEvents p fuel s) = beyondSending s := by
  induction fuel generalizing s with
  | zero => rfl
  | succ fuel ih =>
    unfold flushEvents
    split
    · rfl
    · split
      · extract_lets b k
        split
        · split
          next heq => simpa using beyondSending_of_outWrite heq
          next heq => simpa [ih] using beyondSending_of_outWrite heq
        · rfl
      · split
        · rfl
        · exact beyondSending_writeProducer ..
      · rfl

@[simp] theorem beyondSending_postPanel (p code src a b : Nat) (s : State) :
    beyondSending (postPanel p code src a b s) = beyondSending s := by
  unfold postPanel postPanelEvent
  split
  · exact beyondSending_flushEvents ..
  · rfl

theorem beyondSending_mgmtSend (op : Byte) (body : Bytes) (s : State) :
    beyondSending (mgmtSend op body s) = beyondSending s := by
  unfold mgmtSend
  split
  · rfl
  · split
    · exact beyondSending_odCount ..
    · rfl

theorem beyondSending_sendEventFrame (q : Word32) (e : Event) (s : State) :
    beyondSending (sendEventFrame q e s) = beyondSending s := by
  unfold sendEventFrame
  split
  · exact (beyondSending_odCount ..).trans (beyondSending_mgmtSend ..)
  · rfl

theorem beyondSending_flushMgmt (fuel : Nat) (s : State) : beyondSending (flushMgmt fuel s) = beyondSending s := by
  induction fuel generalizing s with
  | zero => rfl
  | succ fuel ih =>
    unfold flushMgmt
    split
    · rfl
    · split
      · exact (ih _).trans (beyondSending_sendEventFrame ..)
      · rfl

theorem beyondSending_postMgmt (panel code src a b : Nat) (s : State) :
    beyondSending (postMgmt panel code src a b s) = beyondSending s := by
  unfold postMgmt postMgmtEvent
  split
  · exact beyondSending_flushMgmt ..
  · exact beyondSending_odCount ..

/-! ### Links -/

theorem beyondSending_updLink (l : Nat) (f : Link → Link) (s : State) :
    beyondSending (updLink l f s) = beyondSending s := rfl

theorem beyondSending_linkCount (l o n : Nat) (s : State) : beyondSending (linkCount l o n s) = beyondSending s := by
  rw [linkCount_eq]
  rfl

theorem beyondSending_sendNumbered (l : Nat) (f : Flit) (s : State) :
    beyondSending (sendNumbered l f s) = beyondSending s := by
  simp only [sendNumbered, emitFlit, linkEmit, beyondSending_linkCount, beyondSending_updLink]

theorem beyondSending_sentWhole (l : Nat) (ends : List LinkWait) (s : State) :
    beyondSending (sentWhole l ends s) = beyondSending s := beyondSending_linkCount ..

theorem beyondSending_sendStream (l : Nat) (key : Nat × Nat × Nat) (s : State) :
    beyondSending (sendStream l key s) = beyondSending s :=
  (beyondSending_sentWhole ..).trans (beyondSending_sendNumbered ..)

theorem beyondSending_sendFrame (l : Nat) (w : LinkWait) (s : State) :
    beyondSending (sendFrame l w s) = beyondSending s :=
  (beyondSending_sentWhole ..).trans (beyondSending_linkCount ..)

theorem beyondSending_noteWait (l : Nat) (held : Bool) (s : State) :
    beyondSending (noteWait l held s) = beyondSending s := by
  unfold noteWait
  split
  · rfl
  · exact beyondSending_linkCount ..
  · rfl

theorem beyondSending_drainLink (l fuel : Nat) (s : State) : beyondSending (drainLink l fuel s) = beyondSending s := by
  induction fuel generalizing s with
  | zero => rfl
  | succ fuel ih =>
    unfold drainLink
    extract_lets x
    split
    · exact beyondSending_noteWait ..
    · split
      · exact (ih _).trans (beyondSending_sendFrame ..)
      · split
        · exact (ih _).trans (beyondSending_sendStream ..)
        · rfl

theorem beyondSending_drainCtl (l fuel : Nat) (s : State) : beyondSending (drainCtl l fuel s) = beyondSending s := by
  induction fuel generalizing s with
  | zero => rfl
  | succ fuel ih =>
    unfold drainCtl
    split
    · rfl
    · split
      · exact (ih _).trans (beyondSending_sendNumbered ..)
      · rfl

theorem beyondSending_queueOn (l : Nat) (p : Packet) (vc sub src : Nat) (s : State) :
    beyondSending (queueOn l p vc sub src s) = beyondSending s := by
  unfold queueOn pumpLink
  split
  · rfl
  · exact (beyondSending_drainLink ..).trans (beyondSending_drainCtl ..)

/-! ### A packet of this device -/

theorem beyondSending_postNoPath (src dst : Nat) (s : State) : beyondSending (postNoPath src dst s) = beyondSending s := by
  unfold postNoPath
  split
  · rfl
  · refine List.foldlRecOn (motive := fun t => beyondSending t = beyondSending s) _ _ (beyondSending_postMgmt ..) ?_
    exact fun t ht p _ => (beyondSending_postPanel ..).trans ht

theorem beyondSending_sendOrdered (vc t : Nat) (arrived : Option Nat) (p : Packet) (s : State) :
    beyondSending (sendOrdered vc t arrived p s) = beyondSending s := by
  unfold sendOrdered
  extract_lets own dst mgmt dir
  split
  · split
    · exact beyondSending_postNoPath ..
    · rfl
  · split
    · rfl
    · exact (beyondSending_queueOn ..).trans (beyondSending_odCount ..)

theorem beyondSending_sendSprayed (t : Nat) (p : Packet) (s : State) :
    beyondSending (sendSprayed t p s) = beyondSending s := by
  unfold sendSprayed
  split
  · exact beyondSending_queueOn ..
  · rfl

theorem beyondSending_netSend (core : Nat) (p : Packet) (s : State) :
    beyondSending (netSend core p s) = beyondSending s := by
  unfold netSend
  extract_lets cls t ups
  split
  · split
    · exact beyondSending_sendSprayed ..
    · exact beyondSending_sendOrdered ..
  · split
    · split
      · rfl
      · exact beyondSending_postNoPath ..
    · exact beyondSending_queueOn ..

/-- No knot counts, is poisoned or is cleared by a packet that leaves (R192). -/
theorem netSend_knots (core : Nat) (p : Packet) (s : State) : (netSend core p s).knots = s.knots := by
  have h : (beyondSending (netSend core p s)).knots = (beyondSending s).knots := by rw [beyondSending_netSend]
  exact h

end Sys2Proof.Machine
end
section
/-! SUPPORT. The counts of a CONTROL queue pair (R284), where its panel is not secure: an acknowledgement there takes no number
of a key slot, so that it cannot end queue pairs (R237), and it touches neither the knots nor the counts. -/
namespace Sys2Proof.Machine

/-! ### Acknowledgements without a seal (R237, R279) -/

theorem secure_msgCount {sub : Nat} (hsub : sub < 256) (p n : Nat) (s : State) (p' : Nat) :
    secure (msgCount p sub n s) p' = secure s p' := by
  unfold msgCount
  split
  · rfl
  · exact secure_odCount (by decide) hsub ..

@[simp] theorem msgCount_knots (p sub n : Nat) (s : State) : (msgCount p sub n s).knots = s.knots := by
  unfold msgCount
  split
  · rfl
  · exact odCount_knots ..

/-- A queue pair that owes no acknowledgement. -/
def Qp.answered (x : Qp) : Qp := { x with sinceAck := 0, ackDue := false, ece := false }

section
variable {q : Nat} {s : State} (hplain : secure s (qpOf s q).owner = false)
include hplain

theorem secure_owner_updQp {f : Qp → Qp} (hf : ∀ x, (f x).owner = x.owner) :
    secure (updQp q f s) (qpOf (updQp q f s) q).owner = false := by
  rw [qpOf_updQp_self, hf]
  exact hplain

/-- A packet of a panel that is not secure goes out as it is. -/
theorem sealPkt_open (pkt : Packet) : sealPkt q pkt s = some (pkt, s) := by
  simp only [sealPkt, hplain, Bool.not_false, if_true]

theorem sendPlain_open (op : Nat) (ece : Bool) (payload : Bytes) :
    ∃ pkt, sendPlain q op ece payload s = netSend 0 pkt s := by
  simp only [sendPlain, sealPkt_open hplain]
  exact ⟨_, rfl⟩

theorem sendAck_open : ∃ pkt, sendAck q s = netSend 0 pkt (updQp q Qp.answered s) := by
  have hanswered := secure_owner_updQp hplain (f := Qp.answered) fun _ => rfl
  unfold sendAck
  exact sendPlain_open hanswered ..

theorem sendAck_knots : (sendAck q s).knots = s.knots := by
  obtain ⟨pkt, hsent⟩ := sendAck_open hplain
  rw [hsent]
  exact netSend_knots ..

theorem qpOf_sendAck : qpOf (sendAck q s) q = (qpOf s q).answered := by
  obtain ⟨pkt, hsent⟩ := sendAck_open hplain
  rw [hsent, qpOf_of_nodes (nodes_netSend ..), qpOf_updQp_self]

/-- An acknowledgement, or the note that one is owed, leaves the counts. -/
theorem noteAck_counts : (qpOf (noteAck q s) q).counts = (qpOf s q).counts := by
  unfold noteAck
  extract_lets n
  split
  · rw [qpOf_sendAck hplain]
    rfl
  · rw [qpOf_updQp_self]

theorem dupPkt_knots : (dupPkt q s).knots = s.knots := by
  have hcounted : secure (msgCount (qpOf s q).owner 4 1 s) (qpOf (msgCount (qpOf s q).owner 4 1 s) q).owner = false := by
    rw [qpOf_of_nodes (nodes_msgCount ..), secure_msgCount (by decide), hplain]
  rw [dupPkt, sendAck_knots hcounted, msgCount_knots]

theorem ackDrop_knots (psn : BitVec 24) : (ackDrop q psn s).knots = s.knots :=
  dupPkt_knots (secure_owner_updQp hplain fun _ => rfl)

end

/-! ### Counts (R284) -/

/-- A listed operation whose count is not one of the next 2³¹ − 1. -/
theorem newKnot_old {pkt : Packet} {q : Nat} {x : Qp} {b : Bytes} {s : State} (hlen : b.length = 32)
    (hlow : 0x40 ≤ (knotMsg b).op) (hhigh : (knotMsg b).op ≤ 0x44) (hold : ¬CountsNew x (knotMsg b)) :
    newKnot pkt q x b s = ackDrop q pkt.hdr.psn s := by
  have hlisted : (decide (b.length ≠ 32) || decide ((knotMsg b).op < 0x40) || decide (0x44 < (knotMsg b).op)) = false := by
    simp only [hlen, Nat.not_lt.2 hlow, Nat.not_lt.2 hhigh, ne_eq, not_true_eq_false, decide_false, Bool.or_self]
  have hcount : (decide (((knotMsg b).count - BitVec.ofNat 32 (sget 0 x.counts (knotMsg b).core)).toNat = 0) ||
      decide (2 ^ 31 ≤ ((knotMsg b).count - BitVec.ofNat 32 (sget 0 x.counts (knotMsg b).core)).toNat)) = true := by
    rw [Bool.or_eq_true, decide_eq_true_eq, decide_eq_true_eq]
    exact Decidable.or_iff_not_imp_left.2 fun h0 => Nat.not_lt.1 fun h => hold ⟨h0, h⟩
  simp only [newKnot, hlisted, hcount, Bool.false_eq_true, if_false, if_true]

theorem storeKnot_counts (q : Nat) (pkt : Packet) (m : KnotMsg) (s : State) :
    (qpOf (storeKnot q pkt m s) q).counts = sset 0 (qpOf s q).counts m.core m.count.toNat := by
  simp only [storeKnot, takePsn, qpOf_updQp_self]

theorem storeKnot_owner (q : Nat) (pkt : Packet) (m : KnotMsg) (s : State) :
    (qpOf (storeKnot q pkt m s) q).owner = (qpOf s q).owner := by
  simp only [storeKnot, takePsn, qpOf_updQp_self]

theorem takeKnot_counts {q : Nat} {s : State} (hplain : secure s (qpOf s q).owner = false) (pkt : Packet) (m : KnotMsg) :
    sget 0 (qpOf (takeKnot q pkt m s) q).counts m.core = m.count.toNat := by
  have hstored : secure (storeKnot q pkt m s) (qpOf (storeKnot q pkt m s) q).owner = false := by
    rw [storeKnot_owner]
    exact hplain
  rw [takeKnot, noteAck_counts hstored, storeKnot_counts, sget_sset_self]

/-- Settles O42: a count that is not new ends the packet at its acknowledgement, which no knot sees; a reset and a create write a
context without counts. -/
theorem countedKnots : Obligations.CountedKnots := by
  refine ⟨fun s pkt b hn hop hlen => ?knot, fun q s => ?reset, fun p w => rfl⟩
  case knot =>
    intro q t m d hlow hhigh
    refine ⟨fun hold => ⟨?dropped, fun hplain => ackDrop_knots hplain ..⟩, fun hplain => takeKnot_counts hplain ..⟩
    case dropped =>
      have hnotNew : ¬CountsNew (qpOf t q) m := fun hnew => hold.elim hnew.1 (Nat.not_le.2 hnew.2)
      rw [exec_newKnot hn hop, newKnot_old hlen hlow hhigh hnotNew]
  case reset => rw [resetQp, qpOf_updQp_self]

end Sys2Proof.Machine
end

section
/-! SUPPORT. The tile scheduler: kernels start, end, make room and resume (R317–R324). -/
namespace Sys2Proof.Machine

/-- A fold that no element of its list moves from where it begins stays there. -/
theorem foldl_eq_init {α β : Type} {f : β → α → β} {x : β} {l : List α} (h : ∀ a ∈ l, f x a = x) : l.foldl f x = x :=
  List.foldlRecOn (motive := (· = x)) l f rfl fun _ hy a ha => hy ▸ h a ha

/-! ### Start and end -/

section
variable {p : Nat} {s : State} (hcores : ∀ j ∈ waitingOf s p, lostCoreOf s j = none)
include hcores

theorem find?_lostCoreOf_waitingOf : ((waitingOf s p).find? fun k => (lostCoreOf s k).isSome) = none :=
  List.find?_eq_none.2 fun j hj => by simp [hcores j hj]

theorem doKernelStart_starts {k : Kernel} {b : Nat}
    (hfirst : firstByPrio ((waitingOf s p).filter fun k => unblocked s k && (chooseBase s k).isSome) = some k)
    (hbase : chooseBase s k = some b) : doKernelStart p s = startAt k b s := by
  simp only [doKernelStart, find?_lostCoreOf_waitingOf hcores, hfirst, hbase, Option.getD_some]

theorem doKernelStart_noBase (hnone : ∀ j ∈ waitingOf s p, chooseBase s j = none) : doKernelStart p s = s := by
  have hempty : ((waitingOf s p).filter fun k => unblocked s k && (chooseBase s k).isSome) = [] :=
    List.filter_eq_nil_iff.2 fun j hj => by simp [hnone j hj]
  simp only [doKernelStart, find?_lostCoreOf_waitingOf hcores, hempty, firstByPrio, List.foldl_nil]

end

section
variable {kid : Nat} {k : Kernel} {s : State} (hk : kernelBy s kid = some k)
include hk

theorem doKernelEnd_ends (hdone : kernelDone s k = true) (hfree : k.phase = .ending ∨ (s.colls.any (·.kid == kid)) = false) :
    doKernelEnd kid s = endKernel k s := by
  simp only [doKernelEnd, hk]
  exact if_pos (by simpa [hdone] using hfree)

theorem doKernelEnd_working (hwork : kernelDone s k = false) : doKernelEnd kid s = s := by
  simp [doKernelEnd, hk, hwork]

theorem doKernelEnd_needed (hphase : k.phase ≠ .ending) (hcoll : (s.colls.any (·.kid == kid)) = true) :
    doKernelEnd kid s = s := by
  simp only [doKernelEnd, hk, hphase, hcoll, decide_false, Bool.not_true, Bool.or_self, Bool.and_false, Bool.false_eq_true,
    if_false]

end

/-! ### Pre-emption -/

/-- Of the bases that a kernel may take by pre-emption, the first is taken when no other costs less to save (R323). -/
theorem doPreempt_cheapest {p b : Nat} {rest : List Nat} {k : Kernel} {s : State}
    (hfirst : firstByPrio (waitingOf s p) = some k) (hframes : odGet s 0x3401 (p + 1) ≠ 0) (hbase : chooseBase s k = none)
    (hstops : ∀ j ∈ s.kernels, j.phase = .stopping → j.forKid ≠ k.kid)
    (hbases : (basesOf k).filter (canPreempt s k) = b :: rest) (hcost : ∀ a ∈ rest, saveCost s k b ≤ saveCost s k a) :
    doPreempt p s = requestStop k b s := by
  have hnone : (s.kernels.any fun j => j.phase = .stopping && j.forKid == k.kid) = false :=
    List.any_eq_false.2 fun j hj => by simpa using hstops j hj
  simp only [doPreempt, hfirst, hframes, hbase, hnone, hbases, decide_false, Option.isSome_none, Bool.or_self,
    Bool.false_eq_true, if_false, List.foldl_cons]
  rw [foldl_eq_init fun a ha => if_neg (Nat.not_lt.2 (hcost a ha))]

/-- Settles O28: each command takes the kernel that its rule names, and is void where the rule names none. -/
theorem kernelScheduling : Obligations.KernelScheduling := by
  refine ⟨fun p kid s => ⟨fun hs hcores => ⟨fun k b hfirst hbase => ?start, fun hnone => ?noBase⟩, fun hs k hk =>
    ⟨fun hwork => ?working, fun hdone hfree => ?ends, fun _ hphase hcoll => ?needed⟩⟩, fun p s k hs => ⟨?preempt, ?resume⟩⟩
  case start => exact exec_hubReady rfl hs (doKernelStart_starts hcores hfirst hbase)
  case noBase => exact exec_hubReady rfl hs (doKernelStart_noBase hcores hnone)
  case working => exact exec_settle rfl hs (doKernelEnd_working hk hwork)
  case ends => exact exec_settle rfl hs (doKernelEnd_ends hk hdone hfree)
  case needed => exact exec_settle rfl hs (doKernelEnd_needed hk hphase hcoll)
  case preempt =>
    exact fun b rest hfirst hframes hbase hstops hbases hcost =>
      exec_hubReady rfl hs (doPreempt_cheapest hfirst hframes hbase hstops hbases hcost)
  case resume => exact fun hfirst => exec_hubReady rfl hs (by simp only [doKernelResume, hfirst])

end Sys2Proof.Machine
end

section
/-! SUPPORT. Ring records of jobs and serving, and the end of a fence (R301–R304, R313, R316, R326, R328, R335). -/
namespace Sys2Proof.Machine

/-! ### FENCE and PUBLISH -/

/-- A FENCE or PUBLISH at the head of its ring stands there if its body is zero, and holds the ring otherwise (R301, R304). -/
theorem exec_fenceRecord {i : Instr} {h r type : Nat} {s : State} {c : Rec}
    (he : exec i s = settle (atD0 (doFenceRec h r type)) s) (hc : AtHead s h r c) (htype : c.type = type) :
    (c.zeroBut [] = true → exec i s = .next (pumpColls (fenceRec c s))) ∧
    (c.zeroBut [] = false → exec i s = .next (pumpColls (holdRec c s))) :=
  ⟨fun hzero => exec_atHead he hc (by simp [htype]) (if_pos hzero),
    fun hbody => exec_atHead he hc (by simp [htype]) (if_neg (Bool.eq_false_iff.1 hbody))⟩

section
variable {h r n : Nat} {type : Byte} {cqe : Bool} {tag : Word16} {s : State}

theorem doFenceClear_waits (hfence : (ringOf s h r).fence = some (n, type, cqe, tag)) (hopen : (ringOf s h r).open_ ≠ []) :
    doFenceClear h r s = s := by
  simp [doFenceClear, hfence, hopen]

theorem doFenceClear_fence (hfence : (ringOf s h r).fence = some (n, 0x02, cqe, tag)) (hopen : (ringOf s h r).open_ = []) :
    doFenceClear h r s = endFence h r n 0x02 cqe tag.toNat 0 0 s := by
  simp [doFenceClear, hfence, hopen]

/-- A PUBLISH whose fence is clear ends at once when the dirty lines that it writes back are posted. -/
theorem doFenceClear_publish {p : Nat} (hfence : (ringOf s h r).fence = some (n, 0x03, cqe, tag))
    (hopen : (ringOf s h r).open_ = []) (hpanel : ringPanel s h r = some p)
    (hposted : postedAll (tbFlush (tbOfPanel s p) s) h = true) :
    doFenceClear h r s = endFence h r n 0x03 cqe tag.toNat 0 0 (tbFlush (tbOfPanel s p) s) := by
  simp [doFenceClear, hfence, hopen, publishNow, hpanel, hposted]

/-- A MODEL whose fence is clear replaces the resident model once its images are in place (R326). -/
theorem doFenceClear_model {p : Nat} (hfence : (ringOf s h r).fence = some (n, 0x32, cqe, tag))
    (hopen : (ringOf s h r).open_ = []) (hpanel : ringPanel s h r = some p)
    (hgood : modelCause s p (ringOf s h r).fenceBody = none) {t : State}
    (hcopied : copyImages ((List.range (fieldNat (ringOf s h r).fenceBody 24 4)).map
      (imageEntry s (fieldNat (ringOf s h r).fenceBody 16 8))) s = (.done, t)) :
    doFenceClear h r s = endFence h r n 0x32 cqe tag.toNat 0 0 (setModel p (ringOf s h r).fenceBody t) := by
  simp [doFenceClear, hfence, hopen, modelNow, hpanel, hgood, hcopied]

end

/-- Settles O44: each record stands at the head of its ring, and the checks of its rule decide what becomes of it; a fence
clears once no earlier record is open. -/
theorem hubRecords : Obligations.HubRecords := by
  refine ⟨fun h r s c hc => ⟨fun ht => ⟨?nop, ?nopRefused⟩, fun ht hzero => ⟨?header, ?waits, ?fields⟩, ?fences,
    fun ht hzero hjob => ⟨?job, ?jobHeld⟩⟩, fun h r n cqe tag s hs => ⟨?stands, ?fence, ?publish⟩⟩
  case nop => exact fun hzero => exec_atHead rfl hc (by simp [ht]) (if_pos hzero)
  case nopRefused => exact fun hbody => exec_atHead rfl hc (by simp [ht]) (if_neg (Bool.eq_false_iff.1 hbody))
  case header => exact fun hbad => exec_atHead rfl hc (by simp [ht]) (by simp [hbad])
  case waits =>
    exact fun hgood hcause hcores => exec_atHead rfl hc (by simp [ht]) (by simp [hgood, hzero, hcause, hcores])
  case fields => exact fun hgood cause hbad => exec_atHead rfl hc (by simp [ht]) (by simp [hgood, hzero, hbad])
  case fences =>
    simp only [List.forall_mem_cons]
    exact ⟨exec_fenceRecord rfl hc, exec_fenceRecord rfl hc, List.forall_mem_nil _⟩
  case job => exact fun hreach => exec_atHead rfl hc (by simp [ht]) (by simp [hzero, hjob, hreach])
  case jobHeld => exact fun f cause hbad => exec_atHead rfl hc (by simp [ht]) (by simp [hzero, hjob, hbad])
  case stands => exact fun type hfence hopen => exec_hubReady rfl hs (doFenceClear_waits hfence hopen)
  case fence => exact fun hfence hopen => exec_hubReady rfl hs (doFenceClear_fence hfence hopen)
  case publish =>
    exact fun p hfence hopen hpanel hposted => exec_hubReady rfl hs (doFenceClear_publish hfence hopen hpanel hposted)

/-- Settles O46: a record's cause decides between its effect and its refusal, a MODEL is worked off when its fence clears, and a
hint that is held outlives its time where the setting is 1. -/
theorem servingRecords : Obligations.ServingRecords := by
  refine ⟨fun h r s c hc => ⟨fun ht => ⟨?hint, ?hintRefused⟩, fun ht => ⟨?worklist, ?worklistHeld⟩, ?model⟩, ?replaced,
    fun p x s hs hhint => ⟨?kept, ?expires⟩⟩
  case hint => exact fun hgood => exec_atHead rfl hc (by simp [ht]) (by simp only [hgood])
  case hintRefused => exact fun cause hbad => exec_atHead rfl hc (by simp [ht]) (by simp only [hbad])
  case worklist => exact fun hgood => exec_atHead rfl hc (by simp [ht]) (by simp only [hgood])
  case worklistHeld => exact fun cause hbad => exec_atHead rfl hc (by simp [ht]) (by simp only [hbad])
  case model => exact fun ht => exec_atHead rfl hc (by simp [ht]) rfl
  case replaced =>
    intro h r n p cqe tag s hs hfence hopen hpanel b es hgood hdone
    exact exec_hubReady rfl hs (doFenceClear_model hfence hopen hpanel hgood (Prod.ext hdone rfl))
  case kept =>
    exact fun hhold hset => exec_alive rfl hs (by simp [doHintExpiry, hhint, hhold, hset])
  case expires =>
    intro hlets
    have hpass : (x.hold && decide (odGet s 0x2000 1 = 1)) = false := by
      rwa [Bool.and_eq_false_iff, decide_eq_false_iff_not]
    exact exec_alive rfl hs (by simp only [doHintExpiry, hhint, hpass, Bool.false_eq_true, if_false])

end Sys2Proof.Machine
end

section
/-! SUPPORT. Doorbells (R299), and Riloz ports in trouble (R300, R307–R312). -/
namespace Sys2Proof.Machine

/-! ### Host writes -/

theorem hostWrite_up {h o : Nat} {bar0 : Bool} {d : Bytes} {s : State} (hup : (portOf s h).st = .up) :
    hostWrite h bar0 o d s = deliverHost h s (bar0, o, d) := by
  simp only [hostWrite, hup]

theorem hostWrite_retraining {h o : Nat} {bar0 : Bool} {d : Bytes} {s : State} (hst : (portOf s h).st = .retraining) :
    hostWrite h bar0 o d s = updPort h (fun x => { x with waitHost := x.waitHost ++ [(bar0, o, d)] }) s := by
  simp only [hostWrite, hst]

/-- A write of one field of a ring block covers no other field whole. -/
theorem fieldWrites_ringField {e : Nat × Nat} {d : Bytes} (he : e ∈ ringFields) (hlen : d.length = e.2)
    (f : Nat → Nat → State → State) (s : State) : fieldWrites ringFields e.1 d f s = f e.1 (leNat d) s := by
  have hwhole : fieldNat d 0 e.2 = leNat d := by rw [fieldNat, List.drop_zero, ← hlen, List.take_length]
  fin_cases he <;> simp_all [fieldWrites, ringFields]

/-- A host write of one field of a ring block is the write of that field (R295). -/
theorem bar0Write_ringField {h r : Nat} {e : Nat × Nat} {d : Bytes} {s : State} (hr : r < 64) (he : e ∈ ringFields)
    (hlen : d.length = e.2) : bar0Write h (ringOffset r e.1) d s = ringField h r e.1 (leNat d) s := by
  have hsmall : ∀ e ∈ ringFields, e.1 < 0x100 := by decide
  have hfield : e.1 < 0x100 := hsmall e he
  have hblock : 0x2000 ≤ ringOffset r e.1 ∧ ringOffset r e.1 < 0x6000 ∧
      (ringOffset r e.1 - 0x2000) / 0x100 = r ∧ (ringOffset r e.1 - 0x2000) % 0x100 = e.1 := by
    unfold ringOffset
    omega
  obtain ⟨hlow, hhigh, hring, hoffset⟩ := hblock
  rw [bar0Write, if_neg (by omega), if_neg (by omega), if_pos hhigh]
  simp only [hring, hoffset]
  exact fieldWrites_ringField he hlen ..

/-! ### Doorbells -/

/-- A ring as a doorbell finds it: one that was HELD runs again. -/
def Ring.resumed (x : Ring) : Ring := if x.st = .held then { x with st := .running, cause := 0 } else x

@[simp] theorem Ring.resumed_head (x : Ring) : x.resumed.head = x.head := by unfold Ring.resumed; split <;> rfl

@[simp] theorem Ring.resumed_tail (x : Ring) : x.resumed.tail = x.tail := by unfold Ring.resumed; split <;> rfl

@[simp] theorem Ring.resumed_entries (x : Ring) : x.resumed.entries = x.entries := by unfold Ring.resumed; split <;> rfl

theorem Ring.resumed_st_active {x : Ring} (hst : x.st = .running ∨ x.st = .held) : x.resumed.st = .running := by
  rcases hst with hrun | hheld
  · simp [resumed, hrun]
  · simp [resumed, hheld]

theorem Ring.resumed_st_idle {x : Ring} (hst : x.st = .disabled ∨ x.st = .quiesced) : x.resumed.st ≠ .running := by
  rcases hst with hoff | hquiet
  · simp [resumed, hoff]
  · simp [resumed, hquiet]

section
variable {h r : Nat} {v : Word32} {s : State} (hpanel : ringPanel s h r ≠ none)
include hpanel

/-- A doorbell in D0 is rung at its ring (R299, R356). -/
theorem exec_doorbell (hs : Alive s) (hup : (portOf s h).st = .up) (hr : r < 64) (hd : s.startup.dstate = 0) {t : State}
    (ht : doDoorbell h r v s = t) : exec (.doorbell h r v) s = .next (pumpColls t) := by
  have hwake : wakeDoorbell s = s := leaveD2_wakeD1_d0 hd
  have hv : leNat (toLe 4 v.toNat) = v.toNat := leNat_toLe_toNat (len := 4) v
  refine exec_settle rfl hs ?_
  calc hostWrite h true (ringOffset r 0x10) (toLe 4 v.toNat) s
    _ = bar0Write h (ringOffset r 0x10) (toLe 4 v.toNat) s := hostWrite_up hup
    _ = ringField h r 0x10 v.toNat s := by rw [bar0Write_ringField (e := (0x10, 4)) hr (by decide) (length_toLe ..), hv]
    _ = doDoorbell h r v s := by simp [ringField, hpanel, hwake]
    _ = t := ht

theorem doDoorbell_idle (hst : (ringOf s h r).st = .disabled ∨ (ringOf s h r).st = .quiesced) :
    doDoorbell h r v s = updRing h r Ring.resumed s := by
  have hidle : (ringOf (updRing h r Ring.resumed s) h r).st ≠ .running := by
    rw [ringOf_updRing_self]
    exact Ring.resumed_st_idle hst
  exact (if_neg (by simpa using hpanel)).trans (if_pos hidle)

/-- At a ring that runs, or runs again, a doorbell acts by its distances (R299). -/
theorem doDoorbell_active (hst : (ringOf s h r).st = .running ∨ (ringOf s h r).st = .held) :
    let x := ringOf s h r
    let u := updRing h r Ring.resumed s
    doDoorbell h r v s =
      if v = x.tail then checkHead h r u
      else if (v - x.head).toNat ≤ (x.tail - x.head).toNat then
        checkHead h r (updRing h r (fun x => { x with stale := x.stale + 1 }) u)
      else if (v - x.head).toNat ≤ x.entries.toNat then checkHead h r (updRing h r (fun x => { x with tail := v }) u)
      else postRing h r 0x3302 (rilozBlock h) (ringName h r) (v.toNat + 2 ^ 32 * x.head.toNat) (holdRing h r 3 u) := by
  intro x u
  have hring : ringOf u h r = x.resumed := ringOf_updRing_self ..
  have hrun : (ringOf u h r).st = .running := hring ▸ Ring.resumed_st_active hst
  rw [← x.resumed_head, ← x.resumed_tail, ← x.resumed_entries, ← hring]
  exact (if_neg (by simpa using hpanel)).trans (if_neg (not_not.2 hrun))

end

/-- Settles O47: an idle ring does nothing, and at an active one the two distances select the branch; a tail at another distance
than the accepted one is another tail. -/
theorem doorbellDistances : Obligations.DoorbellDistances := by
  intro h r v s hs hup hr hpanel hd x u a b
  refine ⟨fun hidle => exec_doorbell hpanel hs hup hr hd (doDoorbell_idle hpanel hidle), fun hactive => ?_⟩
  have hother : a ≠ b → v ≠ x.tail := fun hne htail => hne (congrArg (fun t => (t - x.head).toNat) htail)
  refine ⟨fun htail => ?same, fun hahead hroom => ?accepted, fun hbehind => ?stale, fun hahead hpast => ?refused⟩ <;>
    refine exec_doorbell hpanel hs hup hr hd ((doDoorbell_active hpanel hactive).trans ?_)
  case same => exact if_pos htail
  case accepted =>
    exact (if_neg (hother (Nat.ne_of_gt hahead))).trans ((if_neg (Nat.not_le.2 hahead)).trans (if_pos hroom))
  case stale => exact (if_neg (hother (Nat.ne_of_lt hbehind))).trans (if_pos (Nat.le_of_lt hbehind))
  case refused =>
    exact (if_neg (hother (Nat.ne_of_gt hahead))).trans
      ((if_neg (Nat.not_le.2 hahead)).trans (if_neg (Nat.not_le.2 hpast)))

/-! ### Retrain, host loss and the end of grace -/

section
variable {h : Nat} {s : State}

theorem doPortRetrain_up (hup : (portOf s h).st = .up) (failed replayed : Nat) : doPortRetrain h failed replayed s =
    portCount h 32 1 (portCount h 24 replayed (portCount h 16 failed
      (updPort h (fun x => { x with st := .retraining, retrains := x.retrains + 1 }) s))) :=
  if_neg (not_not.2 hup)

theorem doPortRetrained_retraining (hst : (portOf s h).st = .retraining) :
    doPortRetrained h s = (portOf s h).waitHost.foldl (deliverHost h) (portBack h s) :=
  if_neg (not_not.2 hst)

theorem hostWrite_attach (hst : (portOf s h).st = .hostlost) : hostWrite h true attachOffset (toLe 4 1) s = doAttach h s := by
  have hone : fieldNat (toLe 4 1) 0 4 = 1 := by decide
  simp [hostWrite, hst, hone]

theorem doHostGrace_over (hgrace : (portOf s h).grace = false) : doHostGrace h s = s := by
  simp [doHostGrace, hgrace]

end

/-! ### Hold-off and the grace of a doorbell -/

section
variable {h r : Nat} {s : State}

theorem doDoorbellGrace_invalid (htaking : taking (ringOf s h r) = true)
    (hinvalid : phaseValid (ringOf s h r) (ringOf s h r).head (recordAt s (ringOf s h r) (ringOf s h r).head) = false) :
    doDoorbellGrace h r s = holdInvalid h r s := by
  simp [doDoorbellGrace, htaking, hinvalid]

theorem doDoorbellGrace_valid
    (hvalid : phaseValid (ringOf s h r) (ringOf s h r).head (recordAt s (ringOf s h r) (ringOf s h r).head) = true) :
    doDoorbellGrace h r s = s := by
  simp [doDoorbellGrace, hvalid]

end

/-- Settles O49: the state of the port is the one that the command acts on, and what waits at it or is kept selects the effect.
That a host loss drops the writes that waited, that an attach works after the grace too, and the panel byte 0xFF of an event about
several panels are the model's choices (log 69). -/
theorem hostPorts : Obligations.HostPorts := by
  refine fun h s hs => ⟨fun hup failed replayed => ?retrain, fun hst => ⟨fun bar0 o d => ?kept, ?back⟩, fun hst => ?lost,
    fun hst => ⟨?attach, fun hgrace => ?grace, fun hgrace => ?ended⟩,
    fun v hbusy => ⟨fun hpend => ?raised, fun hidle => ?quiet⟩,
    fun r hrun hd htaking => ⟨fun hinvalid => ?invalid, fun hvalid => ?valid⟩⟩
  case retrain => exact exec_alive rfl hs (doPortRetrain_up hup failed replayed)
  case kept => exact exec_settle rfl hs (hostWrite_retraining hst)
  case back => exact exec_settle rfl hs (doPortRetrained_retraining hst)
  case lost => exact exec_settle rfl hs (if_neg (by rcases hst with hst | hst <;> simp [hst]))
  case attach => exact exec_settle rfl hs (hostWrite_attach hst)
  case grace => exact exec_settle rfl hs (if_neg (by simp [hst, hgrace]))
  case ended => exact exec_settle rfl hs (doHostGrace_over hgrace)
  case raised =>
    exact exec_alive rfl hs ((if_neg (by simpa using hbusy)).trans (if_pos (by simpa using hpend)))
  case quiet =>
    exact exec_alive rfl hs ((if_neg (by simpa using hbusy)).trans (if_neg (by simpa using hidle)))
  case invalid => exact exec_hubReady rfl ⟨hs, hrun, hd⟩ (doDoorbellGrace_invalid htaking hinvalid)
  case valid => exact exec_hubReady rfl ⟨hs, hrun, hd⟩ (doDoorbellGrace_valid hvalid)

end Sys2Proof.Machine
end

section
/-! SUPPORT. A step of the module (R349, R375): the front command takes effect, every command is answered with a
next state, and all of them keep what every operation keeps (Laws/Keeps.lean). -/
namespace Sys2Proof.Machine

/-- Every command keeps what the operations that it is made of keep. -/
theorem exec_keeps {s0 s : State} (i : Instr) (h : Keeps s0 s) : KeepsOut s0 (exec i s) :=
  match i with
  | .nop .. => execNop_keeps h | .endOp .. => execEndOp_keeps h | .loop .. => execLoop_keeps h | .next .. => execNext_keeps h
  | .seta .. => execSeta_keeps h | .adda .. => execAdda_keeps h | .waitq .. => execWaitq_keeps h
  | .yield .. => execYield_keeps h | .commit .. => execCommit_keeps h | .phase .. => execPhase_keeps h
  | .stepclose .. => execStepclose_keeps h | .load .. => execLoad_keeps h | .pass .. => execPass_keeps h
  | .checkRerun .. => execCheckRerun_keeps h | .drain .. => execDrain_keeps h | .nhold .. => execNhold_keeps h
  | .nstream .. => execNstream_keeps h | .ngraft1 .. => execNgraft1_keeps h | .ngraft2 .. => execNgraft2_keeps h
  | .vbin .. => execVbin_keeps h | .vfma .. => execVfma_keeps h | .vun .. => execVun_keeps h | .vred .. => execVred_keeps h
  | .vrow .. => execVrow_keeps h | .vcvt .. => execVcvt_keeps h | .vsoft .. => execVsoft_keeps h
  | .vmask .. => execVmask_keeps h | .vscan .. => execVscan_keeps h | .vopt .. => execVopt_keeps h
  | .fload .. => execFload_keeps h | .feval .. => execFeval_keeps h | .fderiv .. => execFderiv_keeps h
  | .operationRetire .. => execOperationRetire_keeps h | .moveCopy .. => execMoveCopy_keeps h
  | .moveSwatchRead .. => execMoveSwatchRead_keeps h | .moveSwatchWrite .. => execMoveSwatchWrite_keeps h
  | .moveTable .. => execMoveTable_keeps h | .moveZero .. => execMoveZero_keeps h | .moveSend .. => execMoveSend_keeps h
  | .stream .. => execStream_keeps h | .moverRequestIssue .. => execMoverRequestIssue_keeps h
  | .mergeWindowExpiry .. => execMergeWindowExpiry_keeps h | .chunkComplete .. => execChunkComplete_keeps h
  | .moveRetire .. => execMoveRetire_keeps h | .hostWindowFault .. => execHostWindowFault_keeps h
  | .faultResume .. => execFaultResume_keeps h | .faultAbort .. => execFaultAbort_keeps h
  | .faultTimeout .. => execFaultTimeout_keeps h | .poolConfigWrite .. => execPoolConfigWrite_keeps h
  | .kadd .. => execKadd_keeps h | .kset .. => execKset_keeps h | .kwaitge .. => execKwaitge_keeps h
  | .kwaiteq .. => execKwaiteq_keeps h | .karrive .. => execKarrive_keeps h | .spaceWait .. => execSpaceWait_keeps h
  | .dataWait .. => execDataWait_keeps h | .scommit .. => execScommit_keeps h | .srelease .. => execSrelease_keeps h
  | .spoolOccupancySample .. => execSpoolOccupancySample_keeps h | .remoteWaitRetry .. => execRemoteWaitRetry_keeps h
  | .watchdogExpiry .. => execWatchdogExpiry_keeps h | .waitAbort .. => execWaitAbort_keeps h
  | .knotGrantsWrite .. => execKnotGrantsWrite_keeps h | .kernelStart .. => execKernelStart_keeps h
  | .kernelEnd .. => execKernelEnd_keeps h | .preempt .. => execPreempt_keeps h | .kernelResume .. => execKernelResume_keeps h
  | .schedAbort .. => execSchedAbort_keeps h | .schedDecide .. => execSchedDecide_keeps h
  | .snapshotEntry .. => execSnapshotEntry_keeps h | .snapshotTimeout .. => execSnapshotTimeout_keeps h
  | .readFailure .. => execReadFailure_keeps h | .reconstructionComplete .. => execReconstructionComplete_keeps h
  | .regenerationComplete .. => execRegenerationComplete_keeps h | .restoreDone .. => execRestoreDone_keeps h
  | .rootPortDown .. => execRootPortDown_keeps h | .rootRebuild .. => execRootRebuild_keeps h
  | .rootModeWrite .. => execRootModeWrite_keeps h | .sanitizeComplete .. => execSanitizeComplete_keeps h
  | .sanitizeTimeout .. => execSanitizeTimeout_keeps h | .directWaysWrite .. => execDirectWaysWrite_keeps h
  | .streamFillStart .. => execStreamFillStart_keeps h | .streamFillComplete .. => execStreamFillComplete_keeps h
  | .tableGather .. => execTableGather_keeps h | .tableScatterAdd .. => execTableScatterAdd_keeps h
  | .tableUpdate .. => execTableUpdate_keeps h | .tableBatchPeriod .. => execTableBatchPeriod_keeps h
  | .tableBatchServe .. => execTableBatchServe_keeps h | .panelOpen .. => execPanelOpen_keeps h
  | .panelRelease .. => execPanelRelease_keeps h | .panelScrubComplete .. => execPanelScrubComplete_keeps h
  | .regionEntryValidate .. => execRegionEntryValidate_keeps h | .regionEntryRevoke .. => execRegionEntryRevoke_keeps h
  | .seamArm .. => execSeamArm_keeps h | .seamDisarm .. => execSeamDisarm_keeps h | .seamJoin .. => execSeamJoin_keeps h
  | .seamLeave .. => execSeamLeave_keeps h | .depositDense .. => execDepositDense_keeps h
  | .depositNoise .. => execDepositNoise_keeps h | .depositRowed .. => execDepositRowed_keeps h
  | .depositFree .. => execDepositFree_keeps h | .seamSlotTimeout .. => execSeamSlotTimeout_keeps h
  | .seamRelease .. => execSeamRelease_keeps h | .keyEstablish .. => execKeyEstablish_keeps h
  | .keyInstall .. => execKeyInstall_keeps h | .attestNonce .. => execAttestNonce_keeps h
  | .quoteReady .. => execQuoteReady_keeps h | .linkPartnerDetect .. => execLinkPartnerDetect_keeps h
  | .linkTrainingDone .. => execLinkTrainingDone_keeps h | .flitData .. => execFlitData_keeps h
  | .flitIdle .. => execFlitIdle_keeps h | .flitNak .. => execFlitNak_keeps h | .ident .. => execIdent_keeps h
  | .speedReq .. => execSpeedReq_keeps h | .speedAck .. => execSpeedAck_keeps h | .speedRefuse .. => execSpeedRefuse_keeps h
  | .retrain .. => execRetrain_keeps h | .retrainComplete .. => execRetrainComplete_keeps h
  | .linkRetrainTimeout .. => execLinkRetrainTimeout_keeps h | .replayTimeout .. => execReplayTimeout_keeps h
  | .speedLowerWindow .. => execSpeedLowerWindow_keeps h | .speedRaiseTrigger .. => execSpeedRaiseTrigger_keeps h
  | .packetForward .. => execPacketForward_keeps h | .sprayEscapeTimeout .. => execSprayEscapeTimeout_keeps h
  | .transmitUnderrun .. => execTransmitUnderrun_keeps h | .cutThroughStepDown .. => execCutThroughStepDown_keeps h
  | .ethFrameReceive .. => execEthFrameReceive_keeps h | .pfcSend .. => execPfcSend_keeps h
  | .pfcRepeat .. => execPfcRepeat_keeps h | .pfcReceive .. => execPfcReceive_keeps h
  | .lldpTransmit .. => execLldpTransmit_keeps h | .lldpReceive .. => execLldpReceive_keeps h
  | .neighborSolicitation .. => execNeighborSolicitation_keeps h | .ecnRateIncrease .. => execEcnRateIncrease_keeps h
  | .digestAnnounce .. => execDigestAnnounce_keeps h | .digest .. => execDigest_keeps h | .qpCreate .. => execQpCreate_keeps h
  | .qpDestroy .. => execQpDestroy_keeps h | .qpReset .. => execQpReset_keeps h | .send .. => execSend_keeps h
  | .ack .. => execAck_keeps h | .ackTimer .. => execAckTimer_keeps h | .nak .. => execNak_keeps h
  | .nakRetry .. => execNakRetry_keeps h | .nakLimitExpiry .. => execNakLimitExpiry_keeps h
  | .retryTimeout .. => execRetryTimeout_keeps h | .knot .. => execKnot_keeps h | .wake .. => execWake_keeps h
  | .contextRestoreComplete .. => execContextRestoreComplete_keeps h | .ctxRestored .. => execCtxRestored_keeps h
  | .allReduce .. => execAllReduce_keeps h | .reduceScatter .. => execReduceScatter_keeps h
  | .allGather .. => execAllGather_keeps h | .permute .. => execPermute_keeps h | .inboundWrite .. => execInboundWrite_keeps h
  | .bar2Read _ offset => execBar2Read_keeps (a1 := offset) h | .doorbell .. => execDoorbell_keeps h
  | .ringEnable .. => execRingEnable_keeps h | .ringDisable .. => execRingDisable_keeps h
  | .doorbellGraceExpiry .. => execDoorbellGraceExpiry_keeps h | .nopRecord .. => execNopRecord_keeps h
  | .kernel .. => execKernel_keeps h | .fence .. => execFence_keeps h | .fenceClear .. => execFenceClear_keeps h
  | .publish .. => execPublish_keeps h | .job .. => execJob_keeps h | .schedule .. => execSchedule_keeps h
  | .snapshot .. => execSnapshot_keeps h | .graftRegister .. => execGraftRegister_keeps h
  | .graftRelease .. => execGraftRelease_keeps h | .windowStart .. => execWindowStart_keeps h
  | .windowStop .. => execWindowStop_keeps h | .tableRegister .. => execTableRegister_keeps h
  | .tableRelease .. => execTableRelease_keeps h | .hint .. => execHint_keeps h | .hintExpiry .. => execHintExpiry_keeps h
  | .worklist .. => execWorklist_keeps h | .model .. => execModel_keeps h
  | .translationInvalidate .. => execTranslationInvalidate_keeps h | .eventConsumerWrite .. => execEventConsumerWrite_keeps h
  | .completionConsumerWrite .. => execCompletionConsumerWrite_keeps h | .irqHoldoffExpiry .. => execIrqHoldoffExpiry_keeps h
  | .portRetrain .. => execPortRetrain_keeps h | .portRetrainComplete .. => execPortRetrainComplete_keeps h
  | .hostLost .. => execHostLost_keeps h | .attach .. => execAttach_keeps h
  | .hostGraceExpiry .. => execHostGraceExpiry_keeps h | .opRequestTick .. => execOpRequestTick_keeps h
  | .capUpdate .. => execCapUpdate_keeps h | .ceilingStep .. => execCeilingStep_keeps h | .opChange .. => execOpChange_keeps h
  | .pwrbrkAssert .. => execPwrbrkAssert_keeps h | .pwrbrkDeassert .. => execPwrbrkDeassert_keeps h
  | .droopDetect .. => execDroopDetect_keeps h | .droopRecover .. => execDroopRecover_keeps h
  | .inputUndervoltage .. => execInputUndervoltage_keeps h | .inputVoltageRecover .. => execInputVoltageRecover_keeps h
  | .inputBrownoutExpiry .. => execInputBrownoutExpiry_keeps h | .inputOvervoltage .. => execInputOvervoltage_keeps h
  | .thermalSample .. => execThermalSample_keeps h | .powerOn cal => execPowerOn_keeps (a0 := cal) h
  | .powerRemoval .. => execPowerRemoval_keeps h | .boot .. => execBoot_keeps h
  | .moduleResetAssert .. => execModuleResetAssert_keeps h | .moduleResetRelease .. => execModuleResetRelease_keeps h
  | .moduleReset .. => execModuleReset_keeps h | .warmReset .. => execWarmReset_keeps h
  | .panelReset .. => execPanelReset_keeps h | .powerStateD0 .. => execPowerStateD0_keeps h
  | .powerStateD1 .. => execPowerStateD1_keeps h | .powerStateD2 .. => execPowerStateD2_keeps h
  | .powerStateD3 .. => execPowerStateD3_keeps h | .d1IdleExpiry .. => execD1IdleExpiry_keeps h
  | .coreRemap .. => execCoreRemap_keeps h | .coreHeartbeatProbe .. => execCoreHeartbeatProbe_keeps h
  | .remapGo .. => execRemapGo_keeps h | .hubAdoption .. => execHubAdoption_keeps h
  | .patrolScrub .. => execPatrolScrub_keeps h | .rowRepair .. => execRowRepair_keeps h
  | .moduleFatal .. => execModuleFatal_keeps h | .assign .. => execAssign_keeps h | .leave .. => execLeave_keeps h
  | .fabricIdWrite .. => execFabricIdWrite_keeps h | .read .. => execRead_keeps h | .write .. => execWrite_keeps h
  | .segReadInitiate .. => execSegReadInitiate_keeps h | .segWriteInitiate .. => execSegWriteInitiate_keeps h
  | .segment .. => execSegment_keeps h | .segReq .. => execSegReq_keeps h | .abort .. => execAbort_keeps h
  | .segTimeout .. => execSegTimeout_keeps h | .corRead .. => execCorRead_keeps h | .eventAck .. => execEventAck_keeps h
  | .eventRetry .. => execEventRetry_keeps h | .plcaBeaconLoss .. => execPlcaBeaconLoss_keeps h
  | .lossOfSignal .. => execLossOfSignal_keeps h | .laneFailure .. => execLaneFailure_keeps h
  | .rootPortUp .. => execRootPortUp_keeps h | .rootRebuildComplete .. => execRootRebuildComplete_keeps h
  | .plcaBeaconReturn .. => execPlcaBeaconReturn_keeps h | .pfcQuantaExpiry .. => execPfcQuantaExpiry_keeps h

theorem step_idle {s : State} (hq : s.pending = []) : step s = .next (idleTick s) := by
  simp only [step, hq]

theorem step_front {i : Instr} {rest : List Instr} {s : State} (hq : s.pending = i :: rest) :
    step s = exec i { s with pending := rest } := by
  simp only [step, hq]

/-- Settles O3: the idle tick and every command keep the canonical form, and taking a command off the queue leaves memory as
it is. -/
theorem stepKeepsMemoryCanonical : Obligations.StepKeepsMemoryCanonical := by
  intro s t hs ht
  cases hq : s.pending with
  | nil =>
    rw [step_idle hq] at ht
    exact (KeepsOut.next (idleTick_keeps (Keeps.refl s)) t ht).mem hs
  | cons i rest =>
    rw [step_front hq] at ht
    exact (exec_keeps i (Keeps.refl { s with pending := rest }) t ht).mem hs

/-- Settles O4: no command touches the queue, so a step leaves what stood behind the command that it took. -/
theorem queueIsFirstInFirstOut : Obligations.QueueIsFirstInFirstOut := by
  have hexec (i : Instr) (s t : State) (h : exec i s = .next t) : t.pending = s.pending :=
    (exec_keeps i (Keeps.refl s) t h).pending
  exact ⟨hexec, fun i rest s t hq ht => hexec i { s with pending := rest } t (step_front hq ▸ ht)⟩

/-- Settles O1. That a step with nothing waiting is a tick of the clock is the model's choice (log 2). -/
theorem stepTakesFront : Obligations.StepTakesFront := ⟨fun _ _ _ => step_front, fun _ => step_idle⟩

/-- Settles O2: each arm of `exec` is a next state, whatever the command finds. That no command faults and none is refused is the
model's choice (log 3). -/
theorem everyCommandAnswers : Obligations.EveryCommandAnswers := by
  intro i s
  cases i <;> exact ⟨_, rfl⟩

/-- Without power, in reset or after a module-fatal condition a command that asks for a module alive leaves the state as it is. -/
theorem next_of_dead {s t : State} (h : powered s = false ∨ s.startup.fatal = true) :
    (.next (if powered s && !s.startup.fatal then t else s) : Host.Outcome State Fault Refusal) = .next s := by
  rw [if_neg (by rcases h with h | h <;> simp [h])]

/-- Settles O54: every command but those of power, of the reset lines and of PWRBRK_N asks for a module that is alive. -/
theorem nothingWithoutPower : Obligations.NothingWithoutPower := by
  intro i s h
  cases i with
  | pwrbrkAssert | pwrbrkDeassert | inputOvervoltage | powerOn | powerRemoval | moduleResetAssert | moduleResetRelease
  | moduleReset => trivial
  | _ => exact next_of_dead h

end Sys2Proof.Machine
end

section
/-! SUPPORT. Where a kernel goes (R318, R319). -/
namespace Sys2Proof.Machine

/-- The free base with the most resident groups that `chooseBase` answers is the first one that has the most. -/
theorem chooseBase_eq_argmax (s : State) (k : Kernel) :
    chooseBase s k = ((basesOf k).filter fun b => (coresAt k b).all (coreFree s k)).argmax (residentCount s k) := by
  unfold chooseBase List.argmax List.argAux
  congr 1
  funext best b
  cases best <;> rfl

theorem mem_freeBases {s : State} {k : Kernel} {b : Nat} :
    b ∈ ((basesOf k).filter fun b => (coresAt k b).all (coreFree s k)) ↔
      b ∈ basesOf k ∧ (coresAt k b).all (coreFree s k) = true := List.mem_filter

/-- A kernel's bases are listed in rising order. -/
theorem basesOf_rising (k : Kernel) : (basesOf k).Pairwise (· < ·) := by
  unfold basesOf
  split
  · exact List.pairwise_singleton _ _
  · exact List.pairwise_lt_range.filter _

/-- Of a rising list, what stands no later is no greater. -/
theorem le_of_idxOf_le {l : List Nat} (hl : l.Pairwise (· < ·)) {a b : Nat} (hb : b ∈ l) (ha : a ∈ l)
    (h : l.idxOf b ≤ l.idxOf a) : b ≤ a := by
  have hltb := List.idxOf_lt_length_iff.2 hb
  have hlta := List.idxOf_lt_length_iff.2 ha
  rcases Nat.lt_or_eq_of_le h with hlt | heq
  · have := List.pairwise_iff_getElem.1 hl _ _ hltb hlta hlt
    rw [List.getElem_idxOf, List.getElem_idxOf] at this
    exact Nat.le_of_lt this
  · exact ((List.idxOf_inj hb).1 heq).le

/-- Settles O27: the base chosen is the argmax of the resident groups over the free bases, and these stand in rising order. -/
theorem baseChoice : Obligations.BaseChoice := by
  intro s k free
  have hbest {b a : Nat} (hb : chooseBase s k = some b) (ha : a ∈ basesOf k) (hfree : free a) :
      residentCount s k a < residentCount s k b ∨ (residentCount s k a = residentCount s k b ∧ b ≤ a) := by
    rw [chooseBase_eq_argmax] at hb
    obtain ⟨hmem, hmost, hfirst⟩ := List.mem_argmax_iff.1 hb
    have hlisted := mem_freeBases.2 ⟨ha, hfree⟩
    rcases Nat.lt_or_eq_of_le (hmost a hlisted) with hlt | heq
    · exact .inl hlt
    · exact .inr ⟨heq, le_of_idxOf_le ((basesOf_rising k).filter _) hmem hlisted (hfirst a hlisted heq.ge)⟩
  refine ⟨fun b hb => ?most, fun haffinity b hb a ha hfree => ?lowest, fun hnone a ha hfree => ?none⟩
  case most =>
    obtain ⟨hlisted, hfree⟩ := mem_freeBases.1 (List.argmax_mem (chooseBase_eq_argmax s k ▸ hb))
    exact ⟨hlisted, hfree, fun a => hbest hb⟩
  case lowest =>
    have hzero (b : Nat) : residentCount s k b = 0 := if_pos haffinity
    rcases hbest hb ha hfree with hlt | ⟨-, hle⟩
    · exact absurd hlt (by simp [hzero])
    · exact hle
  case none =>
    rw [chooseBase_eq_argmax, List.argmax_eq_none] at hnone
    exact List.not_mem_nil (hnone ▸ mem_freeBases.2 ⟨ha, hfree⟩)

end Sys2Proof.Machine
end

section
/-! SUPPORT. The power cap, the power controller, the input voltage and heat (R334–R343). -/
namespace Sys2Proof.Machine

/-! ### The cap -/

/-- The row of the cap: a number of two bytes from 600 to 1,500. -/
def capRow : OdRow := ⟨0x2000, 0x02, 0x02, .uint 2, .rw, 1500, .k, 600, 1500, 1⟩

theorem odRow_cap : odRow 0x2000 2 = some capRow := by decide

theorem valueOk_cap (s : State) (v : Nat) : valueOk s capRow 0x2000 2 v = true ↔ 600 ≤ v ∧ v ≤ 1500 := by
  rw [capRow]
  simp [valueOk, Nat.mod_one]

section
variable {path v : Nat} (hv : v < 2 ^ 16) (s : State)
include hv

theorem applyWrite_cap (hlow : 600 ≤ v) (hhigh : v ≤ 1500) :
    applyWrite path 0x2000 2 (toLe 2 v) s = (0, odPut 0x2000 2 v s) := by
  have hread : leNat (toLe 2 v) = v := (leNat_toLe 2 v).trans (Nat.mod_eq_of_lt hv)
  rw [applyWrite_fits odRow_cap (length_toLe 2 v) ((valueOk_cap ..).2 (by rw [hread]; exact ⟨hlow, hhigh⟩)), hread]
  rfl

theorem applyWrite_capRange (hout : v < 600 ∨ 1500 < v) :
    applyWrite path 0x2000 2 (toLe 2 v) s = (0x06, s) := by
  have hread : leNat (toLe 2 v) = v := (leNat_toLe 2 v).trans (Nat.mod_eq_of_lt hv)
  refine applyWrite_range odRow_cap (length_toLe 2 v) (Bool.eq_false_iff.2 fun hok => ?_)
  have hrange := (valueOk_cap ..).1 hok
  rw [hread] at hrange
  omega

end

@[simp] theorem odCount_power (i k n : Nat) (s : State) : (odCount i k n s).power = s.power := by
  unfold odCount
  split <;> rfl

theorem doCapUpdate_alive {s : State} (hs : Alive s) (mw : Nat) :
    let t := capCeiling mw (odGet s 0x2000 2) s.power.ceiling
    doCapUpdate mw s = odCount 0x2002 5 (if t < 16 then 10 else 0) (updPower (fun x => { x with capTarget := t }) s) :=
  if_neg (by simp [hs.1])

/-- Settles O50: the entry's row gives the range of the cap, and the update writes the cap's target and a counter. -/
theorem capWrites : Obligations.CapWrites := by
  refine fun s => ⟨fun r v hv hput => ?write, fun hs mw => ?update⟩
  case write =>
    have hexec : exec (.write r 0x2000 2 (toLe 2 v)) s = settle (doOdPut r 0x2000 2 (toLe 2 v)) s := rfl
    exact ⟨fun hout => by rw [hexec, put_exec hput (applyWrite_capRange hv _ hout)],
      fun hlow hhigh => by rw [hexec, put_exec hput (applyWrite_cap hv _ hlow hhigh), answered]⟩
  case update => exact ⟨_, exec_alive rfl hs (doCapUpdate_alive hs mw), odCount_power ..⟩

/-! ### Operating point, ceiling and PWRBRK_N -/

theorem Alive.not_dead {s : State} (hs : Alive s) : ¬(!powered s || s.startup.fatal) = true := by
  simp [hs.1, hs.2]

/-- The ceiling after one step towards its target. -/
def ceilingMoved (x : Power) : Nat :=
  if x.ceiling < ceilingTarget x then x.ceiling + 1 else if ceilingTarget x < x.ceiling then x.ceiling - 1 else x.ceiling

section
variable {s : State} (hs : Alive s)
include hs

theorem doOpRequest_alive :
    doOpRequest s = updPower (requestStep (odGet s 0x2000 6 / 10) (requestedOp s)) s :=
  if_neg (by simp [hs.1])

theorem doOpChange_due {t : Nat} (ht : s.power.target = some t) (hne : t ≠ s.power.op) : doOpChange s =
    odCount 0x2002 2 1 (updPower (fun x => { x with op := t, target := none, ceiling := min x.ceiling 4 }) s) := by
  simp only [doOpChange, ht, hs.1, hne, Bool.not_true, Bool.false_eq_true, if_false]

theorem doOpChange_inForce {t : Nat} (ht : s.power.target = some t) (he : t = s.power.op) :
    doOpChange s = updPower (fun x => { x with target := none }) s := by
  simp only [doOpChange, ht, hs.1, if_pos he, Bool.not_true, Bool.false_eq_true, if_false]

omit hs in
theorem doOpChange_none (ht : s.power.target = none) : doOpChange s = s := by
  simp only [doOpChange, ht]

/-- A step of the ceiling below 16 counts the admissions lost meanwhile, a free number (R336). -/
theorem doCeilingStep_alive : doCeilingStep s = updPower (fun x => { x with ceiling := ceilingMoved s.power })
    (if s.power.ceiling < 16 then odCount 0x2002 1 ((freshVal s).1.toNat % 2 ^ 32) (freshVal s).2 else s) := by
  unfold doCeilingStep
  exact if_neg (by simp [hs.1])

theorem power_doCeilingStep : (doCeilingStep s).power = { s.power with ceiling := ceilingMoved s.power } := by
  rw [doCeilingStep_alive hs]
  split
  · simp only [updPower, odCount_power]; rfl
  · rfl

theorem doCeilingStep_full (hfull : s.power.ceiling = 16) (htarget : ceilingTarget s.power = 16) : doCeilingStep s = s := by
  have hkept : ceilingMoved s.power = s.power.ceiling := by simp [ceilingMoved, hfull, htarget]
  rw [doCeilingStep_alive hs, if_neg (by simp [hfull]), hkept]
  rfl

theorem doPwrbrkAssert_high (hpin : s.pins.pwrbrkN = true) : doPwrbrkAssert s = odCount 0x2002 3 1
    (updPower (fun x => forceOp0 { x with pwrbrk := true }) { s with pins := { s.pins with pwrbrkN := false } }) := by
  exact (if_neg (by simp [hpin])).trans (if_neg (Alive.not_dead hs))

theorem doPwrbrkDeassert_low (hpin : s.pins.pwrbrkN = false) : doPwrbrkDeassert s =
    updPower (fun x => releaseOp0 { x with pwrbrk := false }) { s with pins := { s.pins with pwrbrkN := true } } := by
  exact (if_neg (by simp [hpin])).trans (if_neg (Alive.not_dead hs))

theorem doDroopDetect_group {g : Nat} (hg : g < 16) :
    doDroopDetect g s = updGroup g (fun x => { x with droop := true }) s :=
  if_pos (by simp [hs.1, hg])

theorem doDroopRecover_group {g : Nat} (hdroop : (groupOf s g).droop = true) (skipped : Nat) :
    let v := odGet s 0x2003 0
    let w := v / 2 ^ (64 * g) % 2 ^ 64
    doDroopRecover g skipped s = odPut 0x2003 0 (v - w * 2 ^ (64 * g) + (w + skipped) % 2 ^ 64 * 2 ^ (64 * g))
      (updGroup g (fun x => { x with droop := false }) s) :=
  if_pos (by simp [hs.1, hdroop])

/-! ### The input voltage -/

theorem doUndervoltage_low {mv : Nat} (hmv : mv < 40000) :
    let u := updPower (fun x => forceOp0 { x with underV := true, inputMv := mv }) s
    doUndervoltage mv s = if s.power.underV then u else postMgmt 0xFF 0x2004 powerBlock mv 0 u :=
  if_neg (by simp [hs.1, hmv])

omit hs in
theorem doUndervoltage_enough {mv : Nat} (hmv : 40000 ≤ mv) : doUndervoltage mv s = s :=
  if_pos (by simp [hmv])

theorem doVoltageRecover_under (hunder : s.power.underV = true) (mv : Nat) :
    doVoltageRecover mv s = if mv < 41000 then updPower (fun x => { x with inputMv := mv }) s
      else updPower (fun x => releaseOp0 { x with underV := false, inputMv := mv }) s :=
  if_neg (by simp [hs.1, hunder])

end

/-! ### Heat -/

theorem startup_postMgmt (panel code src a b : Nat) (s : State) : (postMgmt panel code src a b s).startup = s.startup :=
  congrArg (fun v => v.2.2.1) (fatalView_postMgmt panel code src a b s)

/-- A module-fatal condition leaves the module in the step of the start that it is in. -/
theorem phase_fatal (cause tile : Nat) (s : State) : (fatal cause tile s).startup.phase = s.startup.phase := by
  unfold fatal
  split
  · rfl
  · have hpost := congrArg Startup.phase (startup_postMgmt 0xFF 0x1902 (hubBlock 0) cause tile (markFatal cause s))
    exact hpost

theorem phase_thermalTrip (ts : List (BitVec 8)) (s : State) : (thermalTrip ts s).startup.phase = s.startup.phase := by
  unfold thermalTrip
  split
  · rfl
  · exact (phase_fatal ..).trans (congrArg Startup.phase (startup_postMgmt ..))

theorem phase_thermalLimit (ts : List (BitVec 8)) (s : State) : (thermalLimit ts s).startup.phase = s.startup.phase := by
  unfold thermalLimit
  split
  · split <;> rfl
  · split
    · rfl
    · exact congrArg Startup.phase (startup_postMgmt ..)

theorem odCount_startup (i k n : Nat) (s : State) : (odCount i k n s).startup = s.startup := by
  unfold odCount
  split <;> rfl

/-- A sample of the sensors is kept, and the throttle follows it (R343). -/
def throttled (ts : List (BitVec 8)) (s : State) : State :=
  updPower (fun x => throttle ts (keepTemps ts x)) (odCount 0x2002 4 (if s.power.thermTarget < 16 then 100 else 0) s)

theorem thermLimit_throttled (ts : List (BitVec 8)) (s : State) :
    (throttled ts s).power.thermLimit = s.power.thermLimit := by
  simp only [throttled, updPower, odCount_power, throttle]
  split
  · rfl
  · split <;> rfl

theorem thermalTrip_none {ts : List (BitVec 8)} (h : hotSensor 115 ts = none) (s : State) : thermalTrip ts s = s := by
  simp only [thermalTrip, h]

theorem thermalLimit_cool {ts : List (BitVec 8)} {s : State} (hlimit : s.power.thermLimit = false)
    (h : hotSensor 105 ts = none) : thermalLimit ts s = s := by
  simp only [thermalLimit, hlimit, h, Bool.false_eq_true, if_false]

theorem thermalLimit_hot {ts : List (BitVec 8)} {s : State} {i : Nat} (hlimit : s.power.thermLimit = false)
    (h : hotSensor 105 ts = some i) : thermalLimit ts s = postMgmt 0xFF 0x2002 powerBlock i (sensorTemp ts i)
      (updPower (fun x => forceOp0 { x with thermLimit := true }) s) := by
  simp only [thermalLimit, hlimit, h, Bool.false_eq_true, if_false]

/-- A sample on a module that does not wait for cool junctions: throttle, limit and trip, one after the other (R343). -/
theorem doThermal_started {ts : List (BitVec 8)} {s : State} (hs : Alive s) (hlen : ts.length = 36)
    (hphase : s.startup.phase ≠ .step 0) : doThermal ts s = thermalTrip ts (thermalLimit ts (throttled ts s)) := by
  have hheat : heatStep ts s = thermalTrip ts (thermalLimit ts (throttled ts s)) := if_neg (by simp [hs.1, hlen])
  have hkept : (heatStep ts s).startup.phase = s.startup.phase := by
    rw [hheat, phase_thermalTrip, phase_thermalLimit]
    exact congrArg Startup.phase (odCount_startup ..)
  unfold doThermal
  rw [if_neg (by simp [hkept, hphase]), hheat]

/-- Settles O51: each command by the part of the controller's state that its rule tests. The events that come once (logs 77, 78) and
the target that PWRBRK_N sets for the next change of the operating point (log 77) are the model's choices. -/
theorem powerControl : Obligations.PowerControl := by
  refine ⟨fun s hs => ⟨?request, fun t ht => ⟨fun hne => ?change, fun he => ?inForce⟩, fun ht => ?noTarget, fun mw => ?cap,
      fun hfull htarget => ?full, ⟨_, exec_alive rfl hs rfl, ?point, ?raise, ?lower, ?keep⟩, fun hpin => ?assert,
      fun hpin => ⟨?stands, ?deassert⟩, fun g hg => ?droop, fun g skipped hdroop => ?skipped⟩,
    fun mv s hs => ⟨fun hmv hnew => ?under, fun hmv hold => ?still, fun hmv => ?enough,
      fun hunder => ⟨fun hmv => ?recovered, fun hmv => ?recovering, fun hlow => ?brownout, fun hhigh => ?holds⟩,
      fun hmv => ?beyond, fun hmv => ?within,
      fun ts hlen hphase => ⟨fun hno hlimit hcool => ?cool, fun i hno hlimit hhot => ?limit, fun i htrip => ?trip⟩⟩⟩
  case request => exact exec_alive rfl hs (doOpRequest_alive hs)
  case change => exact exec_alive rfl hs (doOpChange_due hs ht hne)
  case inForce => exact exec_alive rfl hs (doOpChange_inForce hs ht he)
  case noTarget => exact exec_alive rfl hs (doOpChange_none ht)
  case cap => exact exec_alive rfl hs (doCapUpdate_alive hs mw)
  case full => exact exec_alive rfl hs (doCeilingStep_full hs hfull htarget)
  case point => rw [power_doCeilingStep hs]
  case raise => exact fun h => by rw [power_doCeilingStep hs]; exact if_pos h
  case lower => exact fun h => by rw [power_doCeilingStep hs]; exact (if_neg (Nat.lt_asymm h)).trans (if_pos h)
  case keep => exact fun h => by rw [power_doCeilingStep hs]; simp [ceilingMoved, h]
  case assert => exact congrArg Host.Outcome.next (doPwrbrkAssert_high hs hpin)
  case stands => exact congrArg Host.Outcome.next (if_pos (by simp [hpin]))
  case deassert => exact congrArg Host.Outcome.next (doPwrbrkDeassert_low hs hpin)
  case droop => exact exec_alive rfl hs (doDroopDetect_group hs hg)
  case skipped => exact exec_alive rfl hs (doDroopRecover_group hs hdroop skipped)
  case under => exact exec_alive rfl hs ((doUndervoltage_low hs hmv).trans (if_neg (by simp [hnew])))
  case still => exact exec_alive rfl hs ((doUndervoltage_low hs hmv).trans (if_pos hold))
  case enough => exact exec_alive rfl hs (doUndervoltage_enough hmv)
  case recovered => exact exec_alive rfl hs ((doVoltageRecover_under hs hunder mv).trans (if_neg (Nat.not_lt.2 hmv)))
  case recovering => exact exec_alive rfl hs ((doVoltageRecover_under hs hunder mv).trans (if_pos hmv))
  case brownout => exact exec_alive rfl hs (if_pos (by simp [hunder, hlow]))
  case holds => exact exec_alive rfl hs (if_neg (by simp [hhigh]))
  case beyond => exact congrArg Host.Outcome.next (if_pos hmv)
  case within => exact congrArg Host.Outcome.next (if_neg (Nat.not_lt.2 hmv))
  case cool =>
    have hcalm := thermalLimit_cool ((thermLimit_throttled ts s).trans hlimit) hcool
    exact exec_alive rfl hs (by rw [doThermal_started hs hlen hphase, thermalTrip_none hno, hcalm]; rfl)
  case limit =>
    have hhigh := thermalLimit_hot ((thermLimit_throttled ts s).trans hlimit) hhot
    exact exec_alive rfl hs (by rw [doThermal_started hs hlen hphase, thermalTrip_none hno, hhigh]; rfl)
  case trip => exact exec_alive rfl hs (doThermal_started hs hlen hphase)

end Sys2Proof.Machine
end

section
/-! SUPPORT. PWR_EN, MOD_RST_N and the move to D1; what a power removal and a module reset keep and lose (R349, R354–R359,
R406); the module before power (R349, R350). -/
namespace Sys2Proof.Machine

/-! ### What is kept -/

theorem mem_sput_of_ne {α : Type} {m : Sparse α} {k : Nat} {v : α} {e : Nat × α} (he : e ∈ m) (hk : e.1 ≠ k) :
    e ∈ sput m k v := by
  induction m with
  | nil => exact absurd he List.not_mem_nil
  | cons q t ih =>
    simp only [sput]
    split
    · exact List.mem_cons_of_mem _ he
    · split
      next heq => exact List.mem_cons_of_mem _ ((List.mem_cons.1 he).resolve_left fun h => hk (h ▸ heq.symm))
      next => exact List.mem_cons.2 ((List.mem_cons.1 he).imp_right ih)

theorem mem_sset_of_ne {α : Type} [DecidableEq α] {d : α} {m : Sparse α} {k : Nat} {v : α} {e : Nat × α} (he : e ∈ m)
    (hk : e.1 ≠ k) : e ∈ sset d m k v := by
  unfold sset
  split
  · exact List.mem_filter.2 ⟨he, by simpa using hk⟩
  · exact mem_sput_of_ne he hk

theorem mem_keepClasses {pick : OdClass → Bool} {od : Sparse (Option Nat)} {k : Nat} {v : Option Nat} {c : OdClass}
    (h : (k, v) ∈ od) (hc : classOf k = some c) (hpick : pick c = true) : (k, v) ∈ keepClasses pick od :=
  List.mem_filter.2 ⟨h, by simp only [hc, hpick]⟩

theorem sget_of_notMem {α : Type} {d : α} {m : Sparse α} {k : Nat} (h : k ∉ m.map (·.1)) : sget d m k = d := by
  induction m with
  | nil => rfl
  | cons e t ih =>
    simp only [List.map_cons, List.mem_cons, not_or] at h
    exact (if_neg h.1).trans (ih h.2)

/-- What power removal and a module reset keep of the panels: the key epochs (R237). -/
def keepEpochs (m : Sparse Panel) : Sparse Panel :=
  (m.filter fun e => decide (e.2.epochs ≠ [])).map fun e => (e.1, { epochs := e.2.epochs })

theorem sget_keepEpochs_notMem {m : Sparse Panel} {p : Nat} (hp : p ∉ m.map (·.1)) : sget {} (keepEpochs m) p = {} := by
  refine sget_of_notMem fun h => hp ?_
  obtain ⟨e, he, rfl⟩ := List.mem_map.1 h
  obtain ⟨x, hx, rfl⟩ := List.mem_map.1 he
  exact List.mem_map.2 ⟨x, (List.mem_filter.1 hx).1, rfl⟩

theorem epochs_keepEpochs {m : Sparse Panel} (hm : (m.map (·.1)).Nodup) (p : Nat) :
    (sget {} (keepEpochs m) p).epochs = (sget {} m p).epochs := by
  induction m with
  | nil => rfl
  | cons e t ih =>
    obtain ⟨k, x⟩ := e
    obtain ⟨hk, ht⟩ := List.nodup_cons.1 hm
    by_cases hx : x.epochs = []
    · have hdrop : keepEpochs ((k, x) :: t) = keepEpochs t := by simp [keepEpochs, hx]
      rw [hdrop, sget]
      split
      next hp => rw [hp, sget_keepEpochs_notMem hk, hx]
      next => exact ih ht
    · have hkeep : keepEpochs ((k, x) :: t) = (k, { epochs := x.epochs }) :: keepEpochs t := by simp [keepEpochs, hx]
      rw [hkeep, sget, sget]
      split
      next => rfl
      next => exact ih ht

/-- The contents of the module, and READY. -/
def contents (s : State) : Mem × Sparse Core × List Kernel × Sparse Knot × List Waiter × Sparse Qp × Sparse Ring ×
    Sparse SlotBlk × Sparse TableSlot × List Coll × Seam × Bool × Bool :=
  (s.mem, s.cores, s.kernels, s.knots, s.waiters, s.qps, s.rings, s.slots, s.tables, s.colls, s.seam, s.pins.ready,
    s.startup.running)

/-- What a power removal and a module reset make of the module: its contents are lost, and it keeps the entries of class K, the key
epochs (R237), and the queue of commands, which is the model's choice (log 81). -/
structure Emptied (s t : State) : Prop where
  contents : contents t = contents State.reset
  pending : t.pending = s.pending
  od : ∀ k v, (k, v) ∈ s.od → classOf k = some .k → (k, v) ∈ t.od
  panels : t.panels = keepEpochs s.panels

theorem emptied_powerOff (s : State) : Emptied s (powerOff s) :=
  ⟨rfl, rfl, fun _ _ h hc => mem_keepClasses h hc rfl, rfl⟩

theorem emptied_wipe (ports : Bool) (s : State) : Emptied s (wipe ports s) :=
  ⟨rfl, rfl, fun _ _ h hc => mem_keepClasses h hc rfl, rfl⟩

section
variable {s t : State} (h : Emptied s t) {index sub : Nat} (hclass : classOf (odKey index sub) ≠ some .k)
include h hclass

/-- A write of an entry that is not of class K leaves the module as it is emptied. -/
theorem Emptied.odPut (v : Nat) : Emptied s (odPut index sub v t) where
  contents := h.contents
  pending := h.pending
  od k v he hc := mem_sset_of_ne (h.od k v he hc) fun hk => hclass (hk ▸ hc)
  panels := h.panels

theorem Emptied.odCount (n : Nat) : Emptied s (odCount index sub n t) := by
  unfold Machine.odCount
  split
  · exact h
  · exact h.odPut hclass _

end

theorem emptied_beginReset (ports : Bool) (kind : Nat) (s : State) : Emptied s (beginReset ports kind s) := by
  have hkind : Emptied s (odPut 0x1800 0xB kind (wipe ports s)) := (emptied_wipe ports s).odPut (by decide) kind
  have hcounted : Emptied s (if kind = 3 then odPut 0x1800 0xB kind (wipe ports s)
      else odCount 0x1800 0xC 1 (odPut 0x1800 0xB kind (wipe ports s))) := by
    split
    · exact hkind
    · exact hkind.odCount (by decide) 1
  exact ⟨hcounted.contents, hcounted.pending, hcounted.od, hcounted.panels⟩

/-! ### The commands -/

theorem doPowerOn_off {s : State} (hphase : s.startup.phase = .off) :
    let t := { powerOff s with pins := { (powerOff s).pins with pwrEn := true } }
    doPowerOn s = if s.pins.modRstN then toImageWait t else setPhase .held t :=
  if_neg (by simp [hphase])

theorem doPowerOn_powered {s : State} (hphase : s.startup.phase ≠ .off) : doPowerOn s = s := if_pos hphase

theorem doResetAssert_high {s : State} (hpin : s.pins.modRstN = true) (hphase : s.startup.phase ≠ .off) :
    let t := { s with pins := { s.pins with modRstN := false } }
    doResetAssert s = setPhase .held (beginReset false (if s.pins.thermTripN then 1 else 4)
      { t with pins := { t.pins with thermTripN := true } }) := by
  intro t
  simp only [doResetAssert, hpin, Bool.not_true, Bool.false_eq_true, if_false, if_neg hphase, t]

theorem doResetRelease_low {s : State} (hpin : s.pins.modRstN = false) :
    let t := { s with pins := { s.pins with modRstN := true } }
    doResetRelease s = if s.startup.phase = .held then startFromReset t else t := if_neg (by simp [hpin])

/-- Settles O52: each command by the level of its pin and the step of the start; a power removal and a reset go through
`powerOff` and `wipe`. That the queue of commands is kept is the model's choice (log 81). -/
theorem powerAndReset : Obligations.PowerAndReset := by
  refine ⟨fun s => ⟨fun cal hoff => ⟨fun hpin => ?starts, fun hpin => ?held⟩, fun cal hon => ?stays, rfl,
      fun hpin => ?asserted, fun hpin hon => ?reset, fun hpin => ?released,
      fun hpin => ⟨fun hheld => ?begins, fun hother => ?raised⟩,
      fun hs => ⟨fun hrun hd htime hidle => ?d1, fun hbusy => ?d0⟩⟩,
    fun s i hi => ?emptied⟩
  case starts => exact congrArg Host.Outcome.next ((doPowerOn_off hoff).trans (if_pos hpin))
  case held => exact congrArg Host.Outcome.next ((doPowerOn_off hoff).trans (if_neg (by simp [hpin])))
  case stays => exact congrArg Host.Outcome.next (doPowerOn_powered hon)
  case asserted => exact congrArg Host.Outcome.next (if_pos (by simp [hpin]))
  case reset => exact congrArg Host.Outcome.next (doResetAssert_high hpin hon)
  case released => exact congrArg Host.Outcome.next (if_pos hpin)
  case begins => exact congrArg Host.Outcome.next ((doResetRelease_low hpin).trans (if_pos hheld))
  case raised => exact congrArg Host.Outcome.next ((doResetRelease_low hpin).trans (if_neg hother))
  case d1 => exact exec_alive rfl hs (if_pos (by simp [hrun, hd, htime, hidle]))
  case d0 => exact exec_alive rfl hs (if_neg (by rcases hbusy with h | h <;> simp [h]))
  case emptied =>
    obtain ⟨t, ht, hcontents, hpending, hod, hpanels⟩ : ∃ t, exec i s = .next t ∧ Emptied s t := by
      rcases hi with rfl | ⟨rfl, hpin, hon⟩
      · have h := emptied_powerOff { s with pins := { s.pins with pwrEn := false } }
        exact ⟨_, rfl, h.contents, h.pending, h.od, h.panels⟩
      · have h := emptied_beginReset false (if s.pins.thermTripN then 1 else 4)
          { s with pins := { s.pins with modRstN := false, thermTripN := true } }
        exact ⟨_, congrArg Host.Outcome.next (doResetAssert_high hpin hon), h.contents, h.pending, h.od, h.panels⟩
    simp only [contents, Prod.mk.injEq] at hcontents
    obtain ⟨hmem, hcores, hkernels, hknots, hwaiters, hqps, hrings, hslots, htables, hcolls, hseam, hready, hrunning⟩ :=
      hcontents
    have hepochs (hnodup : (s.panels.map (·.1)).Nodup) (p : Nat) : (panelOf t p).epochs = (panelOf s p).epochs := by
      rw [panelOf, hpanels]
      exact epochs_keepEpochs hnodup p
    exact ⟨t, ht, hmem, hcores, hkernels, hknots, hwaiters, hqps, hrings, hslots, htables, hcolls, hseam, hready, hrunning,
      hpending, hod, hepochs⟩

/-! ### The module before power -/

theorem memRead_nil (a n : Nat) : memRead [] a n = List.replicate n 0 := by
  induction n generalizing a with
  | zero => rfl
  | succ n ih => exact congrArg (0 :: ·) (ih (a + 1))

/-- Settles O55: every field is at its default, and the way to step 2 is a run of the two commands. That memory and the registers
without a reset value read 0 is the model's choice (logs 4, 5). -/
theorem resetState : Obligations.ResetState := by
  have hread (a n : Nat) : readBytes State.reset a n = List.replicate n 0 :=
    (readBytes_none a n State.reset rfl).trans (memRead_nil a n)
  refine ⟨rfl, rfl, rfl, rfl, rfl, hread, fun _ => rfl, fun _ => rfl, fun _ => rfl, fun _ => rfl, fun _ => rfl, fun _ => rfl,
    fun cal => ⟨_, _, rfl, rfl, rfl, rfl, rfl, rfl, ?_⟩⟩
  decide

end Sys2Proof.Machine
end

section
/-! SUPPORT. Who may release a panel (R241, R396). -/
namespace Sys2Proof.Machine

/-- The row of `panel.command`: 1 opens, 2 releases. -/
def panelCommandRow : OdRow := ⟨0x4000, 0x07, 0x07, .uint 1, .wo, 0, .v, 1, 2, 1⟩

theorem odRow_panelCommand : ∀ q < 16,
    odRow (panelIdx q 0) 7 = some panelCommandRow ∧ indexExists (panelIdx q 0) = true := by
  decide

/-- The release command of panel q's block asks for the rights of Table 18.9 on that block, and for nothing else. -/
theorem accessCode_release {q : Nat} (hq : q < 16) (s : State) (role : OdRole) (path : Nat) :
    accessCode s role path panelCommandRow (panelIdx q 0) 7 true 2 = if blockWritable role q 7 then 0 else 0x03 := by
  have hblock : panelIdx q 0 / 0x1000 = 4 := by unfold panelIdx; omega
  have hpanel : panelIdx q 0 / 256 % 16 = q := by unfold panelIdx; omega
  have hdelivery : delivery (panelIdx q 0) 7 = false := by simp [delivery]
  have hquote : panelIdx q 0 ≠ 0x3010 ∧ panelIdx q 0 ≠ 0x3011 := by unfold panelIdx; omega
  simp [accessCode, panelCommandRow, secureRow, mgmtOnly, hblock, hpanel, hdelivery, hquote]

theorem requestCode_release {q path panel : Nat} {s : State} {role : OdRole} (hq : q < 16) (hrun : s.startup.running = true)
    (hrole : roleOf s path panel = some role) :
    requestCode s path panel (panelIdx q 0) 7 true 2 = if blockWritable role q 7 then 0 else 0x03 := by
  obtain ⟨hrow, hexists⟩ := odRow_panelCommand q hq
  simp only [requestCode, hrole, hrun, hexists, hrow, accessCode_release hq, Bool.not_true, Bool.false_and, Bool.false_eq_true,
    if_false]

/-- A mailbox request for a panel that has a slot on the port acts for that panel (R392), and may write its block alone. -/
theorem roleOf_mailbox {path p : Nat} {s : State} (hpath : path ≠ 0) (hp : p < 16)
    (hslot : ∃ w < 4, ownerOfSlot s (path - 1) w = some p) :
    ∃ role, roleOf s path p = some role ∧ ∀ q sub, blockWritable role q sub = decide (p = q) := by
  have howns : ((List.range 4).any fun w => ownerOfSlot s (path - 1) w == some p) = true := by simpa using hslot
  refine ⟨_, (if_neg hpath).trans ((if_neg (by omega)).trans (if_pos howns)), fun q sub => ?_⟩
  split <;> rfl

/-- Settles O57: the release command asks for the rights on its block, which the management port has for every panel and the role of
a mailbox request for its own. -/
theorem releaseAccess : Obligations.ReleaseAccess := by
  refine fun s q hq hrun => ⟨fun panel => requestCode_release (role := .mgmt) hq hrun rfl, fun path p hpath hp hslot => ?_⟩
  obtain ⟨role, hrole, hright⟩ := roleOf_mailbox hpath hp hslot
  rw [requestCode_release hq hrun hrole, hright]
  simp

end Sys2Proof.Machine
end

section
/-! SUPPORT. Requests of the object dictionary and their answers, segmented transfers, addresses, and the events of the management
port (R379–R393). -/
namespace Sys2Proof.Machine

/-! ### Reads and writes -/

section
variable {r : OdReq} {m : OdMsg} {s : State}

theorem doOdRead_refused (h : TakesRequest s r m)
    (hcode : requestCode (heard r s) r.path r.panel m.index m.sub false 0 ≠ 0) :
    doOdRead r m s = answer r m 0x20 (requestCode (heard r s) r.path r.panel m.index m.sub false 0) 0 [] (heard r s) := by
  refine (onPath_takes _ h).trans ?_
  split
  next h0 => exact absurd h0 hcode
  next => rfl

theorem doOdRead_answers (h : TakesRequest s r m)
    (hcode : requestCode (heard r s) r.path r.panel m.index m.sub false 0 = 0) :
    let b := readEntry (heard r s) r.path m.index m.sub
    doOdRead r m s = if 8 < b.1.length then answer r m 0x20 0x07 0 [] (heard r s) else answer r m 0x20 0 0 b.1 b.2 := by
  refine (onPath_takes _ h).trans ?_
  simp only [hcode]

end

theorem tryWrite_refused {r : OdReq} {index sub : Nat} {data : Bytes} {s : State}
    (hcode : requestCode (wakeD1 s) r.path r.panel index sub true (leNat data) ≠ 0) :
    tryWrite r index sub data s = (requestCode (wakeD1 s) r.path r.panel index sub true (leNat data), wakeD1 s) := by
  unfold tryWrite
  dsimp only
  split
  next h0 => exact absurd h0 hcode
  next => rfl

theorem tryWrite_applies {r : OdReq} {index sub : Nat} {data : Bytes} {s : State}
    (hcode : requestCode (wakeD1 s) r.path r.panel index sub true (leNat data) = 0) :
    tryWrite r index sub data s = applyWrite r.path index sub data (wakeD1 s) := by
  simp only [tryWrite, hcode]

theorem doOdPut_refused {r : OdReq} {index sub : Nat} {data : Bytes} {s : State}
    (h : TakesRequest s r (putMsg index sub data))
    (hcode : requestCode (wakeD1 (heard r s)) r.path r.panel index sub true (leNat data) ≠ 0) :
    doOdPut r index sub data s = answer r (putMsg index sub data) 0x20
      (requestCode (wakeD1 (heard r s)) r.path r.panel index sub true (leNat data)) 0 [] (wakeD1 (heard r s)) := by
  rw [doOdPut, doOdWrite]
  refine (onPath_takes (m := putMsg index sub data) _ h).trans ?_
  simp only [putMsg, tryWrite_refused hcode]

/-! ### Segmented transfers -/

/-- A path's open transfer has ended. -/
def segClosed (path : Nat) (s : State) : State := updPath path (fun x => { x with seg := none }) s

section
variable {r : OdReq} {s : State}

theorem doSegRead_opens {index : Word16} {sub : Byte} (h : TakesRequest s r (segMsg 0x12 index sub 0))
    (hcode : requestCode (endSeg r.path 0x0C (heard r s)) r.path r.panel index.toNat sub.toNat false 0 = 0) :
    let b := readEntry (endSeg r.path 0x0C (heard r s)) r.path index.toNat sub.toNat
    let g : Seg := { write := false, index := index, sub := sub, txn := r.txn, total := b.1.length, next := 0, data := b.1,
                     panel := r.panel }
    doSegRead r (segMsg 0x12 index sub 0) s =
      answer r (segMsg 0x12 index sub 0) 0x20 0 b.1.length [] (updPath r.path (fun x => { x with seg := some g }) b.2) := by
  refine (onPath_takes _ h).trans ?_
  simp [segMsg, hcode]

theorem doSegWrite_opens {index : Word16} {sub : Byte} {total : Word32} {row : OdRow}
    (h : TakesRequest s r (segMsg 0x13 index sub total))
    (hcode : requestCode (wakeD1 (endSeg r.path 0x0C (heard r s))) r.path r.panel index.toNat sub.toNat true 0 = 0)
    (hrow : odRow index.toNat sub.toNat = some row) :
    let u := wakeD1 (endSeg r.path 0x0C (heard r s))
    let g : Seg := { write := true, index := index, sub := sub, txn := r.txn, total := total.toNat, next := 0, data := [],
                     panel := r.panel }
    let m := segMsg 0x13 index sub total
    doSegWrite r m s = if total.toNat ≠ entryLen u row index.toNat sub.toNat then
        answer r m 0x20 0x07 0 [] (wrongTotal index.toNat sub.toNat u)
      else answer r m 0x20 0 total.toNat [] (updPath r.path (fun x => { x with seg := some g }) u) := by
  refine (onPath_takes _ h).trans ?_
  simp [segMsg, hcode, hrow]

section
variable {m : OdMsg} {g : Seg} (h : TakesRequest s r m) (hseg : openSeg (pathOf (heard r s) r.path) true r.txn = some g)
include h hseg

theorem doSegment_disordered (hnext : m.param ≠ g.next) :
    doSegment r m s = answer r m 0x20 0x0A 0 [] (segClosed r.path (heard r s)) := by
  refine (onPath_takes _ h).trans ?_
  simp only [hseg, if_pos hnext]
  rfl

theorem doSegment_continues (hnext : m.param = g.next) (hpart : (g.data ++ m.data).length < g.total) :
    doSegment r m s = answer r m 0x20 0 0 []
      (updPath r.path (fun x => { x with seg := some { g with next := g.next + 1, data := g.data ++ m.data } }) (heard r s)) := by
  refine (onPath_takes _ h).trans ?_
  simp only [hseg, hnext, ne_eq, not_true_eq_false, if_false, if_neg (Nat.lt_asymm hpart), if_pos hpart]

theorem doSegment_whole (hnext : m.param = g.next) (hwhole : (g.data ++ m.data).length = g.total) :
    let e := tryWrite { r with panel := g.panel } g.index.toNat g.sub.toNat (g.data ++ m.data) (segClosed r.path (heard r s))
    doSegment r m s = answer r m 0x20 e.1 0 [] e.2 := by
  refine (onPath_takes _ h).trans ?_
  simp only [hseg, hnext, hwhole, ne_eq, not_true_eq_false, if_false, Nat.lt_irrefl]
  rfl

end

theorem doSegReq_open {m : OdMsg} {g : Seg} (h : TakesRequest s r m)
    (hseg : openSeg (pathOf (heard r s) r.path) false r.txn = some g) :
    doSegReq r m s = if g.total ≤ 1024 * m.param then answer r m 0x20 0x0A 0 [] (heard r s)
      else answer r m 0x14 0 m.param ((g.data.drop (1024 * m.param)).take 1024) (heard r s) := by
  refine (onPath_takes _ h).trans ?_
  simp only [hseg]

end

/-- A SEGMENT or SEG-REQ carries its number and its data, whatever transfer it belongs to. -/
theorem partMsg_param (s : State) (r : OdReq) (write : Bool) (op : Nat) (k : Word32) (data : Bytes) :
    (partMsg s r write op k data).param = k.toNat := by
  unfold partMsg
  split <;> rfl

theorem partMsg_data (s : State) (r : OdReq) (write : Bool) (op : Nat) (k : Word32) (data : Bytes) :
    (partMsg s r write op k data).data = data := by
  unfold partMsg
  split <;> rfl

/-! ### Addresses and events -/

/-- The request of LEAVE. -/
def leaveMsg : OdMsg := { op := 0x03, index := 0, sub := 0, param := 0, data := [] }

theorem doLeave_port {r : OdReq} {s : State} (hpath : r.path = 0) (h : TakesRequest s r leaveMsg) :
    doLeave r s = if anyKernel (heard r s) then answer r leaveMsg 0x20 0x08 0 [] (heard r s)
      else leaveFabric (answer r leaveMsg 0x20 0 0 [] (heard r s)) := by
  unfold doLeave
  refine (onPath_takes (m := leaveMsg) _ h).trans ?_
  exact if_neg (by simp [hpath])

theorem doAssign_takes {mac : BitVec 48} {node : Byte} {txn : Word16} {s : State} (hphase : s.startup.phase = .step 5)
    (hfree : odGet s 0x1100 1 = 0) (henum : s.pins.enumIn = true) (hnode : node ≠ 0) (hle : node.toNat ≤ 8) :
    let t := odCount 0x1101 1 1 (odPut 0x1100 1 node.toNat { s with mgmt := { s.mgmt with coordMac := mac } })
    let u := mgmtSend 0x02 (odHeader 0x02 0 node txn 0 0 0 22 0 ++ (List.range 16).map Config.serial ++
      toLe 6 (Config.baseMac + 24).toNat) t
    doAssign mac node.toNat txn s = alertLevel (flushMgmt 257 { u with pins := { u.pins with enumOut := u.mgmt.beacon } }) := by
  have hnode' : node.toNat ≠ 0 := fun h => hnode (BitVec.eq_of_toNat_eq h)
  have hframe : BitVec.ofNat 8 node.toNat = node := by simp
  simp only [doAssign, hphase, hfree, henum, assignedFrame, hframe]
  exact if_neg (by simp [hnode', hle])

theorem doEventAck_open {s : State} (hready : pathOpen s 0 = true) (seq : Word32) : doEventAck seq s =
    alertLevel (flushMgmt 257 (odCount 0x1101 1 1 { s with mgmt :=
      { s.mgmt with sent := s.mgmt.sent.filter fun e => decide (2 ^ 31 ≤ (seq - e.1).toNat) } })) :=
  if_neg (by simp [hready])

theorem doEventRetry_oldest {s : State} {q : Word32} {e : Event} {rest : List (Word32 × Event)} (hready : pathOpen s 0 = true)
    (hsent : s.mgmt.sent = (q, e) :: rest) : doEventRetry s = sendEventFrame q e s := by
  simp [doEventRetry, hready, hsent]

theorem doEventRetry_none {s : State} (hsent : s.mgmt.sent = []) : doEventRetry s = s := by
  simp [doEventRetry, hsent]

/-- Settles O60: a request that its path takes goes to its handler, whose checks are the statement's hypotheses. -/
theorem dictionaryRequests : Obligations.DictionaryRequests := by
  intro r s
  refine ⟨fun index sub h => ⟨fun hcode => ?readRefused, fun hcode => ⟨fun hlen => ?read, fun hlen => ?readLong,
      fun hone hlen => ?corRead⟩⟩,
    fun index sub data h => ⟨fun hcode => ?writeRefused, fun hcode => ?write⟩,
    fun index sub h hcode => ?segRead,
    fun index sub total row h hcode hrow => ⟨fun htotal => ?segWrite, fun htotal => ?wrongTotal⟩,
    fun k data g h hseg => ⟨fun hk => ?disordered, fun hk hpart => ?continues, fun hk hwhole hcode => ?whole⟩,
    fun k g h hseg => ⟨fun hin => ?segment, fun hpast => ?pastEnd⟩, fun hs hready => ?abort, fun hs path => ?timeout,
    fun h hpath => ⟨fun hidle => ?leave, fun hbusy => ?stays⟩,
    fun hs mac node txn hphase hfree henum hnode hle => ?assign,
    fun hs hready => ⟨fun seq => ?eventAck, fun q e rest hsent => ?retry, fun hsent => ?noEvent⟩,
    fun hs => ⟨exec_alive rfl hs rfl, exec_alive rfl hs rfl⟩⟩
  case readRefused => exact exec_alive rfl h.1 (doOdRead_refused h hcode)
  case read => exact exec_alive rfl h.1 ((doOdRead_answers h hcode).trans (if_neg (Nat.not_lt.2 hlen)))
  case readLong => exact exec_alive rfl h.1 ((doOdRead_answers h hcode).trans (if_pos hlen))
  case corRead =>
    exact exec_alive rfl h.1 ((if_pos hone).trans ((doOdRead_answers h hcode).trans (if_neg (Nat.not_lt.2 hlen))))
  case writeRefused => exact exec_settle rfl h.1 (doOdPut_refused h hcode)
  case write => exact put_exec ⟨h, hcode⟩ rfl
  case segRead => exact exec_alive rfl h.1 (doSegRead_opens h hcode)
  case segWrite => exact exec_alive rfl h.1 ((doSegWrite_opens h hcode hrow).trans (if_neg (not_not.2 htotal)))
  case wrongTotal => exact exec_alive rfl h.1 ((doSegWrite_opens h hcode hrow).trans (if_pos htotal))
  case disordered =>
    exact exec_settle rfl h.1 (doSegment_disordered h hseg (by rwa [partMsg_param]))
  case continues =>
    have hgo := doSegment_continues h hseg (by rwa [partMsg_param]) (by rwa [partMsg_data])
    exact exec_settle rfl h.1 (by rwa [partMsg_data] at hgo)
  case whole =>
    have hend := doSegment_whole h hseg (by rwa [partMsg_param]) (by rwa [partMsg_data])
    rw [partMsg_data, tryWrite_applies hcode] at hend
    exact exec_settle rfl h.1 hend
  case segment =>
    have hserve := doSegReq_open h hseg
    rw [partMsg_param, if_neg (Nat.not_le.2 hin)] at hserve
    exact exec_alive rfl h.1 hserve
  case pastEnd =>
    have hserve := doSegReq_open h hseg
    rw [partMsg_param, if_pos hpast] at hserve
    exact exec_alive rfl h.1 hserve
  case abort => exact exec_alive rfl hs (if_neg (by simp [hready]))
  case timeout => exact exec_alive rfl hs rfl
  case leave => exact exec_alive rfl h.1 ((doLeave_port hpath h).trans (if_neg (by simp [hidle])))
  case stays => exact exec_alive rfl h.1 ((doLeave_port hpath h).trans (if_pos hbusy))
  case assign => exact exec_alive rfl hs (doAssign_takes hphase hfree henum hnode hle)
  case eventAck => exact exec_alive rfl hs (doEventAck_open hready seq)
  case retry => exact exec_alive rfl hs (doEventRetry_oldest hready hsent)
  case noEvent => exact exec_alive rfl hs (doEventRetry_none hsent)

end Sys2Proof.Machine
end
